-- ==== Sys2Proof/Word.lean ====
section
/-! DEFINITION. The words of the EV9-M256: bytes, 32-bit and 64-bit words, and their plainest arithmetic (R1, R3). -/

namespace Sys2Proof

/-- A byte of memory (R1). -/
abbrev Byte := BitVec 8

/-- A 32-bit word: an instruction word, a literal, a scalar register, one lane of a vector register (R3). -/
abbrev Word := BitVec 32

/-- A 64-bit value: an address, a lane mask, a handle, a scalar pair (R3). -/
abbrev Dword := BitVec 64

/-- A 7-bit operand field of an instruction word (R25). -/
abbrev Code := BitVec 7

/-- The stall count S of an instruction word (R25). -/
abbrev Stall := BitVec 3

/-- A mask of the 64 lanes of a wave: bit L belongs to lane L (R3). -/
abbrev Mask := BitVec 64

/-- Whether bit `L` of a mask is 1. -/
def Mask.has (m : Mask) (L : Nat) : Bool := m.getLsbD L

/-- The lanes 0 to 63 of a wave, ascending (R11). -/
def allLanes : List Nat := List.range 64

/-- The lanes of a mask, ascending. -/
def Mask.lanes (m : Mask) : List Nat := allLanes.filter (fun L => m.getLsbD L)

/-- The mask of the lanes for which `f` is true. -/
def Mask.ofFn (f : Nat → Bool) : Mask :=
  allLanes.foldl (fun m L => if f L then m ||| (1#64 <<< L) else m) 0

/-- The number of lanes in a mask. -/
def Mask.count (m : Mask) : Nat := (Mask.lanes m).length

/-- The lowest lane of a mask, or 64 for the empty mask. -/
def Mask.lowest (m : Mask) : Nat := ((Mask.lanes m).head?).getD 64

/-- The mask of one lane. -/
def Mask.one (L : Nat) : Mask := 1#64 <<< L

/-- The low word of a 64-bit value (R3). -/
def Dword.lo (x : Dword) : Word := x.extractLsb' 0 32

/-- The high word of a 64-bit value (R3). -/
def Dword.hi (x : Dword) : Word := x.extractLsb' 32 32

/-- A 64-bit value from its two words, low word first (R3). -/
def Dword.ofWords (lo hi : Word) : Dword := hi ++ lo

end Sys2Proof
end

