-- ==== Sys2Proof/Syntax.lean ====
section
/-! DEFINITION. The instructions of the EV9-M256: one constructor for each row of the opcode table.
An encoded instruction carries its raw operand fields (R25), the fields of its extension word (R26), its stall
count `s`, and its literal `lit` where it has scalar source fields (R27).
A row of the table that is a step of an agent other than a split (R5) carries nothing: which agent and which pending
operation the step is about are the step's subject, which State holds and the docstring of its meaning lists. -/

namespace Sys2Proof

/-- The instructions and steps of the EV9-M256, one constructor for each row of the opcode table. -/
inductive Instr where
  /-- `SADD` (R80). Adds two 32-bit scalars modulo 2^32. -/
  | sadd (d a b : Code) (s : Stall) (lit : Option Word)
  /-- `SSUB` (R80). Subtracts two 32-bit scalars modulo 2^32. -/
  | ssub (d a b : Code) (s : Stall) (lit : Option Word)
  /-- `SMUL` (R80). Writes the low 32 bits of a scalar product. -/
  | smul (d a b : Code) (s : Stall) (lit : Option Word)
  /-- `SMULHU` (R80). Writes the high 32 bits of an unsigned scalar product. -/
  | smulhu (d a b : Code) (s : Stall) (lit : Option Word)
  /-- `SAND` (R80). Bitwise AND of two scalars. -/
  | sand (d a b : Code) (s : Stall) (lit : Option Word)
  /-- `SOR` (R80). Bitwise OR of two scalars. -/
  | sor (d a b : Code) (s : Stall) (lit : Option Word)
  /-- `SXOR` (R80). Bitwise XOR of two scalars. -/
  | sxor (d a b : Code) (s : Stall) (lit : Option Word)
  /-- `SANDN` (R80). Bitwise a AND NOT b of two scalars. -/
  | sandn (d a b : Code) (s : Stall) (lit : Option Word)
  /-- `SSHL` (R80). Shifts a scalar left, zero for counts of 32 or more. -/
  | sshl (d a b : Code) (s : Stall) (lit : Option Word)
  /-- `SSHR` (R80). Shifts a scalar right with zero fill. -/
  | sshr (d a b : Code) (s : Stall) (lit : Option Word)
  /-- `SSAR` (R80). Shifts a scalar right with sign fill. -/
  | ssar (d a b : Code) (s : Stall) (lit : Option Word)
  /-- `SMIN` (R80). Signed minimum of two scalars. -/
  | smin (d a b : Code) (s : Stall) (lit : Option Word)
  /-- `SMAX` (R80). Signed maximum of two scalars. -/
  | smax (d a b : Code) (s : Stall) (lit : Option Word)
  /-- `SMINU` (R80). Unsigned minimum of two scalars. -/
  | sminu (d a b : Code) (s : Stall) (lit : Option Word)
  /-- `SMAXU` (R80). Unsigned maximum of two scalars. -/
  | smaxu (d a b : Code) (s : Stall) (lit : Option Word)
  /-- `SEQ` (R80). Writes 1 when two scalars are equal, else 0. -/
  | seq (d a b : Code) (s : Stall) (lit : Option Word)
  /-- `SLT` (R80). Writes 1 when a is less than b as I32. -/
  | slt (d a b : Code) (s : Stall) (lit : Option Word)
  /-- `SLTU` (R80). Writes 1 when a is less than b as N32. -/
  | sltu (d a b : Code) (s : Stall) (lit : Option Word)
  /-- `SSEL` (R80). Selects a or b by whether the old destination is nonzero. -/
  | ssel (d a b : Code) (s : Stall) (lit : Option Word)
  /-- `SMOV` (R80). Copies a scalar source to a scalar destination. -/
  | smov (d a : Code) (s : Stall) (lit : Option Word)
  /-- `SUN` (R82). Applies the scalar unary sub-function in B to a. -/
  | sun (d a f : Code) (s : Stall) (lit : Option Word)
  /-- `SADD64` (R83). Adds two scalar pairs modulo 2^64. -/
  | sadd64 (d a b : Code) (s : Stall) (lit : Option Word)
  /-- `SSUB64` (R83). Subtracts two scalar pairs modulo 2^64. -/
  | ssub64 (d a b : Code) (s : Stall) (lit : Option Word)
  /-- `SSHL64` (R83). Shifts a scalar pair left. -/
  | sshl64 (d a b : Code) (s : Stall) (lit : Option Word)
  /-- `SSHR64` (R83). Shifts a scalar pair right with zero fill. -/
  | sshr64 (d a b : Code) (s : Stall) (lit : Option Word)
  /-- `SMUL64` (R83). Writes the low 64 bits of a pair product. -/
  | smul64 (d a b : Code) (s : Stall) (lit : Option Word)
  /-- `SBFE` (R81). Extracts a bit field of a scalar under a control word. -/
  | sbfe (d a b : Code) (s : Stall) (lit : Option Word)
  /-- `SBFI` (R81). Inserts a bit field into the destination scalar. -/
  | sbfi (d a b : Code) (s : Stall) (lit : Option Word)
  /-- `PAND` (R84). ANDs two 64-bit lane masks. -/
  | pand (d a b : Code) (s : Stall)
  /-- `POR` (R84). ORs two 64-bit lane masks. -/
  | por (d a b : Code) (s : Stall)
  /-- `PXOR` (R84). XORs two 64-bit lane masks. -/
  | pxor (d a b : Code) (s : Stall)
  /-- `PANDN` (R84). Forms a AND NOT b of two lane masks. -/
  | pandn (d a b : Code) (s : Stall)
  /-- `VADD_VV` (R108). Adds two vector registers per ACTIVE lane and element. -/
  | vaddVV (d a b : Code) (s : Stall)
  /-- `VADD_VS` (R108). Adds a vector and a broadcast scalar per ACTIVE lane. -/
  | vaddVS (d a b : Code) (s : Stall) (lit : Option Word)
  /-- `VSUB_VV` (R108). Subtracts two vector registers per ACTIVE lane. -/
  | vsubVV (d a b : Code) (s : Stall)
  /-- `VSUB_VS` (R108). Subtracts a broadcast scalar from a vector. -/
  | vsubVS (d a b : Code) (s : Stall) (lit : Option Word)
  /-- `VMUL_VV` (R108). Multiplies two vector registers per ACTIVE lane. -/
  | vmulVV (d a b : Code) (s : Stall)
  /-- `VMUL_VS` (R108). Multiplies a vector by a broadcast scalar. -/
  | vmulVS (d a b : Code) (s : Stall) (lit : Option Word)
  /-- `VFMA_VV` (R108). Fused multiply-add of two vectors into the destination. -/
  | vfmaVV (d a b : Code) (s : Stall)
  /-- `VFMA_VS` (R108). Fused multiply-add of a vector and a broadcast scalar. -/
  | vfmaVS (d a b : Code) (s : Stall) (lit : Option Word)
  /-- `VFNMA_VV` (R108). Computes d minus a times b with one rounding, vector b. -/
  | vfnmaVV (d a b : Code) (s : Stall)
  /-- `VFNMA_VS` (R108). Computes d minus a times a broadcast scalar. -/
  | vfnmaVS (d a b : Code) (s : Stall) (lit : Option Word)
  /-- `VMIN_VV` (R109). Lane minimum of two vectors. -/
  | vminVV (d a b : Code) (s : Stall)
  /-- `VMIN_VS` (R109). Lane minimum of a vector and a broadcast scalar. -/
  | vminVS (d a b : Code) (s : Stall) (lit : Option Word)
  /-- `VMAX_VV` (R109). Lane maximum of two vectors. -/
  | vmaxVV (d a b : Code) (s : Stall)
  /-- `VMAX_VS` (R109). Lane maximum of a vector and a broadcast scalar. -/
  | vmaxVS (d a b : Code) (s : Stall) (lit : Option Word)
  /-- `VAND_VV` (R111). Bitwise AND of two vector registers. -/
  | vandVV (d a b : Code) (s : Stall)
  /-- `VAND_VS` (R111). Bitwise AND of a vector and a broadcast scalar. -/
  | vandVS (d a b : Code) (s : Stall) (lit : Option Word)
  /-- `VOR_VV` (R111). Bitwise OR of two vector registers. -/
  | vorVV (d a b : Code) (s : Stall)
  /-- `VOR_VS` (R111). Bitwise OR of a vector and a broadcast scalar. -/
  | vorVS (d a b : Code) (s : Stall) (lit : Option Word)
  /-- `VXOR_VV` (R111). Bitwise XOR of two vector registers. -/
  | vxorVV (d a b : Code) (s : Stall)
  /-- `VXOR_VS` (R111). Bitwise XOR of a vector and a broadcast scalar. -/
  | vxorVS (d a b : Code) (s : Stall) (lit : Option Word)
  /-- `VSHL_VV` (R111). Shifts each element left by a per-lane count. -/
  | vshlVV (d a b : Code) (s : Stall)
  /-- `VSHL_VS` (R111). Shifts each element left by a broadcast count. -/
  | vshlVS (d a b : Code) (s : Stall) (lit : Option Word)
  /-- `VSHR_VV` (R111). Shifts each element right by a per-lane count. -/
  | vshrVV (d a b : Code) (s : Stall)
  /-- `VSHR_VS` (R111). Shifts each element right by a broadcast count. -/
  | vshrVS (d a b : Code) (s : Stall) (lit : Option Word)
  /-- `VMULH_VV` (R110). Writes the high 32 bits of per-lane products. -/
  | vmulhVV (d a b : Code) (s : Stall)
  /-- `VMULH_VS` (R110). Writes the high 32 bits of products with a broadcast scalar. -/
  | vmulhVS (d a b : Code) (s : Stall) (lit : Option Word)
  /-- `VCLAMP_VV` (R109). Clamps a between a vector lower bound and the old d. -/
  | vclampVV (d a b : Code) (s : Stall)
  /-- `VCLAMP_VS` (R109). Clamps a between a broadcast lower bound and the old d. -/
  | vclampVS (d a b : Code) (s : Stall) (lit : Option Word)
  /-- `VCEQ_VV` (R113). Writes per-lane equality of two vectors into a predicate. -/
  | vceqVV (d a b : Code) (s : Stall)
  /-- `VCEQ_VS` (R113). Writes per-lane equality against a broadcast scalar. -/
  | vceqVS (d a b : Code) (s : Stall) (lit : Option Word)
  /-- `VCLT_VV` (R113). Writes per-lane less-than of two vectors into a predicate. -/
  | vcltVV (d a b : Code) (s : Stall)
  /-- `VCLT_VS` (R113). Writes per-lane less-than against a broadcast scalar. -/
  | vcltVS (d a b : Code) (s : Stall) (lit : Option Word)
  /-- `VCLE_VV` (R113). Writes per-lane less-or-equal of two vectors. -/
  | vcleVV (d a b : Code) (s : Stall)
  /-- `VCLE_VS` (R113). Writes per-lane less-or-equal against a broadcast scalar. -/
  | vcleVS (d a b : Code) (s : Stall) (lit : Option Word)
  /-- `VCNE_VV` (R113). Writes per-lane inequality of two vectors. -/
  | vcneVV (d a b : Code) (s : Stall)
  /-- `VCNE_VS` (R113). Writes per-lane inequality against a broadcast scalar. -/
  | vcneVS (d a b : Code) (s : Stall) (lit : Option Word)
  /-- `VCLASS_VV` (R114). Tests each lane's float class against a per-lane class set. -/
  | vclassVV (d a b : Code) (s : Stall)
  /-- `VCLASS_VS` (R114). Tests each lane's float class against a broadcast class set. -/
  | vclassVS (d a b : Code) (s : Stall) (lit : Option Word)
  /-- `VSEL_VV` (R115). Selects a or vector b in every EXEC lane by the guard. -/
  | vselVV (d a b : Code) (s : Stall)
  /-- `VSEL_VS` (R115). Selects a or a broadcast scalar in every EXEC lane by the guard. -/
  | vselVS (d a b : Code) (s : Stall) (lit : Option Word)
  /-- `VMOV_VV` (R115). Copies vector A to D in ACTIVE lanes. -/
  | vmovVV (d a : Code) (s : Stall)
  /-- `VMOV_VS` (R115). Broadcasts scalar B into D in ACTIVE lanes. -/
  | vmovVS (d b : Code) (s : Stall) (lit : Option Word)
  /-- `VUN_VV` (R116). Applies the unary function in B to vector A. -/
  | vunVV (d a f : Code) (s : Stall)
  /-- `VUN_VS` (R116). Applies the unary function in B to a broadcast scalar A. -/
  | vunVS (d a f : Code) (s : Stall) (lit : Option Word)
  /-- `VCVT_VV` (R117). Converts vector elements from the type in B to MODE.TYPE. -/
  | vcvtVV (d a t : Code) (s : Stall)
  /-- `VCVT_VS` (R117). Converts a broadcast scalar from the type in B to MODE.TYPE. -/
  | vcvtVS (d a t : Code) (s : Stall) (lit : Option Word)
  /-- `VBFE_VV` (R112). Extracts per-lane bit fields under per-lane control words. -/
  | vbfeVV (d a b : Code) (s : Stall)
  /-- `VBFE_VS` (R112). Extracts per-lane bit fields under one control word. -/
  | vbfeVS (d a b : Code) (s : Stall) (lit : Option Word)
  /-- `VBFI_VV` (R112). Inserts per-lane bit fields under per-lane control words. -/
  | vbfiVV (d a b : Code) (s : Stall)
  /-- `VBFI_VS` (R112). Inserts per-lane bit fields under one control word. -/
  | vbfiVS (d a b : Code) (s : Stall) (lit : Option Word)
  /-- `VQUAD_VV` (R119). Exchanges or differentiates values within each quad. -/
  | vquadVV (d a p : Code) (s : Stall)
  /-- `VQUAD_VS` (R119). Applies a quad pattern to a broadcast scalar. -/
  | vquadVS (d a p : Code) (s : Stall) (lit : Option Word)
  /-- `VSHUF_VV` (R120). Reads lane b[L] of A into each ACTIVE lane. -/
  | vshufVV (d a b : Code) (s : Stall)
  /-- `VSHUF_VS` (R120). Broadcasts one lane of A chosen by a scalar. -/
  | vshufVS (d a b : Code) (s : Stall) (lit : Option Word)
  /-- `VRFIRST` (R121). Copies the lowest ACTIVE lane of a vector to a scalar. -/
  | vrfirst (d a : Code) (s : Stall)
  /-- `VRLANE` (R121). Copies a named lane of a vector to a scalar. -/
  | vrlane (d a b : Code) (s : Stall) (lit : Option Word)
  /-- `VWLANE` (R121). Writes a scalar into a named lane of a vector. -/
  | vwlane (d a b : Code) (s : Stall) (lit : Option Word)
  /-- `VDOT2_VV` (R123). Adds the dot product of packed elements of two vectors to d. -/
  | vdot2VV (d a b : Code) (s : Stall)
  /-- `VDOT2_VS` (R123). Adds the packed dot product with a broadcast scalar to d. -/
  | vdot2VS (d a b : Code) (s : Stall) (lit : Option Word)
  /-- `VPFX_VV` (R122). Computes an inclusive prefix over ACTIVE lanes of a vector. -/
  | vpfxVV (d a f : Code) (s : Stall)
  /-- `VPFX_VS` (R122). Computes an inclusive prefix of a broadcast scalar. -/
  | vpfxVS (d a f : Code) (s : Stall) (lit : Option Word)
  /-- `LDG` (R133). Loads per-lane global data at a base pair plus 32-bit offsets. -/
  | ldg (d a : Code) (z : BitVec 3) (n : BitVec 4) (s : Stall)
  /-- `STG` (R133). Stores per-lane data to global memory at base plus offsets. -/
  | stg (d a : Code) (z : BitVec 3) (n : BitVec 4) (s : Stall)
  /-- `LDGA` (R133). Loads per-lane global data at 64-bit lane addresses. -/
  | ldga (d a : Code) (z : BitVec 3) (s : Stall)
  /-- `STGA` (R133). Stores per-lane data at 64-bit lane addresses. -/
  | stga (d a : Code) (z : BitVec 3) (s : Stall)
  /-- `LDS` (R133). Loads per-lane data from the gang scratch window. -/
  | lds (d a : Code) (z : BitVec 3) (m : BitVec 4) (s : Stall)
  /-- `STS` (R133). Stores per-lane data to the gang scratch window. -/
  | sts (d a : Code) (z : BitVec 3) (m : BitVec 4) (s : Stall)
  /-- `LDGS` (R134). Copies per-lane global data into scratch without registers. -/
  | ldgs (d a : Code) (z : BitVec 3) (n : BitVec 4) (s : Stall)
  /-- `ATOMG` (R137). Performs a per-lane atomic on global memory. -/
  | atomg (d a : Code) (n kind : BitVec 4) (scope : BitVec 3) (w64 ret : BitVec 1) (cmp : BitVec 7) (s : Stall)
  /-- `ATOMS` (R137). Performs a per-lane atomic on scratch. -/
  | atoms (d a : Code) (m kind : BitVec 4) (scope : BitVec 3) (w64 ret : BitVec 1) (cmp : BitVec 7) (s : Stall)
  /-- `SLD` (R135). Loads 1 to 16 consecutive scalar registers from global memory. -/
  | sld (d a b : Code) (size : BitVec 3) (off : BitVec 24) (s : Stall) (lit : Option Word)
  /-- `SST` (R135). Stores 1 to 16 consecutive scalar registers to global memory. -/
  | sst (d a b : Code) (size : BitVec 3) (off : BitVec 24) (s : Stall) (lit : Option Word)
  /-- `FETCH` (R346). Samples textures or gathers compressed tile elements per lane. -/
  | fetch (d a b : Code) (lod : BitVec 2) (s : Stall)
  /-- `PREF` (R139). Prefetches per-lane lines into the cluster cache or L2. -/
  | pref (a : Code) (n : BitVec 4) (level : BitVec 2) (own : BitVec 1) (s : Stall)
  /-- `CMAINT` (R140). Cleans, evicts, zeroes or flushes a range of lines. -/
  | cmaint (a b : Code) (op : BitVec 4) (s : Stall) (lit : Option Word)
  /-- `CPY` (R189). Hands the copy engine a per-lane copy command into a ring slot. -/
  | cpy (d a b : Code) (hring srcn dstn : BitVec 4) (size : BitVec 2) (sscr dscr : BitVec 1) (s : Stall) (lit : Option Word)
  /-- `CPYMC` (R193). Multicasts a scratch range to gangs of the grid on named clusters. -/
  | cpymc (d a b : Code) (len : BitVec 12) (s : Stall) (lit : Option Word)
  /-- `PACK` (R200). Compresses a dense scratch tile into a sparse tile. -/
  | pack (d a b : Code) (hring : BitVec 4) (scr : BitVec 1) (pitch : BitVec 10) (s : Stall) (lit : Option Word)
  /-- `UNPACK` (R201). Expands a compressed tile into dense scratch rows. -/
  | unpack (d a b : Code) (hring : BitVec 4) (scr tr : BitVec 1) (pitch : BitVec 10) (s : Stall) (lit : Option Word)
  /-- `MALLOC` (R209). Gives every wave of the gang its accumulator window. -/
  | malloc (a : Code) (w : BitVec 1) (s : Stall) (lit : Option Word)
  /-- `MFREE` (R210). Releases the gang's accumulator windows after earlier commands. -/
  | mfree (s : Stall)
  /-- `MLOADW` (R212). Loads a weight plane from scratch into the gang's shadow plane. -/
  | mloadw (d a b : Code) (fmt : BitVec 4) (pitch : BitVec 10) (s : Stall) (lit : Option Word)
  /-- `MSWAP` (R213). Exchanges the gang's active and shadow weight planes. -/
  | mswap (s : Stall)
  /-- `MSTREAM` (R214). Streams activation rows past the active plane into accumulator rows. -/
  | mstream (d a b : Code) (fmt : BitVec 4) (sr : BitVec 3) (ini : BitVec 1) (mmax : BitVec 7) (pitch : BitVec 10) (s : Stall) (lit : Option Word)
  /-- `MDRAIN` (R218). Drains accumulator rows to scratch through the epilogue. -/
  | mdrain (d a b : Code) (raw : BitVec 1) (act ofmt : BitVec 3) (scl : BitVec 2) (bias : BitVec 1) (pitch : BitVec 10) (nc : BitVec 7) (icell : BitVec 1) (s : Stall) (lit : Option Word)
  /-- `MZERO` (R218). Sets accumulator rows of the window to zero. -/
  | mzero (a b : Code) (s : Stall) (lit : Option Word)
  /-- `MFILL` (R218). Fills accumulator cells from scratch rows. -/
  | mfill (d a b : Code) (pitch : BitVec 10) (nc : BitVec 7) (s : Stall) (lit : Option Word)
  /-- `NCALL` (R240). Places one neural-call row per ACTIVE lane into market booths. -/
  | ncall (d a b : Code) (nin : BitVec 6) (nout : BitVec 5) (itype otype : BitVec 2) (token : BitVec 3) (s : Stall)
  /-- `WHINT` (R238). Prefetches, pins, unpins or drops a weight set in the weight cache. -/
  | whint (d a : Code) (op : BitVec 2) (s : Stall) (lit : Option Word)
  /-- `SPAWN` (R256). Places per-lane threads into spawn booths keyed by entry address. -/
  | spawn (d a : Code) (pay : BitVec 4) (s : Stall)
  /-- `SPAWNC` (R256). Places per-lane threads into spawn booths keyed by length class. -/
  | spawnc (d a b : Code) (pay : BitVec 4) (s : Stall)
  /-- `PRIMEMIT` (R334). Emits one primitive per ACTIVE lane to the raster engines. -/
  | primemit (a b : Code) (cull : BitVec 2) (s : Stall) (lit : Option Word)
  /-- `TRACE` (R316). Starts a ray query per ACTIVE lane in the ray unit. -/
  | trace (d a b : Code) (mode : BitVec 2) (log cullb : BitVec 1) (logn : BitVec 4) (s : Stall)
  /-- `TRACEC` (R322). Resumes suspended ray queries with per-lane decisions. -/
  | tracec (d a b : Code) (logn : BitVec 4) (s : Stall)
  /-- `REPLAY` (R325). Re-evaluates logged hits and writes derivative records. -/
  | replay (d a b : Code) (full : BitVec 1) (s : Stall)
  /-- `PIXLOCK` (R341). Holds until earlier primitives release the lanes' samples, then acquires. -/
  | pixlock (s : Stall)
  /-- `PIXUNLOCK` (R341). Releases the ordered interlock held by ACTIVE lanes. -/
  | pixunlock (s : Stall)
  /-- `PIXEXP` (R342). Sends each ACTIVE lane's colour to the blend units. -/
  | pixexp (a : Code) (target zw : BitVec 1) (s : Stall)
  /-- `ATTR` (R340). Loads or interpolates vertex attributes per lane. -/
  | attr (d a b : Code) (first : BitVec 5) (count : BitVec 3) (mode k : BitVec 2) (basen : BitVec 4) (stride : BitVec 6) (s : Stall)
  /-- `NLGRID` (R362). Builds or rebins a neighbour grid. -/
  | nlgrid (d a : Code) (op : BitVec 2) (s : Stall)
  /-- `NLINS` (R363). Inserts or moves particles of a neighbour grid. -/
  | nlins (d a b : Code) (mode : BitVec 2) (s : Stall)
  /-- `NLPAIRS` (R366). Streams pairs within the cut-off into ring slots. -/
  | nlpairs (d a b : Code) (hring : BitVec 4) (full : BitVec 1) (skip : BitVec 7) (slots : BitVec 12) (s : Stall) (lit : Option Word)
  /-- `NLSTAT` (R367). Returns a grid's status after earlier commands end. -/
  | nlstat (d a : Code) (s : Stall)
  /-- `CLOPEN` (R160). Opens or creates the clause for a key at its home slice. -/
  | clopen (d a b : Code) (s : Stall) (lit : Option Word)
  /-- `CLJOIN` (R165). Joins ACTIVE lanes to a clause for the next phase. -/
  | cljoin (d a : Code) (s : Stall)
  /-- `CLLEAVE` (R165). Removes ACTIVE member lanes from a clause. -/
  | clleave (a : Code) (s : Stall)
  /-- `CLARRIVE` (R165). Arrives ACTIVE lanes at the clause's current phase. -/
  | clarrive (a : Code) (s : Stall)
  /-- `CLWAIT` (R165). Holds until ACTIVE lanes' awaited phases complete and writes status. -/
  | clwait (d a : Code) (s : Stall)
  /-- `CLBAR` (R165). Arrives ACTIVE lanes and waits for the phase to complete. -/
  | clbar (d a : Code) (s : Stall)
  /-- `CLVOTE` (R166). Arrives with a predicate vote and waits for the phase result. -/
  | clvote (d a b : Code) (kind : BitVec 2) (st : BitVec 7) (s : Stall)
  /-- `CLRED` (R166). Arrives with a reduction operand and waits for the phase result. -/
  | clred (d a b : Code) (op : BitVec 4) (ty : BitVec 2) (st : BitVec 7) (s : Stall)
  /-- `CLCLOSE` (R161). Reduces the clause's reference count by one. -/
  | clclose (a : Code) (s : Stall)
  /-- `CLINFO` (R170). Reads a clause entry field, optionally clearing FAULTED. -/
  | clinfo (d a b : Code) (s : Stall) (lit : Option Word)
  /-- `BIND` (R171). Sets or clears a binding of address ranges on a sync object. -/
  | bind (d a b : Code) (index : BitVec 4) (scope : BitVec 3) (clear : BitVec 1) (s : Stall) (lit : Option Word)
  /-- `ACQ` (R172). Holds until a lock word reaches a threshold, then acquires. -/
  | acq (d a b : Code) (s : Stall) (lit : Option Word)
  /-- `REL` (R172). Writes a lock word at its home as a release. -/
  | rel (a b : Code) (s : Stall) (lit : Option Word)
  /-- `GBAR` (R174). Arrives at a gang barrier and waits for its phase. -/
  | gbar (n : BitVec 4) (s : Stall)
  /-- `GARRIVE` (R174). Arrives at a gang barrier without waiting. -/
  | garrive (n : BitVec 4) (s : Stall)
  /-- `GWAIT` (R174). Waits for every gang-barrier phase the wave arrived in. -/
  | gwait (n : BitVec 4) (s : Stall)
  /-- `WAITC` (R175). Holds until a path counter is at most a threshold. -/
  | waitc (p : BitVec 3) (b : Code) (s : Stall) (lit : Option Word)
  /-- `NWAIT` (R249). Holds until a neural-call token resolves and delivers any failure. -/
  | nwait (a : Code) (s : Stall)
  /-- `QENQ` (R178). Enqueues one entry per ACTIVE lane as a release. -/
  | qenq (d a b : Code) (s : Stall)
  /-- `QPOP` (R178). Pops one entry per ACTIVE lane as an acquire. -/
  | qpop (d a b : Code) (s : Stall)
  /-- `QENQU` (R178). Enqueues one entry from scalar registers. -/
  | qenqu (d a b : Code) (s : Stall)
  /-- `RAWAIT` (R181). Holds until FILL passes a ring slot and returns its status. -/
  | rawait (d a b : Code) (s : Stall) (lit : Option Word)
  /-- `RARES` (R181). Reserves the next ring slot and clears its status. -/
  | rares (d a : Code) (s : Stall)
  /-- `RAREL` (R181). Raises a ring's REL index as a release. -/
  | rarel (a b : Code) (s : Stall) (lit : Option Word)
  /-- `FENCE_L` (R147). Orders the wave's earlier accesses before its later ones. -/
  | fenceL (s : Stall)
  /-- `FENCE_H` (R148). Holds until every cluster in scope passes a fence point. -/
  | fenceH (c : BitVec 3) (s : Stall)
  /-- `HMAKE` (R157). Builds a typed handle from a scalar pair. -/
  | hmake (d a : Code) (t : BitVec 4) (s : Stall) (lit : Option Word)
  /-- `HREAD` (R157). Copies a handle's 64 bits into a scalar pair. -/
  | hread (d a : Code) (s : Stall)
  /-- `BRA` (R91). Branches, dividing the split or pushing a P entry on a divergent condition. -/
  | bra (c : BitVec 4) (n h : BitVec 1) (o : BitVec 15) (s : Stall)
  /-- `BRAZ` (R98). Branches the whole split when a scalar is zero. -/
  | braz (d : Code) (o : BitVec 14) (s : Stall) (lit : Option Word)
  /-- `BRANZ` (R98). Branches the whole split when a scalar is nonzero. -/
  | branz (d : Code) (o : BitVec 14) (s : Stall) (lit : Option Word)
  /-- `JOIN` (R92). Pops a P entry or arrives at a join instance. -/
  | join (s : Stall)
  /-- `SETJ` (R91). Pushes a J HOME entry with the join address. -/
  | setj (o : BitVec 15) (s : Stall)
  /-- `CALL` (R99). Writes the link to s94:s95 and branches. -/
  | call (o : BitVec 15) (s : Stall)
  /-- `RET` (R99). Sets PC from a scalar pair. -/
  | ret (a : Code) (s : Stall) (lit : Option Word)
  /-- `JMPI` (R99). Jumps to a pair plus four times an index. -/
  | jmpi (a b : Code) (s : Stall) (lit : Option Word)
  /-- `SETMODE` (R30). Writes MODE from a 21-bit immediate. -/
  | setmode (i : BitVec 21) (s : Stall)
  /-- `EXIT` (R100). Removes the split's EXEC lanes and ends, pops or arrives. -/
  | exit (s : Stall)
  /-- `YIELD` (R101). Removes the split from the greedy issue rule for one selection. -/
  | yield (s : Stall)
  /-- `SLEEP` (R101). Puts the split to sleep for a number of clk. -/
  | sleep (a : Code) (s : Stall) (lit : Option Word)
  /-- `REGGIVE` (R102). Returns blocks of vector registers to the gang's pool. -/
  | reggive (a : Code) (s : Stall) (lit : Option Word)
  /-- `REGCLAIM` (R102). Claims blocks of vector registers from the gang's pool. -/
  | regclaim (a : Code) (s : Stall) (lit : Option Word)
  /-- `LAUNCH` (R266). Enqueues a launch record address on a watched launch queue. -/
  | launch (d a b : Code) (s : Stall) (lit : Option Word)
  /-- `NOP` (R103). Does nothing but count its stall. -/
  | nop (s : Stall)
  /-- `TRAP` (R284). Raises SWTRAP with the scalar argument. -/
  | trap (a : Code) (s : Stall) (lit : Option Word)
  /-- `RTE` (R281). Checks the split table and returns from the handler. -/
  | rte (s : Stall)
  /-- `CSRR` (R285). Reads a CSR into a scalar register. -/
  | csrr (d : Code) (c : BitVec 14) (s : Stall)
  /-- `CSRW` (R285). Writes a scalar to a CSR under its access codes. -/
  | csrw (d : Code) (c : BitVec 14) (s : Stall) (lit : Option Word)
  /-- `TLBINV_PAGE` (R298). Removes every TLB entry of one page of an ASID. -/
  | tlbinvPage (a : Code) (asid : BitVec 16) (s : Stall) (lit : Option Word)
  /-- `TLBINV_ASIDALL` (R298). Removes every non-global TLB entry of an ASID. -/
  | tlbinvAsidall (a : Code) (asid : BitVec 16) (s : Stall) (lit : Option Word)
  /-- `TLBINV_ALL` (R298). Removes every TLB entry. -/
  | tlbinvAll (a : Code) (asid : BitVec 16) (s : Stall) (lit : Option Word)
  /-- `TLBINV_RESOLVE` (R298). Invalidates a page and frees its merge entry so waiters reissue. -/
  | tlbinvResolve (a : Code) (asid : BitVec 16) (s : Stall) (lit : Option Word)
  /-- `TLBINV_REFUSE` (R298). Invalidates a page and frees its merge entry so waiters take XLATE. -/
  | tlbinvRefuse (a : Code) (asid : BitVec 16) (s : Stall) (lit : Option Word)
  /-- `SRAMCFG` (R302). Switches a cluster SRAM bank between CACHE, SCRATCH and FIFO. -/
  | sramcfg (d a : Code) (mode : BitVec 2) (s : Stall) (lit : Option Word)
  /-- `SPLITRD` (R291). Stores a split record to memory. -/
  | splitrd (a b : Code) (s : Stall) (lit : Option Word)
  /-- `SPLITWR` (R291). Loads a split record from memory. -/
  | splitwr (a b : Code) (s : Stall) (lit : Option Word)
  /-- `DSTKRD` (R291). Stores a split's core stack entries to memory. -/
  | dstkrd (a b : Code) (s : Stall) (lit : Option Word)
  /-- `DSTKWR` (R291). Loads a split's core stack entries from memory. -/
  | dstkwr (a b : Code) (s : Stall) (lit : Option Word)
  /-- `CLMEMB` (R291). Stores a clause membership slot to memory. -/
  | clmemb (a b : Code) (s : Stall) (lit : Option Word)
  /-- `CLRESTORE` (R292). Re-establishes a membership slot without changing counts. -/
  | clrestore (a b : Code) (s : Stall) (lit : Option Word)
  /-- `CNTRD` (R293). Reads the eight path counters into a scalar pair. -/
  | cntrd (d : Code) (s : Stall)
  /-- `BRK` (R284). Raises the BRK trap. -/
  | brk (s : Stall)
  /-- `HALT` (R283). Kills the issuing wave. -/
  | halt (s : Stall)
  /-- `SMC_VERSION` (R390). Monitor call that writes the monitor's SVN. -/
  | smcVersion (d a b : Code) (s : Stall) (lit : Option Word)
  /-- `SMC_ATTEST` (R389). Monitor call that fills a signed attestation buffer. -/
  | smcAttest (d a b : Code) (s : Stall) (lit : Option Word)
  /-- `SMC_BLOCKWORLD` (R379). Monitor call that changes a block's world bit. -/
  | smcBlockworld (d a b : Code) (s : Stall) (lit : Option Word)
  /-- `SMC_REGIONWORLD` (R379). Monitor call that changes a memory region's world bit. -/
  | smcRegionworld (d a b : Code) (s : Stall) (lit : Option Word)
  /-- `SMC_FRAMECFG` (R385). Monitor call that names the frame delivery record. -/
  | smcFramecfg (d a b : Code) (s : Stall) (lit : Option Word)
  /-- `SMC_POWER` (R390). Monitor call that writes rail telemetry. -/
  | smcPower (d a b : Code) (s : Stall) (lit : Option Word)
  /-- `PARK` (R287). Writes the save header and token records and parks the wave. -/
  | park (s : Stall)
  /-- `CYCLE_LATCH_READ` (R285). A read of CYCLE low latches the high half for the next read. -/
  | cycleLatchRead (d : Code) (s : Stall)
  /-- `FPSTAT_WRITE` (R68). A write to FPSTAT clears the flags written as 1. -/
  | fpstatWrite (d : Code) (s : Stall) (lit : Option Word)
  /-- `FRAMEDEADLINE_WRITE` (R343). A write to FRAMEDEADLINE arms or disarms frame delivery. -/
  | framedeadlineWrite (d : Code) (hi : BitVec 1) (s : Stall) (lit : Option Word)
  /-- `UNASSIGNED_ENCODING` (R48). An issued word whose op is reserved, or an op illegal in its class, traps with ILLEGAL. -/
  | unassignedEncoding (w : Word)
  /-- `MODULE_RESET` (R387). Reset runs the boot ROM, monitor and runtime firmware stages. -/
  | moduleReset
  /-- `THERMAL_LIMIT` (R375). Coolant outside limits lets firmware lower or hold the clock. -/
  | thermalLimit
  /-- `LAUNCH_CONTEXT_WRITE` (R262). Firmware enters a launch context in the distributor's table. -/
  | launchContextWrite
  /-- `LAUNCH_QUEUE_POP` (R261). The distributor pops the most urgent non-empty launch queue. -/
  | launchQueuePop
  /-- `LAUNCH_RECORD_READ` (R277). The distributor reads and validates a task's launch record. -/
  | launchRecordRead
  /-- `TASK_START` (R268). A task starts once no earlier task of its queue conflicts. -/
  | taskStart
  /-- `GANG_PLACE` (R271). A section dispatcher places the next gang on a fitting cluster. -/
  | gangPlace
  /-- `WAVE_START` (R274). A wave starts at ENTRY with the start state and a save area. -/
  | waveStart
  /-- `WAVE_SLOT_RELEASE` (R275). An ended wave's slot returns once counters are zero and tokens resolve. -/
  | waveSlotRelease
  /-- `TASK_RETIRE` (R275). A task retires when its gangs, spawned waves and engine commands end. -/
  | taskRetire
  /-- `COMPLETION_RETRY` (R276). A completion to a full queue is retried every 1,024 clk. -/
  | completionRetry
  /-- `WAVE_STARVING` (R95). A wave ready for 512 clk without issue becomes starving. -/
  | waveStarving
  /-- `SLEEP_WAKE` (R101). A sleeping split becomes READY when WAKE reaches zero. -/
  | sleepWake
  /-- `REGCLAIM_GRANT` (R102). A waiting REGCLAIM receives its blocks when the pool holds them. -/
  | regclaimGrant
  /-- `LOAD_RETURN` (R130). A load's data arrives, writing its registers and completing it. -/
  | loadReturn
  /-- `STORE_PERFORMED` (R141). A write leaves the write path and is performed. -/
  | storePerformed
  /-- `MEM_UNCORR` (R132). Uncorrectable data on a MEM operation traps the wave with UNCORR. -/
  | memUncorr
  /-- `SHARED_COPY_DISCARD` (R141). The device discards a shared copy in a cluster cache at its choice. -/
  | sharedCopyDiscard
  /-- `RUNAHEAD_END` (R299). Run-ahead ends at a stop condition, count or page limit. -/
  | runaheadEnd
  /-- `ROLLBACK` (R300). Run-ahead loads return, the checkpoint is restored and a batch record sent. -/
  | rollback
  /-- `FIRMWARE_KILL` (R283). Runtime firmware kills a wave. -/
  | firmwareKill
  /-- `PREEMPT_REQUEST` (R286). A pre-emption request stops issue and begins phase 1. -/
  | preemptRequest
  /-- `PREEMPT_ENTRY` (R286). Once phase 1 drains, the wave takes PREEMPT. -/
  | preemptEntry
  /-- `GANG_EVICT` (R288). A fully parked gang's scratch is saved and its space freed. -/
  | gangEvict
  /-- `WAVE_RESUME` (R289). A parked wave is placed again and enters its handler with RESUME. -/
  | waveResume
  /-- `CLAUSE_HOME_OP` (R163). A clause operation reaches the home slice and acts on the entry. -/
  | clauseHomeOp
  /-- `BIND_HOME_OP` (R171). A binding is set or cleared at the object's home slice. -/
  | bindHomeOp
  /-- `LOCK_HOME_OP` (R172). A REL write or a satisfied ACQ acts at the lock's home. -/
  | lockHomeOp
  /-- `QUEUE_HOME_OP` (R178). A queue operation acts atomically at the header's home. -/
  | queueHomeOp
  /-- `RING_HOME_OP` (R181). A ring operation acts at the header's home. -/
  | ringHomeOp
  /-- `FENCE_H_RETURN` (R148). FENCE.H returns once every cluster's fence point has passed. -/
  | fenceHReturn
  /-- `ENGINE_COMMAND_ACCEPT` (R186). The copy engine accepts a command and the CPY counter falls. -/
  | engineCommandAccept
  /-- `COPY_SLOT_END` (R191). A copy-engine command ends its slot with or without a fault. -/
  | copySlotEnd
  /-- `CPYMC_RECEPTION` (R193). A multicast reception lands on a cluster and arrives at the clause. -/
  | cpymcReception
  /-- `MATRIX_ARBITRATION` (R17). At a slot boundary the array is granted to market or program work. -/
  | matrixArbitration
  /-- `MATRIX_COMMAND_COMPLETE` (R206). A matrix command completes and the MX counter falls. -/
  | matrixCommandComplete
  /-- `BOOTH_DESCRIPTOR_READ` (R242). A booth's descriptor read returns, starting its timer or failing its rows. -/
  | boothDescriptorRead
  /-- `BOOTH_TIMER_EXPIRE` (R243). A booth's timer expires and the booth dispatches. -/
  | boothTimerExpire
  /-- `WEIGHT_SET_FILL` (R237). A weight set finishes filling into the weight cache. -/
  | weightSetFill
  /-- `TILE_BEGIN` (R244). A tile begins when its set is resident and the array grants a slot. -/
  | tileBegin
  /-- `TILE_LAYER_END` (R259). A layer's drain ends and the next layer's stream may begin. -/
  | tileLayerEnd
  /-- `TILE_SCATTER` (R246). The market writes a tile's results to the callers' registers. -/
  | tileScatter
  /-- `SPAWN_LAUNCH` (R257). A dispatched spawn booth launches as a one-wave gang. -/
  | spawnLaunch
  /-- `RAY_QUERY_END` (R316). A ray query ends, writing its result, record and log. -/
  | rayQueryEnd
  /-- `RAY_QUERY_SUSPEND` (R316). A ray query suspends on a candidate and writes TRAV. -/
  | rayQuerySuspend
  /-- `REPLAY_LANE_END` (R325). A replay lane writes its output record and status. -/
  | replayLaneEnd
  /-- `PRIMITIVE_RASTERISE` (R336). A raster engine sets up a primitive and computes coverage. -/
  | primitiveRasterise
  /-- `PIXEL_WAVE_LAUNCH` (R339). A raster engine launches a pixel wave of up to 16 quads. -/
  | pixelWaveLaunch
  /-- `PIXLOCK_GRANT` (R341). A held PIXLOCK completes once earlier primitives release. -/
  | pixlockGrant
  /-- `BLEND_EXPORT` (R342). The blend units perform an export's depth test and blend. -/
  | blendExport
  /-- `RASTER_BATCH_RESUME` (R344). A resumed raster engine re-rasterises its batch, launching only new quads. -/
  | rasterBatchResume
  /-- `FRAME_DEADLINE` (R343). CYCLE reaches FRAMEDEADLINE and frame delivery runs. -/
  | frameDeadline
  /-- `FRAME_ACK` (R386). The FRAME acknowledgement sets SENT. -/
  | frameAck
  /-- `FETCH_COMPLETE` (R346). The fetch unit writes a FETCH's results and FET falls. -/
  | fetchComplete
  /-- `FETCH_FAULT` (R348). A refused or faulting fetch traps its wave. -/
  | fetchFault
  /-- `NL_COMMAND_ARRIVE` (R361). A neighbour-list command arrives at HOME and is accepted. -/
  | nlCommandArrive
  /-- `NL_COMMAND_TURN` (R361). A grid command executes at its turn after earlier ones end. -/
  | nlCommandTurn
  /-- `RDMA_WRITE` (R381). A RoCE RDMA WRITE packet writes bytes at home slices. -/
  | rdmaWrite
  /-- `RDMA_READ_REQUEST` (R381). A RoCE RDMA READ request reads bytes at home slices. -/
  | rdmaReadRequest
  /-- `RDMA_RESPONSE` (R381). A RoCE response or acknowledgement is handled per the IBA. -/
  | rdmaResponse
  /-- `COMPARE_SWAP` (R153). A remote compare-swap acts exactly once at the line's home. -/
  | compareSwap
  /-- `FETCH_ADD` (R153). A remote fetch-add acts exactly once at the line's home. -/
  | fetchAdd
  /-- `REMOTE_ENQUEUE` (R383). A remote request enqueues an entry as QENQU would. -/
  | remoteEnqueue
  /-- `REMOTE_ARRIVE` (R384). A remote request pledges or arrives at a clause phase. -/
  | remoteArrive
  /-- `INVALID_REQUEST` (R381). An unsupported opcode gets a NAK and errors the queue pair. -/
  | invalidRequest
  /-- `FRAME_DROP` (R380). Frames other than IPv6 UDP RoCE are dropped. -/
  | frameDrop
  /-- `NL_COMMAND_END` (R366). A neighbour-list command finishes its memory-side work, ends its slots and lets the next command on the grid take its turn. -/
  | nlCommandEnd
  /-- `RASTER_ENGINE_SAVE` (R344). Runtime firmware saves a raster engine at a batch boundary of 64 primitives. -/
  | rasterEngineSave
  /-- `ADDRESS_SPACE_RETIRE` (R237). Firmware retires an address space and clears the weight-cache pins it made. -/
  | addressSpaceRetire
  /-- `QUEUE_PAIR_BIND` (R380). Runtime firmware binds a reliable-connected queue pair to a port, an ASID and a world. -/
  | queuePairBind
  deriving DecidableEq, Repr

end Sys2Proof
end

