-- ==== Sys2Proof/WellFormed.lean ====
section
/-! DEFINITION. Which instruction terms are instructions of the manual: the reserved values of the fields (R48, and each
instruction's own description), and the presence of the literal (R27). -/

namespace Sys2Proof

/-- The VUN sub-functions that exist: 0 to 23, 26 and 27 (R48, R116). -/
def vunOk (f : Code) : Bool := f.toNat < 24 || f = 26 || f = 27

/-- The VQUAD patterns that exist: 0 to 2 and 4 to 11 (R48, R120). -/
def vquadOk (p : Code) : Bool := p.toNat < 12 && p ≠ 3

/-- The size codes a store accepts: no sign-extending load size, and not 7 (R127). -/
def storeSizeOk (z : BitVec 3) : Bool := z = 0 || z = 2 || z = 4 || z = 5 || z = 6

/-- The kind, W64 and CMP fields an atomic accepts (R48, R133). -/
def atomOk (kind : BitVec 4) (w64 : BitVec 1) (cmp : BitVec 7) : Bool :=
  kind.toNat < 15 && (w64 = 0 || kind.toNat < 11 || kind.toNat = 14) && (cmp = 0 || kind.toNat = 10)

/-- The condition field of a branch: 0 without negation or hint, or 8 to 15 (R29). -/
def braOk (c : BitVec 4) (n h : BitVec 1) : Bool := (c = 0 && n = 0 && h = 0) || 8 ≤ c.toNat

/-- The monitor function that an SMC word names by an inline constant or a literal below 6, else 0 (R303, R31). -/
def smcStatic (a : Code) (lit : Option Word) : Nat :=
  if 104 ≤ a.toNat ∧ a.toNat < 110 then a.toNat - 104
  else if a = 126 then (match lit with
    | some w => if w.toNat < 6 then w.toNat else 0
    | none => 0)
  else 0

/-- Whether a scalar source field calls for a literal (R27). -/
def isLit (c : Code) : Bool := c = 126

/-- The literal of an instruction is present exactly when one of its scalar source fields holds 126 (R27). -/
def litOk (need : Bool) (lit : Option Word) : Bool := lit.isSome == need

/-- The ops, of all eight classes, that no instruction has (R48): class in bits 31:29, op in bits 28:24. -/
def unassignedOp (op : Nat) : Bool :=
  (0x6E ≤ op && op < 0x80) || (0x9C ≤ op && op < 0xA0) || (0xBB ≤ op && op < 0xC0) || op = 0xCF ||
    (0xD1 ≤ op && op < 0xE0) || (0xF1 ≤ op && op < 0x100) || op = 0x5B || op = 0x3C || op = 0x3D

/-- A word whose op no instruction has (R48). -/
def unassigned (w : Word) : Bool := unassignedOp (w.extractLsb' 24 8).toNat

/-- Whether a term is an instruction of the manual: what its own words decode to. A step of another agent has no
words, and the steps of one CSR are other names of CSRR and CSRW words. -/
def Instr.wellFormed : Instr → Bool
  | .sadd _ a b _ lit => litOk (isLit a || isLit b) lit
  | .ssub _ a b _ lit => litOk (isLit a || isLit b) lit
  | .smul _ a b _ lit => litOk (isLit a || isLit b) lit
  | .smulhu _ a b _ lit => litOk (isLit a || isLit b) lit
  | .sand _ a b _ lit => litOk (isLit a || isLit b) lit
  | .sor _ a b _ lit => litOk (isLit a || isLit b) lit
  | .sxor _ a b _ lit => litOk (isLit a || isLit b) lit
  | .sandn _ a b _ lit => litOk (isLit a || isLit b) lit
  | .sshl _ a b _ lit => litOk (isLit a || isLit b) lit
  | .sshr _ a b _ lit => litOk (isLit a || isLit b) lit
  | .ssar _ a b _ lit => litOk (isLit a || isLit b) lit
  | .smin _ a b _ lit => litOk (isLit a || isLit b) lit
  | .smax _ a b _ lit => litOk (isLit a || isLit b) lit
  | .sminu _ a b _ lit => litOk (isLit a || isLit b) lit
  | .smaxu _ a b _ lit => litOk (isLit a || isLit b) lit
  | .seq _ a b _ lit => litOk (isLit a || isLit b) lit
  | .slt _ a b _ lit => litOk (isLit a || isLit b) lit
  | .sltu _ a b _ lit => litOk (isLit a || isLit b) lit
  | .ssel _ a b _ lit => litOk (isLit a || isLit b) lit
  | .smov _ a _ lit => litOk (isLit a) lit
  | .sun _ a f _ lit => decide (f.toNat < 14) && litOk (isLit a) lit
  | .sadd64 _ a b _ lit => litOk (isLit a || isLit b) lit
  | .ssub64 _ a b _ lit => litOk (isLit a || isLit b) lit
  | .sshl64 _ a b _ lit => litOk (isLit a || isLit b) lit
  | .sshr64 _ a b _ lit => litOk (isLit a || isLit b) lit
  | .smul64 _ a b _ lit => litOk (isLit a || isLit b) lit
  | .sbfe _ a b _ lit => litOk (isLit a || isLit b) lit
  | .sbfi _ a b _ lit => litOk (isLit a || isLit b) lit
  | .pand _ _ _ _ => true
  | .por _ _ _ _ => true
  | .pxor _ _ _ _ => true
  | .pandn _ _ _ _ => true
  | .vaddVV _ _ _ _ => true
  | .vaddVS _ _ b _ lit => litOk (isLit b) lit
  | .vsubVV _ _ _ _ => true
  | .vsubVS _ _ b _ lit => litOk (isLit b) lit
  | .vmulVV _ _ _ _ => true
  | .vmulVS _ _ b _ lit => litOk (isLit b) lit
  | .vfmaVV _ _ _ _ => true
  | .vfmaVS _ _ b _ lit => litOk (isLit b) lit
  | .vfnmaVV _ _ _ _ => true
  | .vfnmaVS _ _ b _ lit => litOk (isLit b) lit
  | .vminVV _ _ _ _ => true
  | .vminVS _ _ b _ lit => litOk (isLit b) lit
  | .vmaxVV _ _ _ _ => true
  | .vmaxVS _ _ b _ lit => litOk (isLit b) lit
  | .vandVV _ _ _ _ => true
  | .vandVS _ _ b _ lit => litOk (isLit b) lit
  | .vorVV _ _ _ _ => true
  | .vorVS _ _ b _ lit => litOk (isLit b) lit
  | .vxorVV _ _ _ _ => true
  | .vxorVS _ _ b _ lit => litOk (isLit b) lit
  | .vshlVV _ _ _ _ => true
  | .vshlVS _ _ b _ lit => litOk (isLit b) lit
  | .vshrVV _ _ _ _ => true
  | .vshrVS _ _ b _ lit => litOk (isLit b) lit
  | .vmulhVV _ _ _ _ => true
  | .vmulhVS _ _ b _ lit => litOk (isLit b) lit
  | .vclampVV _ _ _ _ => true
  | .vclampVS _ _ b _ lit => litOk (isLit b) lit
  | .vceqVV _ _ _ _ => true
  | .vceqVS _ _ b _ lit => litOk (isLit b) lit
  | .vcltVV _ _ _ _ => true
  | .vcltVS _ _ b _ lit => litOk (isLit b) lit
  | .vcleVV _ _ _ _ => true
  | .vcleVS _ _ b _ lit => litOk (isLit b) lit
  | .vcneVV _ _ _ _ => true
  | .vcneVS _ _ b _ lit => litOk (isLit b) lit
  | .vclassVV _ _ _ _ => true
  | .vclassVS _ _ b _ lit => litOk (isLit b) lit
  | .vselVV _ _ _ _ => true
  | .vselVS _ _ b _ lit => litOk (isLit b) lit
  | .vmovVV _ _ _ => true
  | .vmovVS _ b _ lit => litOk (isLit b) lit
  | .vunVV _ a f _ => vunOk f && decide ((f.toNat < 26 ∨ a = 0))
  | .vunVS _ a f _ lit => vunOk f && decide ((f.toNat < 26 ∨ a = 0)) && litOk (isLit a) lit
  | .vcvtVV _ _ t _ => decide (t.toNat < 14)
  | .vcvtVS _ a t _ lit => decide (t.toNat < 14) && litOk (isLit a) lit
  | .vbfeVV _ _ _ _ => true
  | .vbfeVS _ _ b _ lit => litOk (isLit b) lit
  | .vbfiVV _ _ _ _ => true
  | .vbfiVS _ _ b _ lit => litOk (isLit b) lit
  | .vquadVV _ _ p _ => vquadOk p
  | .vquadVS _ a p _ lit => vquadOk p && litOk (isLit a) lit
  | .vshufVV _ _ _ _ => true
  | .vshufVS _ _ b _ lit => litOk (isLit b) lit
  | .vrfirst _ _ _ => true
  | .vrlane _ _ b _ lit => litOk (isLit b) lit
  | .vwlane _ a b _ lit => litOk (isLit a || isLit b) lit
  | .vdot2VV _ _ _ _ => true
  | .vdot2VS _ _ b _ lit => litOk (isLit b) lit
  | .vpfxVV _ _ f _ => decide (f.toNat < 3)
  | .vpfxVS _ a f _ lit => decide (f.toNat < 3) && litOk (isLit a) lit
  | .ldg _ _ z _ _ => decide (z.toNat < 7)
  | .stg _ _ z _ _ => storeSizeOk z
  | .ldga _ _ z _ => decide (z.toNat < 7)
  | .stga _ _ z _ => storeSizeOk z
  | .lds _ _ z _ _ => decide (z.toNat < 7)
  | .sts _ _ z _ _ => storeSizeOk z
  | .ldgs _ _ z _ _ => decide (4 ≤ z.toNat ∧ z.toNat < 7)
  | .atomg _ _ _ kind scope w64 _ cmp _ => atomOk kind w64 cmp && decide (scope.toNat < 5)
  | .atoms _ _ _ kind scope w64 _ cmp _ => atomOk kind w64 cmp && decide (scope.toNat < 3)
  | .sld _ a b size _ _ lit => decide (size.toNat < 5) && litOk (isLit a || isLit b) lit
  | .sst _ a b size _ _ lit => decide (size.toNat < 5) && litOk (isLit a || isLit b) lit
  | .fetch _ _ _ lod _ => decide (lod.toNat < 3)
  | .pref _ _ level own _ => decide (level.toNat < 2) && decide ((own = 0 ∨ level = 0))
  | .cmaint a b op _ lit => decide (op.toNat < 4) && litOk (isLit a || isLit b) lit
  | .cpy _ _ b _ _ _ size _ _ _ lit => decide (size.toNat < 3) && litOk (isLit b) lit
  | .cpymc d _ b _ _ lit => litOk (isLit d || isLit b) lit
  | .pack d a b _ _ pitch _ lit => decide (pitch ≠ 0) && litOk (isLit d || isLit a || isLit b) lit
  | .unpack d a b _ _ _ pitch _ lit => decide (pitch ≠ 0) && litOk (isLit d || isLit a || isLit b) lit
  | .malloc a _ _ lit => litOk (isLit a) lit
  | .mfree _ => true
  | .mloadw d a b fmt pitch _ lit => decide (fmt.toNat < 8) && decide (pitch ≠ 0) && litOk (isLit d || isLit a || isLit b) lit
  | .mswap _ => true
  | .mstream d a b fmt sr _ _ pitch _ lit => decide (fmt.toNat < 8) && decide (sr.toNat < 5) && decide (pitch ≠ 0) && litOk (isLit d || isLit a || isLit b) lit
  | .mdrain d a b raw act ofmt scl bias pitch _ icell _ lit => decide (act.toNat < 7) && decide (ofmt.toNat < 7) && decide (scl.toNat < 3) && decide (pitch ≠ 0) && decide ((raw = 0 ∨ (act = 0 ∧ ofmt = 0 ∧ scl = 0 ∧ bias = 0 ∧ icell = 0))) && litOk (isLit d || isLit a || isLit b) lit
  | .mzero a b _ lit => litOk (isLit a || isLit b) lit
  | .mfill d a b pitch _ _ lit => decide (pitch ≠ 0) && litOk (isLit d || isLit a || isLit b) lit
  | .ncall _ _ _ _ _ itype otype _ _ => decide (itype.toNat < 3) && decide (otype.toNat < 3)
  | .whint _ a _ _ lit => litOk (isLit a) lit
  | .spawn d _ pay _ => decide (pay.toNat < 9) && decide ((pay ≠ 0 ∨ d = 0))
  | .spawnc d _ _ pay _ => decide (pay.toNat < 9) && decide ((pay ≠ 0 ∨ d = 0))
  | .primemit _ b cull _ lit => decide (cull.toNat < 3) && litOk (isLit b) lit
  | .trace _ _ _ mode _ _ _ _ => decide (mode.toNat < 3)
  | .tracec _ _ _ _ _ => true
  | .replay _ _ _ _ _ => true
  | .pixlock _ => true
  | .pixunlock _ => true
  | .pixexp _ _ _ _ => true
  | .attr _ _ _ _ _ mode k _ stride _ => decide (mode.toNat < 2) && decide (k.toNat < 3) && decide ((mode = 0 ∨ k = 0)) && decide (stride ≠ 0)
  | .nlgrid _ _ op _ => decide (op.toNat < 2)
  | .nlins _ _ _ mode _ => decide (mode.toNat < 2)
  | .nlpairs _ _ b _ _ _ _ _ lit => litOk (isLit b) lit
  | .nlstat _ _ _ => true
  | .clopen _ a _ _ lit => litOk (isLit a) lit
  | .cljoin _ _ _ => true
  | .clleave _ _ => true
  | .clarrive _ _ => true
  | .clwait _ _ _ => true
  | .clbar _ _ _ => true
  | .clvote _ _ _ kind _ _ => decide (kind.toNat < 3)
  | .clred _ _ _ op ty _ _ => decide (op.toNat < 9) && decide ((op.toNat < 6 ∨ ty = 0))
  | .clclose _ _ => true
  | .clinfo _ _ b _ lit => litOk (isLit b) lit
  | .bind _ a b _ scope _ _ lit => decide (scope.toNat < 5) && litOk (isLit a || isLit b) lit
  | .acq _ _ b _ lit => litOk (isLit b) lit
  | .rel _ b _ lit => litOk (isLit b) lit
  | .gbar _ _ => true
  | .garrive _ _ => true
  | .gwait _ _ => true
  | .waitc _ b _ lit => litOk (isLit b) lit
  | .nwait _ _ => true
  | .qenq _ _ _ _ => true
  | .qpop _ _ _ _ => true
  | .qenqu _ _ _ _ => true
  | .rawait _ _ b _ lit => litOk (isLit b) lit
  | .rares _ _ _ => true
  | .rarel _ b _ lit => litOk (isLit b) lit
  | .fenceL _ => true
  | .fenceH c _ => decide (1 ≤ c.toNat ∧ c.toNat < 5)
  | .hmake _ a t _ lit => decide (t.toNat < 9) && litOk (isLit a) lit
  | .hread _ _ _ => true
  | .bra c n h _ _ => braOk c n h
  | .braz d _ _ lit => litOk (isLit d) lit
  | .branz d _ _ lit => litOk (isLit d) lit
  | .join _ => true
  | .setj _ _ => true
  | .call _ _ => true
  | .ret a _ lit => litOk (isLit a) lit
  | .jmpi a b _ lit => litOk (isLit a || isLit b) lit
  | .setmode _ _ => true
  | .exit _ => true
  | .yield _ => true
  | .sleep a _ lit => litOk (isLit a) lit
  | .reggive a _ lit => litOk (isLit a) lit
  | .regclaim a _ lit => litOk (isLit a) lit
  | .launch _ _ b _ lit => litOk (isLit b) lit
  | .nop _ => true
  | .trap a _ lit => litOk (isLit a) lit
  | .rte _ => true
  | .csrr _ _ _ => true
  | .csrw d _ _ lit => litOk (isLit d) lit
  | .tlbinvPage a _ _ lit => litOk (isLit a) lit
  | .tlbinvAsidall a _ _ lit => litOk (isLit a) lit
  | .tlbinvAll a _ _ lit => litOk (isLit a) lit
  | .tlbinvResolve a _ _ lit => litOk (isLit a) lit
  | .tlbinvRefuse a _ _ lit => litOk (isLit a) lit
  | .sramcfg _ a mode _ lit => decide (mode.toNat < 3) && litOk (isLit a) lit
  | .splitrd a b _ lit => litOk (isLit a || isLit b) lit
  | .splitwr a b _ lit => litOk (isLit a || isLit b) lit
  | .dstkrd a b _ lit => litOk (isLit a || isLit b) lit
  | .dstkwr a b _ lit => litOk (isLit a || isLit b) lit
  | .clmemb a b _ lit => litOk (isLit a || isLit b) lit
  | .clrestore a b _ lit => litOk (isLit a || isLit b) lit
  | .cntrd _ _ => true
  | .brk _ => true
  | .halt _ => true
  | .smcVersion _ a b _ lit => decide (smcStatic a lit = 0) && litOk (isLit a || isLit b) lit
  | .smcAttest _ a b _ lit => decide (smcStatic a lit = 1) && litOk (isLit a || isLit b) lit
  | .smcBlockworld _ a b _ lit => decide (smcStatic a lit = 2) && litOk (isLit a || isLit b) lit
  | .smcRegionworld _ a b _ lit => decide (smcStatic a lit = 3) && litOk (isLit a || isLit b) lit
  | .smcFramecfg _ a b _ lit => decide (smcStatic a lit = 4) && litOk (isLit a || isLit b) lit
  | .smcPower _ a b _ lit => decide (smcStatic a lit = 5) && litOk (isLit a || isLit b) lit
  | .park _ => true
  | .cycleLatchRead _ _ => false
  | .fpstatWrite _ _ _ => false
  | .framedeadlineWrite _ _ _ _ => false
  | .unassignedEncoding w => unassigned w
  | .moduleReset => false
  | .thermalLimit => false
  | .launchContextWrite => false
  | .launchQueuePop => false
  | .launchRecordRead => false
  | .taskStart => false
  | .gangPlace => false
  | .waveStart => false
  | .waveSlotRelease => false
  | .taskRetire => false
  | .completionRetry => false
  | .waveStarving => false
  | .sleepWake => false
  | .regclaimGrant => false
  | .loadReturn => false
  | .storePerformed => false
  | .memUncorr => false
  | .sharedCopyDiscard => false
  | .runaheadEnd => false
  | .rollback => false
  | .firmwareKill => false
  | .preemptRequest => false
  | .preemptEntry => false
  | .gangEvict => false
  | .waveResume => false
  | .clauseHomeOp => false
  | .bindHomeOp => false
  | .lockHomeOp => false
  | .queueHomeOp => false
  | .ringHomeOp => false
  | .fenceHReturn => false
  | .engineCommandAccept => false
  | .copySlotEnd => false
  | .cpymcReception => false
  | .matrixArbitration => false
  | .matrixCommandComplete => false
  | .boothDescriptorRead => false
  | .boothTimerExpire => false
  | .weightSetFill => false
  | .tileBegin => false
  | .tileLayerEnd => false
  | .tileScatter => false
  | .spawnLaunch => false
  | .rayQueryEnd => false
  | .rayQuerySuspend => false
  | .replayLaneEnd => false
  | .primitiveRasterise => false
  | .pixelWaveLaunch => false
  | .pixlockGrant => false
  | .blendExport => false
  | .rasterBatchResume => false
  | .frameDeadline => false
  | .frameAck => false
  | .fetchComplete => false
  | .fetchFault => false
  | .nlCommandArrive => false
  | .nlCommandTurn => false
  | .rdmaWrite => false
  | .rdmaReadRequest => false
  | .rdmaResponse => false
  | .compareSwap => false
  | .fetchAdd => false
  | .remoteEnqueue => false
  | .remoteArrive => false
  | .invalidRequest => false
  | .frameDrop => false
  | .nlCommandEnd => false
  | .rasterEngineSave => false
  | .addressSpaceRetire => false
  | .queuePairBind => false

/-- A well-formed instruction term. -/
abbrev Instr.WellFormed (i : Instr) : Prop := i.wellFormed = true

end Sys2Proof
end

