-- ==== Sys2Proof/Decode.lean ====
section
/-! DEFINITION. Decoding of instruction words (R25 to R30, R45 to R48), total on any bytes, and the encoder. -/

namespace Sys2Proof

/-- Why bytes are no instruction. -/
inductive DecodeError where
  /-- The bytes end before the instruction does. -/
  | truncated
  /-- A reserved field or value within an instruction (R48): the step traps with ILLEGAL. -/
  | reserved
  deriving DecidableEq, Repr

/-- What decoding answers: the instruction and the words after it, or why there is none. -/
abbrev DecodeResult := Except DecodeError (Instr × List Word)

/-- A word in the layout of R25. -/
def mkWord (op : BitVec 8) (d a b : BitVec 7) (s : BitVec 3) : Word := op ++ d ++ a ++ b ++ s

/-- A word whose bits 23:3 are one field (R29, R30, R285). -/
def mkWord21 (op : BitVec 8) (f : BitVec 21) (s : BitVec 3) : Word := op ++ f ++ s

/-- `n` bits of a word from bit `lo` up. -/
def wBits (w : Word) (lo n : Nat) : BitVec n := w.extractLsb' lo n

/-- `n` bits of an extension word from bit `lo` up (R26). -/
def xBits (x : Word) (lo n : Nat) : BitVec n := x.extractLsb' lo n

/-- The class of a word, bits 31:29 (R25). -/
def wClass (w : Word) : BitVec 3 := wBits w 29 3

/-- The op of a word within its class, bits 28:24 (R25). -/
def wOp5 (w : Word) : BitVec 5 := wBits w 24 5

/-- Field D, bits 23:17 (R25). -/
def wD (w : Word) : BitVec 7 := wBits w 17 7

/-- Field A, bits 16:10 (R25). -/
def wA (w : Word) : BitVec 7 := wBits w 10 7

/-- Field B, bits 9:3 (R25). -/
def wB (w : Word) : BitVec 7 := wBits w 3 7

/-- The stall count, bits 2:0 (R25). -/
def wS (w : Word) : BitVec 3 := wBits w 0 3

/-- Takes the extension word, directly after the first word (R26). -/
def withX (r : List Word) (k : Word → List Word → DecodeResult) : DecodeResult :=
  match r with
  | [] => .error .truncated
  | x :: r => k x r

/-- Takes the literal, after the extension word if there is one, where a scalar source field holds 126 (R26, R27). -/
def withLit (need : Bool) (r : List Word) (k : Option Word → List Word → DecodeResult) : DecodeResult :=
  if need then
    match r with
    | [] => .error .truncated
    | x :: r => k (some x) r
  else k none r

/-- VUN LANEID and QUADID read no source: A is reserved (R27, R47). -/
def vunNoSource (b : Code) : Bool := b = 26 || b = 27

/-- The instruction, unless a reserved field is nonzero or a field holds a reserved value (R48). -/
def resv (ok : Bool) (i : Instr) (r : List Word) : DecodeResult :=
  if ok then .ok (i, r) else .error .reserved

/-- Decodes a word of class 0 (R46, R47): `w` the first word, `r` the words after it. -/
def decodeSalu (w : Word) (r : List Word) : DecodeResult :=
  match (wOp5 w).toNat with
  | 0x00 => withLit (isLit (wA w) || isLit (wB w)) r (fun l r => resv (true) (.sadd (wD w) (wA w) (wB w) (wS w) l) r)
  | 0x01 => withLit (isLit (wA w) || isLit (wB w)) r (fun l r => resv (true) (.ssub (wD w) (wA w) (wB w) (wS w) l) r)
  | 0x02 => withLit (isLit (wA w) || isLit (wB w)) r (fun l r => resv (true) (.smul (wD w) (wA w) (wB w) (wS w) l) r)
  | 0x03 => withLit (isLit (wA w) || isLit (wB w)) r (fun l r => resv (true) (.smulhu (wD w) (wA w) (wB w) (wS w) l) r)
  | 0x04 => withLit (isLit (wA w) || isLit (wB w)) r (fun l r => resv (true) (.sand (wD w) (wA w) (wB w) (wS w) l) r)
  | 0x05 => withLit (isLit (wA w) || isLit (wB w)) r (fun l r => resv (true) (.sor (wD w) (wA w) (wB w) (wS w) l) r)
  | 0x06 => withLit (isLit (wA w) || isLit (wB w)) r (fun l r => resv (true) (.sxor (wD w) (wA w) (wB w) (wS w) l) r)
  | 0x07 => withLit (isLit (wA w) || isLit (wB w)) r (fun l r => resv (true) (.sandn (wD w) (wA w) (wB w) (wS w) l) r)
  | 0x08 => withLit (isLit (wA w) || isLit (wB w)) r (fun l r => resv (true) (.sshl (wD w) (wA w) (wB w) (wS w) l) r)
  | 0x09 => withLit (isLit (wA w) || isLit (wB w)) r (fun l r => resv (true) (.sshr (wD w) (wA w) (wB w) (wS w) l) r)
  | 0x0a => withLit (isLit (wA w) || isLit (wB w)) r (fun l r => resv (true) (.ssar (wD w) (wA w) (wB w) (wS w) l) r)
  | 0x0b => withLit (isLit (wA w) || isLit (wB w)) r (fun l r => resv (true) (.smin (wD w) (wA w) (wB w) (wS w) l) r)
  | 0x0c => withLit (isLit (wA w) || isLit (wB w)) r (fun l r => resv (true) (.smax (wD w) (wA w) (wB w) (wS w) l) r)
  | 0x0d => withLit (isLit (wA w) || isLit (wB w)) r (fun l r => resv (true) (.sminu (wD w) (wA w) (wB w) (wS w) l) r)
  | 0x0e => withLit (isLit (wA w) || isLit (wB w)) r (fun l r => resv (true) (.smaxu (wD w) (wA w) (wB w) (wS w) l) r)
  | 0x0f => withLit (isLit (wA w) || isLit (wB w)) r (fun l r => resv (true) (.seq (wD w) (wA w) (wB w) (wS w) l) r)
  | 0x10 => withLit (isLit (wA w) || isLit (wB w)) r (fun l r => resv (true) (.slt (wD w) (wA w) (wB w) (wS w) l) r)
  | 0x11 => withLit (isLit (wA w) || isLit (wB w)) r (fun l r => resv (true) (.sltu (wD w) (wA w) (wB w) (wS w) l) r)
  | 0x12 => withLit (isLit (wA w) || isLit (wB w)) r (fun l r => resv (true) (.ssel (wD w) (wA w) (wB w) (wS w) l) r)
  | 0x13 => withLit (isLit (wA w)) r (fun l r => resv (decide (wB w = 0)) (.smov (wD w) (wA w) (wS w) l) r)
  | 0x14 => withLit (isLit (wA w)) r (fun l r => resv (decide ((wB w).toNat < 14)) (.sun (wD w) (wA w) (wB w) (wS w) l) r)
  | 0x15 => withLit (isLit (wA w) || isLit (wB w)) r (fun l r => resv (true) (.sadd64 (wD w) (wA w) (wB w) (wS w) l) r)
  | 0x16 => withLit (isLit (wA w) || isLit (wB w)) r (fun l r => resv (true) (.ssub64 (wD w) (wA w) (wB w) (wS w) l) r)
  | 0x17 => withLit (isLit (wA w) || isLit (wB w)) r (fun l r => resv (true) (.sshl64 (wD w) (wA w) (wB w) (wS w) l) r)
  | 0x18 => withLit (isLit (wA w) || isLit (wB w)) r (fun l r => resv (true) (.sshr64 (wD w) (wA w) (wB w) (wS w) l) r)
  | 0x19 => withLit (isLit (wA w) || isLit (wB w)) r (fun l r => resv (true) (.smul64 (wD w) (wA w) (wB w) (wS w) l) r)
  | 0x1a => withLit (isLit (wA w) || isLit (wB w)) r (fun l r => resv (true) (.sbfe (wD w) (wA w) (wB w) (wS w) l) r)
  | 0x1b => withLit (isLit (wA w) || isLit (wB w)) r (fun l r => resv (true) (.sbfi (wD w) (wA w) (wB w) (wS w) l) r)
  | 0x1c => resv (true) (.pand (wD w) (wA w) (wB w) (wS w)) r
  | 0x1d => resv (true) (.por (wD w) (wA w) (wB w) (wS w)) r
  | 0x1e => resv (true) (.pxor (wD w) (wA w) (wB w) (wS w)) r
  | 0x1f => resv (true) (.pandn (wD w) (wA w) (wB w) (wS w)) r
  | _ => .ok (.unassignedEncoding w, r)

/-- Decodes a word of class 1 (R46, R47): `w` the first word, `r` the words after it. -/
def decodeVectorV (w : Word) (r : List Word) : DecodeResult :=
  match (wOp5 w).toNat with
  | 0x00 => resv (true) (.vaddVV (wD w) (wA w) (wB w) (wS w)) r
  | 0x01 => resv (true) (.vsubVV (wD w) (wA w) (wB w) (wS w)) r
  | 0x02 => resv (true) (.vmulVV (wD w) (wA w) (wB w) (wS w)) r
  | 0x03 => resv (true) (.vfmaVV (wD w) (wA w) (wB w) (wS w)) r
  | 0x04 => resv (true) (.vfnmaVV (wD w) (wA w) (wB w) (wS w)) r
  | 0x05 => resv (true) (.vminVV (wD w) (wA w) (wB w) (wS w)) r
  | 0x06 => resv (true) (.vmaxVV (wD w) (wA w) (wB w) (wS w)) r
  | 0x07 => resv (true) (.vandVV (wD w) (wA w) (wB w) (wS w)) r
  | 0x08 => resv (true) (.vorVV (wD w) (wA w) (wB w) (wS w)) r
  | 0x09 => resv (true) (.vxorVV (wD w) (wA w) (wB w) (wS w)) r
  | 0x0a => resv (true) (.vshlVV (wD w) (wA w) (wB w) (wS w)) r
  | 0x0b => resv (true) (.vshrVV (wD w) (wA w) (wB w) (wS w)) r
  | 0x0c => resv (true) (.vmulhVV (wD w) (wA w) (wB w) (wS w)) r
  | 0x0d => resv (true) (.vclampVV (wD w) (wA w) (wB w) (wS w)) r
  | 0x0e => resv (true) (.vceqVV (wD w) (wA w) (wB w) (wS w)) r
  | 0x0f => resv (true) (.vcltVV (wD w) (wA w) (wB w) (wS w)) r
  | 0x10 => resv (true) (.vcleVV (wD w) (wA w) (wB w) (wS w)) r
  | 0x11 => resv (true) (.vcneVV (wD w) (wA w) (wB w) (wS w)) r
  | 0x12 => resv (true) (.vclassVV (wD w) (wA w) (wB w) (wS w)) r
  | 0x13 => resv (true) (.vselVV (wD w) (wA w) (wB w) (wS w)) r
  | 0x14 => resv (decide (wB w = 0)) (.vmovVV (wD w) (wA w) (wS w)) r
  | 0x15 => resv (decide (vunOk (wB w) = true ∧ ((wB w).toNat < 26 ∨ (wA w) = 0))) (.vunVV (wD w) (wA w) (wB w) (wS w)) r
  | 0x16 => resv (decide ((wB w).toNat < 14)) (.vcvtVV (wD w) (wA w) (wB w) (wS w)) r
  | 0x17 => resv (true) (.vbfeVV (wD w) (wA w) (wB w) (wS w)) r
  | 0x18 => resv (true) (.vbfiVV (wD w) (wA w) (wB w) (wS w)) r
  | 0x19 => resv (decide (vquadOk (wB w) = true)) (.vquadVV (wD w) (wA w) (wB w) (wS w)) r
  | 0x1a => resv (true) (.vshufVV (wD w) (wA w) (wB w) (wS w)) r
  | 0x1b => resv (decide (wB w = 0)) (.vrfirst (wD w) (wA w) (wS w)) r
  | 0x1e => resv (true) (.vdot2VV (wD w) (wA w) (wB w) (wS w)) r
  | 0x1f => resv (decide ((wB w).toNat < 3)) (.vpfxVV (wD w) (wA w) (wB w) (wS w)) r
  | _ => .ok (.unassignedEncoding w, r)

/-- Decodes a word of class 2 (R46, R47): `w` the first word, `r` the words after it. -/
def decodeVectorS (w : Word) (r : List Word) : DecodeResult :=
  match (wOp5 w).toNat with
  | 0x00 => withLit (isLit (wB w)) r (fun l r => resv (true) (.vaddVS (wD w) (wA w) (wB w) (wS w) l) r)
  | 0x01 => withLit (isLit (wB w)) r (fun l r => resv (true) (.vsubVS (wD w) (wA w) (wB w) (wS w) l) r)
  | 0x02 => withLit (isLit (wB w)) r (fun l r => resv (true) (.vmulVS (wD w) (wA w) (wB w) (wS w) l) r)
  | 0x03 => withLit (isLit (wB w)) r (fun l r => resv (true) (.vfmaVS (wD w) (wA w) (wB w) (wS w) l) r)
  | 0x04 => withLit (isLit (wB w)) r (fun l r => resv (true) (.vfnmaVS (wD w) (wA w) (wB w) (wS w) l) r)
  | 0x05 => withLit (isLit (wB w)) r (fun l r => resv (true) (.vminVS (wD w) (wA w) (wB w) (wS w) l) r)
  | 0x06 => withLit (isLit (wB w)) r (fun l r => resv (true) (.vmaxVS (wD w) (wA w) (wB w) (wS w) l) r)
  | 0x07 => withLit (isLit (wB w)) r (fun l r => resv (true) (.vandVS (wD w) (wA w) (wB w) (wS w) l) r)
  | 0x08 => withLit (isLit (wB w)) r (fun l r => resv (true) (.vorVS (wD w) (wA w) (wB w) (wS w) l) r)
  | 0x09 => withLit (isLit (wB w)) r (fun l r => resv (true) (.vxorVS (wD w) (wA w) (wB w) (wS w) l) r)
  | 0x0a => withLit (isLit (wB w)) r (fun l r => resv (true) (.vshlVS (wD w) (wA w) (wB w) (wS w) l) r)
  | 0x0b => withLit (isLit (wB w)) r (fun l r => resv (true) (.vshrVS (wD w) (wA w) (wB w) (wS w) l) r)
  | 0x0c => withLit (isLit (wB w)) r (fun l r => resv (true) (.vmulhVS (wD w) (wA w) (wB w) (wS w) l) r)
  | 0x0d => withLit (isLit (wB w)) r (fun l r => resv (true) (.vclampVS (wD w) (wA w) (wB w) (wS w) l) r)
  | 0x0e => withLit (isLit (wB w)) r (fun l r => resv (true) (.vceqVS (wD w) (wA w) (wB w) (wS w) l) r)
  | 0x0f => withLit (isLit (wB w)) r (fun l r => resv (true) (.vcltVS (wD w) (wA w) (wB w) (wS w) l) r)
  | 0x10 => withLit (isLit (wB w)) r (fun l r => resv (true) (.vcleVS (wD w) (wA w) (wB w) (wS w) l) r)
  | 0x11 => withLit (isLit (wB w)) r (fun l r => resv (true) (.vcneVS (wD w) (wA w) (wB w) (wS w) l) r)
  | 0x12 => withLit (isLit (wB w)) r (fun l r => resv (true) (.vclassVS (wD w) (wA w) (wB w) (wS w) l) r)
  | 0x13 => withLit (isLit (wB w)) r (fun l r => resv (true) (.vselVS (wD w) (wA w) (wB w) (wS w) l) r)
  | 0x14 => withLit (isLit (wB w)) r (fun l r => resv (decide (wA w = 0)) (.vmovVS (wD w) (wB w) (wS w) l) r)
  | 0x15 => withLit (isLit (wA w) && !(vunNoSource (wB w))) r (fun l r => resv (decide (vunOk (wB w) = true ∧ ((wB w).toNat < 26 ∨ (wA w) = 0))) (.vunVS (wD w) (wA w) (wB w) (wS w) l) r)
  | 0x16 => withLit (isLit (wA w)) r (fun l r => resv (decide ((wB w).toNat < 14)) (.vcvtVS (wD w) (wA w) (wB w) (wS w) l) r)
  | 0x17 => withLit (isLit (wB w)) r (fun l r => resv (true) (.vbfeVS (wD w) (wA w) (wB w) (wS w) l) r)
  | 0x18 => withLit (isLit (wB w)) r (fun l r => resv (true) (.vbfiVS (wD w) (wA w) (wB w) (wS w) l) r)
  | 0x19 => withLit (isLit (wA w)) r (fun l r => resv (decide (vquadOk (wB w) = true)) (.vquadVS (wD w) (wA w) (wB w) (wS w) l) r)
  | 0x1a => withLit (isLit (wB w)) r (fun l r => resv (true) (.vshufVS (wD w) (wA w) (wB w) (wS w) l) r)
  | 0x1c => withLit (isLit (wB w)) r (fun l r => resv (true) (.vrlane (wD w) (wA w) (wB w) (wS w) l) r)
  | 0x1d => withLit (isLit (wA w) || isLit (wB w)) r (fun l r => resv (true) (.vwlane (wD w) (wA w) (wB w) (wS w) l) r)
  | 0x1e => withLit (isLit (wB w)) r (fun l r => resv (true) (.vdot2VS (wD w) (wA w) (wB w) (wS w) l) r)
  | 0x1f => withLit (isLit (wA w)) r (fun l r => resv (decide ((wB w).toNat < 3)) (.vpfxVS (wD w) (wA w) (wB w) (wS w) l) r)
  | _ => .ok (.unassignedEncoding w, r)

/-- Decodes a word of class 3 (R46, R47): `w` the first word, `r` the words after it. -/
def decodeMem (w : Word) (r : List Word) : DecodeResult :=
  match (wOp5 w).toNat with
  | 0x00 => resv (decide ((wBits w 7 3).toNat < 7)) (.ldg (wD w) (wA w) (wBits w 7 3) (wBits w 3 4) (wS w)) r
  | 0x01 => resv (decide (storeSizeOk (wBits w 7 3) = true)) (.stg (wD w) (wA w) (wBits w 7 3) (wBits w 3 4) (wS w)) r
  | 0x02 => resv (decide (wBits w 3 4 = 0 ∧ (wBits w 7 3).toNat < 7)) (.ldga (wD w) (wA w) (wBits w 7 3) (wS w)) r
  | 0x03 => resv (decide (wBits w 3 4 = 0 ∧ storeSizeOk (wBits w 7 3) = true)) (.stga (wD w) (wA w) (wBits w 7 3) (wS w)) r
  | 0x04 => resv (decide ((wBits w 7 3).toNat < 7)) (.lds (wD w) (wA w) (wBits w 7 3) (wBits w 3 4) (wS w)) r
  | 0x05 => resv (decide (storeSizeOk (wBits w 7 3) = true)) (.sts (wD w) (wA w) (wBits w 7 3) (wBits w 3 4) (wS w)) r
  | 0x06 => resv (decide (4 ≤ (wBits w 7 3).toNat ∧ (wBits w 7 3).toNat < 7)) (.ldgs (wD w) (wA w) (wBits w 7 3) (wBits w 3 4) (wS w)) r
  | 0x07 => withX r (fun x r => resv (decide (wBits w 7 3 = 0 ∧ xBits x 0 16 = 0 ∧ atomOk (xBits x 28 4) (xBits x 24 1) (xBits x 16 7) = true ∧ (xBits x 25 3).toNat < 5)) (.atomg (wD w) (wA w) (wBits w 3 4) (xBits x 28 4) (xBits x 25 3) (xBits x 24 1) (xBits x 23 1) (xBits x 16 7) (wS w)) r)
  | 0x08 => withX r (fun x r => resv (decide (wBits w 7 3 = 0 ∧ xBits x 0 16 = 0 ∧ atomOk (xBits x 28 4) (xBits x 24 1) (xBits x 16 7) = true ∧ (xBits x 25 3).toNat < 3)) (.atoms (wD w) (wA w) (wBits w 3 4) (xBits x 28 4) (xBits x 25 3) (xBits x 24 1) (xBits x 23 1) (xBits x 16 7) (wS w)) r)
  | 0x09 => withX r (fun x r => withLit (isLit (wA w) || isLit (wB w)) r (fun l r => resv (decide (xBits x 24 5 = 0 ∧ (xBits x 29 3).toNat < 5)) (.sld (wD w) (wA w) (wB w) (xBits x 29 3) (xBits x 0 24) (wS w) l) r))
  | 0x0a => withX r (fun x r => withLit (isLit (wA w) || isLit (wB w)) r (fun l r => resv (decide (xBits x 24 5 = 0 ∧ (xBits x 29 3).toNat < 5)) (.sst (wD w) (wA w) (wB w) (xBits x 29 3) (xBits x 0 24) (wS w) l) r))
  | 0x0b => withX r (fun x r => resv (decide (xBits x 0 30 = 0 ∧ (xBits x 30 2).toNat < 3)) (.fetch (wD w) (wA w) (wB w) (xBits x 30 2) (wS w)) r)
  | 0x0c => withX r (fun x r => resv (decide (wD w = 0 ∧ wBits w 7 3 = 0 ∧ xBits x 0 29 = 0 ∧ (xBits x 30 2).toNat < 2 ∧ ((xBits x 29 1) = 0 ∨ (xBits x 30 2) = 0))) (.pref (wA w) (wBits w 3 4) (xBits x 30 2) (xBits x 29 1) (wS w)) r)
  | 0x0d => withX r (fun x r => withLit (isLit (wA w) || isLit (wB w)) r (fun l r => resv (decide (wD w = 0 ∧ xBits x 0 28 = 0 ∧ (xBits x 28 4).toNat < 4)) (.cmaint (wA w) (wB w) (xBits x 28 4) (wS w) l) r))
  | _ => .ok (.unassignedEncoding w, r)

/-- Decodes a word of class 4 (R46, R47): `w` the first word, `r` the words after it. -/
def decodeEng (w : Word) (r : List Word) : DecodeResult :=
  match (wOp5 w).toNat with
  | 0x00 => withX r (fun x r => withLit (isLit (wB w)) r (fun l r => resv (decide (xBits x 0 16 = 0 ∧ (xBits x 18 2).toNat < 3)) (.cpy (wD w) (wA w) (wB w) (xBits x 28 4) (xBits x 24 4) (xBits x 20 4) (xBits x 18 2) (xBits x 17 1) (xBits x 16 1) (wS w) l) r))
  | 0x01 => withX r (fun x r => withLit (isLit (wD w) || isLit (wB w)) r (fun l r => resv (decide (xBits x 0 20 = 0)) (.cpymc (wD w) (wA w) (wB w) (xBits x 20 12) (wS w) l) r))
  | 0x02 => withX r (fun x r => withLit (isLit (wD w) || isLit (wA w) || isLit (wB w)) r (fun l r => resv (decide (xBits x 26 1 = 0 ∧ xBits x 0 16 = 0 ∧ (xBits x 16 10) ≠ 0)) (.pack (wD w) (wA w) (wB w) (xBits x 28 4) (xBits x 27 1) (xBits x 16 10) (wS w) l) r))
  | 0x03 => withX r (fun x r => withLit (isLit (wD w) || isLit (wA w) || isLit (wB w)) r (fun l r => resv (decide (xBits x 0 16 = 0 ∧ (xBits x 16 10) ≠ 0)) (.unpack (wD w) (wA w) (wB w) (xBits x 28 4) (xBits x 27 1) (xBits x 26 1) (xBits x 16 10) (wS w) l) r))
  | 0x04 => withLit (isLit (wA w)) r (fun l r => resv (decide (wD w = 0 ∧ wBits w 4 6 = 0)) (.malloc (wA w) (wBits w 3 1) (wS w) l) r)
  | 0x05 => resv (decide (wD w = 0 ∧ wA w = 0 ∧ wB w = 0)) (.mfree (wS w)) r
  | 0x06 => withX r (fun x r => withLit (isLit (wD w) || isLit (wA w) || isLit (wB w)) r (fun l r => resv (decide (xBits x 0 18 = 0 ∧ (xBits x 28 4).toNat < 8 ∧ (xBits x 18 10) ≠ 0)) (.mloadw (wD w) (wA w) (wB w) (xBits x 28 4) (xBits x 18 10) (wS w) l) r))
  | 0x07 => resv (decide (wD w = 0 ∧ wA w = 0 ∧ wB w = 0)) (.mswap (wS w)) r
  | 0x08 => withX r (fun x r => withLit (isLit (wD w) || isLit (wA w) || isLit (wB w)) r (fun l r => resv (decide (xBits x 0 7 = 0 ∧ (xBits x 28 4).toNat < 8 ∧ (xBits x 25 3).toNat < 5 ∧ (xBits x 7 10) ≠ 0)) (.mstream (wD w) (wA w) (wB w) (xBits x 28 4) (xBits x 25 3) (xBits x 24 1) (xBits x 17 7) (xBits x 7 10) (wS w) l) r))
  | 0x09 => withX r (fun x r => withLit (isLit (wD w) || isLit (wA w) || isLit (wB w)) r (fun l r => resv (decide (xBits x 0 4 = 0 ∧ (xBits x 28 3).toNat < 7 ∧ (xBits x 25 3).toNat < 7 ∧ (xBits x 23 2).toNat < 3 ∧ (xBits x 12 10) ≠ 0 ∧ ((xBits x 31 1) = 0 ∨ ((xBits x 28 3) = 0 ∧ (xBits x 25 3) = 0 ∧ (xBits x 23 2) = 0 ∧ (xBits x 22 1) = 0 ∧ (xBits x 4 1) = 0)))) (.mdrain (wD w) (wA w) (wB w) (xBits x 31 1) (xBits x 28 3) (xBits x 25 3) (xBits x 23 2) (xBits x 22 1) (xBits x 12 10) (xBits x 5 7) (xBits x 4 1) (wS w) l) r))
  | 0x0a => withLit (isLit (wA w) || isLit (wB w)) r (fun l r => resv (decide (wD w = 0)) (.mzero (wA w) (wB w) (wS w) l) r)
  | 0x0b => withX r (fun x r => withLit (isLit (wD w) || isLit (wA w) || isLit (wB w)) r (fun l r => resv (decide (xBits x 22 10 = 0 ∧ xBits x 0 5 = 0 ∧ (xBits x 12 10) ≠ 0)) (.mfill (wD w) (wA w) (wB w) (xBits x 12 10) (xBits x 5 7) (wS w) l) r))
  | 0x0c => withX r (fun x r => resv (decide (xBits x 0 14 = 0 ∧ (xBits x 19 2).toNat < 3 ∧ (xBits x 17 2).toNat < 3)) (.ncall (wD w) (wA w) (wB w) (xBits x 26 6) (xBits x 21 5) (xBits x 19 2) (xBits x 17 2) (xBits x 14 3) (wS w)) r)
  | 0x0d => withX r (fun x r => withLit (isLit (wA w)) r (fun l r => resv (decide (wB w = 0 ∧ xBits x 0 30 = 0)) (.whint (wD w) (wA w) (xBits x 30 2) (wS w) l) r))
  | 0x0e => withX r (fun x r => resv (decide (wB w = 0 ∧ xBits x 0 28 = 0 ∧ (xBits x 28 4).toNat < 9 ∧ ((xBits x 28 4) ≠ 0 ∨ (wD w) = 0))) (.spawn (wD w) (wA w) (xBits x 28 4) (wS w)) r)
  | 0x0f => withX r (fun x r => resv (decide (xBits x 0 28 = 0 ∧ (xBits x 28 4).toNat < 9 ∧ ((xBits x 28 4) ≠ 0 ∨ (wD w) = 0))) (.spawnc (wD w) (wA w) (wB w) (xBits x 28 4) (wS w)) r)
  | 0x10 => withX r (fun x r => withLit (isLit (wB w)) r (fun l r => resv (decide (wD w = 0 ∧ xBits x 0 30 = 0 ∧ (xBits x 30 2).toNat < 3)) (.primemit (wA w) (wB w) (xBits x 30 2) (wS w) l) r))
  | 0x11 => withX r (fun x r => resv (decide (xBits x 0 24 = 0 ∧ (xBits x 30 2).toNat < 3)) (.trace (wD w) (wA w) (wB w) (xBits x 30 2) (xBits x 29 1) (xBits x 28 1) (xBits x 24 4) (wS w)) r)
  | 0x12 => withX r (fun x r => resv (decide (xBits x 28 4 = 0 ∧ xBits x 0 24 = 0)) (.tracec (wD w) (wA w) (wB w) (xBits x 24 4) (wS w)) r)
  | 0x13 => withX r (fun x r => resv (decide (xBits x 0 31 = 0)) (.replay (wD w) (wA w) (wB w) (xBits x 31 1) (wS w)) r)
  | 0x14 => resv (decide (wD w = 0 ∧ wA w = 0 ∧ wB w = 0)) (.pixlock (wS w)) r
  | 0x15 => resv (decide (wD w = 0 ∧ wA w = 0 ∧ wB w = 0)) (.pixunlock (wS w)) r
  | 0x16 => withX r (fun x r => resv (decide (wD w = 0 ∧ wB w = 0 ∧ xBits x 31 1 = 0 ∧ xBits x 0 29 = 0)) (.pixexp (wA w) (xBits x 30 1) (xBits x 29 1) (wS w)) r)
  | 0x17 => withX r (fun x r => resv (decide (xBits x 0 10 = 0 ∧ (xBits x 22 2).toNat < 2 ∧ (xBits x 20 2).toNat < 3 ∧ ((xBits x 22 2) = 0 ∨ (xBits x 20 2) = 0) ∧ (xBits x 10 6) ≠ 0)) (.attr (wD w) (wA w) (wB w) (xBits x 27 5) (xBits x 24 3) (xBits x 22 2) (xBits x 20 2) (xBits x 16 4) (xBits x 10 6) (wS w)) r)
  | 0x18 => withX r (fun x r => resv (decide (wB w = 0 ∧ xBits x 0 30 = 0 ∧ (xBits x 30 2).toNat < 2)) (.nlgrid (wD w) (wA w) (xBits x 30 2) (wS w)) r)
  | 0x19 => withX r (fun x r => resv (decide (xBits x 0 30 = 0 ∧ (xBits x 30 2).toNat < 2)) (.nlins (wD w) (wA w) (wB w) (xBits x 30 2) (wS w)) r)
  | 0x1a => withX r (fun x r => withLit (isLit (wB w)) r (fun l r => resv (decide (xBits x 0 8 = 0)) (.nlpairs (wD w) (wA w) (wB w) (xBits x 28 4) (xBits x 27 1) (xBits x 20 7) (xBits x 8 12) (wS w) l) r))
  | 0x1b => resv (decide (wB w = 0)) (.nlstat (wD w) (wA w) (wS w)) r
  | _ => .ok (.unassignedEncoding w, r)

/-- Decodes a word of class 5 (R46, R47): `w` the first word, `r` the words after it. -/
def decodeSync (w : Word) (r : List Word) : DecodeResult :=
  match (wOp5 w).toNat with
  | 0x00 => withLit (isLit (wA w)) r (fun l r => resv (true) (.clopen (wD w) (wA w) (wB w) (wS w) l) r)
  | 0x01 => resv (decide (wB w = 0)) (.cljoin (wD w) (wA w) (wS w)) r
  | 0x02 => resv (decide (wD w = 0 ∧ wB w = 0)) (.clleave (wA w) (wS w)) r
  | 0x03 => resv (decide (wD w = 0 ∧ wB w = 0)) (.clarrive (wA w) (wS w)) r
  | 0x04 => resv (decide (wB w = 0)) (.clwait (wD w) (wA w) (wS w)) r
  | 0x05 => resv (decide (wB w = 0)) (.clbar (wD w) (wA w) (wS w)) r
  | 0x06 => withX r (fun x r => resv (decide (xBits x 0 23 = 0 ∧ (xBits x 30 2).toNat < 3)) (.clvote (wD w) (wA w) (wB w) (xBits x 30 2) (xBits x 23 7) (wS w)) r)
  | 0x07 => withX r (fun x r => resv (decide (xBits x 0 19 = 0 ∧ (xBits x 28 4).toNat < 9 ∧ ((xBits x 28 4).toNat < 6 ∨ (xBits x 26 2) = 0))) (.clred (wD w) (wA w) (wB w) (xBits x 28 4) (xBits x 26 2) (xBits x 19 7) (wS w)) r)
  | 0x08 => resv (decide (wD w = 0 ∧ wB w = 0)) (.clclose (wA w) (wS w)) r
  | 0x09 => withLit (isLit (wB w)) r (fun l r => resv (true) (.clinfo (wD w) (wA w) (wB w) (wS w) l) r)
  | 0x0a => withX r (fun x r => withLit (isLit (wA w) || isLit (wB w)) r (fun l r => resv (decide (xBits x 0 24 = 0 ∧ (xBits x 25 3).toNat < 5)) (.bind (wD w) (wA w) (wB w) (xBits x 28 4) (xBits x 25 3) (xBits x 24 1) (wS w) l) r))
  | 0x0b => withLit (isLit (wB w)) r (fun l r => resv (true) (.acq (wD w) (wA w) (wB w) (wS w) l) r)
  | 0x0c => withLit (isLit (wB w)) r (fun l r => resv (decide (wD w = 0)) (.rel (wA w) (wB w) (wS w) l) r)
  | 0x0d => resv (decide (wD w = 0 ∧ wBits w 14 3 = 0 ∧ wB w = 0)) (.gbar (wBits w 10 4) (wS w)) r
  | 0x0e => resv (decide (wD w = 0 ∧ wBits w 14 3 = 0 ∧ wB w = 0)) (.garrive (wBits w 10 4) (wS w)) r
  | 0x0f => resv (decide (wD w = 0 ∧ wBits w 14 3 = 0 ∧ wB w = 0)) (.gwait (wBits w 10 4) (wS w)) r
  | 0x10 => withLit (isLit (wB w)) r (fun l r => resv (decide (wD w = 0 ∧ wBits w 13 4 = 0)) (.waitc (wBits w 10 3) (wB w) (wS w) l) r)
  | 0x11 => resv (decide (wD w = 0 ∧ wB w = 0)) (.nwait (wA w) (wS w)) r
  | 0x12 => resv (true) (.qenq (wD w) (wA w) (wB w) (wS w)) r
  | 0x13 => resv (true) (.qpop (wD w) (wA w) (wB w) (wS w)) r
  | 0x14 => resv (true) (.qenqu (wD w) (wA w) (wB w) (wS w)) r
  | 0x15 => withLit (isLit (wB w)) r (fun l r => resv (true) (.rawait (wD w) (wA w) (wB w) (wS w) l) r)
  | 0x16 => resv (decide (wB w = 0)) (.rares (wD w) (wA w) (wS w)) r
  | 0x17 => withLit (isLit (wB w)) r (fun l r => resv (decide (wD w = 0)) (.rarel (wA w) (wB w) (wS w) l) r)
  | 0x18 => if wBits w 3 1 = 0 then resv (decide (wD w = 0 ∧ wA w = 0 ∧ wB w = 0)) (.fenceL (wS w)) r else resv (decide (wD w = 0 ∧ wA w = 0 ∧ wBits w 7 3 = 0 ∧ 1 ≤ (wBits w 4 3).toNat ∧ (wBits w 4 3).toNat < 5)) (.fenceH (wBits w 4 3) (wS w)) r
  | 0x19 => withLit (isLit (wA w)) r (fun l r => resv (decide (wBits w 7 3 = 0 ∧ (wBits w 3 4).toNat < 9)) (.hmake (wD w) (wA w) (wBits w 3 4) (wS w) l) r)
  | 0x1a => resv (decide (wB w = 0)) (.hread (wD w) (wA w) (wS w)) r
  | _ => .ok (.unassignedEncoding w, r)

/-- Decodes a word of class 6 (R46, R47): `w` the first word, `r` the words after it. -/
def decodeFlow (w : Word) (r : List Word) : DecodeResult :=
  match (wOp5 w).toNat with
  | 0x00 => resv (decide (braOk (wBits w 20 4) (wBits w 19 1) (wBits w 18 1) = true)) (.bra (wBits w 20 4) (wBits w 19 1) (wBits w 18 1) (wBits w 3 15) (wS w)) r
  | 0x01 => withLit (isLit (wD w)) r (fun l r => resv (true) (.braz (wD w) (wBits w 3 14) (wS w) l) r)
  | 0x02 => withLit (isLit (wD w)) r (fun l r => resv (true) (.branz (wD w) (wBits w 3 14) (wS w) l) r)
  | 0x03 => resv (decide (wD w = 0 ∧ wA w = 0 ∧ wB w = 0)) (.join (wS w)) r
  | 0x04 => resv (decide (wBits w 18 6 = 0)) (.setj (wBits w 3 15) (wS w)) r
  | 0x05 => resv (decide (wBits w 18 6 = 0)) (.call (wBits w 3 15) (wS w)) r
  | 0x06 => withLit (isLit (wA w)) r (fun l r => resv (decide (wD w = 0 ∧ wB w = 0)) (.ret (wA w) (wS w) l) r)
  | 0x07 => withLit (isLit (wA w) || isLit (wB w)) r (fun l r => resv (decide (wD w = 0)) (.jmpi (wA w) (wB w) (wS w) l) r)
  | 0x08 => resv (true) (.setmode (wBits w 3 21) (wS w)) r
  | 0x09 => resv (decide (wD w = 0 ∧ wA w = 0 ∧ wB w = 0)) (.exit (wS w)) r
  | 0x0a => resv (decide (wD w = 0 ∧ wA w = 0 ∧ wB w = 0)) (.yield (wS w)) r
  | 0x0b => withLit (isLit (wA w)) r (fun l r => resv (decide (wD w = 0 ∧ wB w = 0)) (.sleep (wA w) (wS w) l) r)
  | 0x0c => withLit (isLit (wA w)) r (fun l r => resv (decide (wD w = 0 ∧ wB w = 0)) (.reggive (wA w) (wS w) l) r)
  | 0x0d => withLit (isLit (wA w)) r (fun l r => resv (decide (wD w = 0 ∧ wB w = 0)) (.regclaim (wA w) (wS w) l) r)
  | 0x0e => withLit (isLit (wB w)) r (fun l r => resv (true) (.launch (wD w) (wA w) (wB w) (wS w) l) r)
  | 0x10 => resv (decide (wD w = 0 ∧ wA w = 0 ∧ wB w = 0)) (.nop (wS w)) r
  | _ => .ok (.unassignedEncoding w, r)

/-- Decodes a word of class 7 (R46, R47): `w` the first word, `r` the words after it. -/
def decodeSys (w : Word) (r : List Word) : DecodeResult :=
  match (wOp5 w).toNat with
  | 0x00 => withLit (isLit (wA w)) r (fun l r => resv (decide (wD w = 0 ∧ wB w = 0)) (.trap (wA w) (wS w) l) r)
  | 0x01 => resv (decide (wD w = 0 ∧ wA w = 0 ∧ wB w = 0)) (.rte (wS w)) r
  | 0x02 => resv (true) (.csrr (wD w) (wBits w 3 14) (wS w)) r
  | 0x03 => withLit (isLit (wD w)) r (fun l r => resv (true) (.csrw (wD w) (wBits w 3 14) (wS w) l) r)
  | 0x04 => withX r (fun x r => withLit (isLit (wA w)) r (fun l r => if xBits x 28 4 = 0 then resv (decide (wD w = 0 ∧ wB w = 0 ∧ xBits x 0 12 = 0)) (.tlbinvPage (wA w) (xBits x 12 16) (wS w) l) r else if xBits x 28 4 = 1 then resv (decide (wD w = 0 ∧ wB w = 0 ∧ xBits x 0 12 = 0)) (.tlbinvAsidall (wA w) (xBits x 12 16) (wS w) l) r else if xBits x 28 4 = 2 then resv (decide (wD w = 0 ∧ wB w = 0 ∧ xBits x 0 12 = 0)) (.tlbinvAll (wA w) (xBits x 12 16) (wS w) l) r else if xBits x 28 4 = 3 then resv (decide (wD w = 0 ∧ wB w = 0 ∧ xBits x 0 12 = 0)) (.tlbinvResolve (wA w) (xBits x 12 16) (wS w) l) r else if xBits x 28 4 = 4 then resv (decide (wD w = 0 ∧ wB w = 0 ∧ xBits x 0 12 = 0)) (.tlbinvRefuse (wA w) (xBits x 12 16) (wS w) l) r else .error .reserved))
  | 0x05 => withX r (fun x r => withLit (isLit (wA w)) r (fun l r => resv (decide (wB w = 0 ∧ xBits x 0 30 = 0 ∧ (xBits x 30 2).toNat < 3)) (.sramcfg (wD w) (wA w) (xBits x 30 2) (wS w) l) r))
  | 0x06 => withLit (isLit (wA w) || isLit (wB w)) r (fun l r => resv (decide (wD w = 0)) (.splitrd (wA w) (wB w) (wS w) l) r)
  | 0x07 => withLit (isLit (wA w) || isLit (wB w)) r (fun l r => resv (decide (wD w = 0)) (.splitwr (wA w) (wB w) (wS w) l) r)
  | 0x08 => withLit (isLit (wA w) || isLit (wB w)) r (fun l r => resv (decide (wD w = 0)) (.dstkrd (wA w) (wB w) (wS w) l) r)
  | 0x09 => withLit (isLit (wA w) || isLit (wB w)) r (fun l r => resv (decide (wD w = 0)) (.dstkwr (wA w) (wB w) (wS w) l) r)
  | 0x0a => withLit (isLit (wA w) || isLit (wB w)) r (fun l r => resv (decide (wD w = 0)) (.clmemb (wA w) (wB w) (wS w) l) r)
  | 0x0b => withLit (isLit (wA w) || isLit (wB w)) r (fun l r => resv (decide (wD w = 0)) (.clrestore (wA w) (wB w) (wS w) l) r)
  | 0x0c => resv (decide (wA w = 0 ∧ wB w = 0)) (.cntrd (wD w) (wS w)) r
  | 0x0d => resv (decide (wD w = 0 ∧ wA w = 0 ∧ wB w = 0)) (.brk (wS w)) r
  | 0x0e => resv (decide (wD w = 0 ∧ wA w = 0 ∧ wB w = 0)) (.halt (wS w)) r
  | 0x0f => withLit (isLit (wA w) || isLit (wB w)) r (fun l r => if smcStatic (wA w) l = 1 then .ok (.smcAttest (wD w) (wA w) (wB w) (wS w) l, r) else if smcStatic (wA w) l = 2 then .ok (.smcBlockworld (wD w) (wA w) (wB w) (wS w) l, r) else if smcStatic (wA w) l = 3 then .ok (.smcRegionworld (wD w) (wA w) (wB w) (wS w) l, r) else if smcStatic (wA w) l = 4 then .ok (.smcFramecfg (wD w) (wA w) (wB w) (wS w) l, r) else if smcStatic (wA w) l = 5 then .ok (.smcPower (wD w) (wA w) (wB w) (wS w) l, r) else .ok (.smcVersion (wD w) (wA w) (wB w) (wS w) l, r))
  | 0x10 => resv (decide (wD w = 0 ∧ wA w = 0 ∧ wB w = 0)) (.park (wS w)) r
  | _ => .ok (.unassignedEncoding w, r)

/-- Decodes the first instruction of a list of words (R25, R26). -/
def decodeWords : List Word → DecodeResult
  | [] => .error .truncated
  | w :: r =>
    match (wClass w).toNat with
    | 0 => decodeSalu w r
    | 1 => decodeVectorV w r
    | 2 => decodeVectorS w r
    | 3 => decodeMem w r
    | 4 => decodeEng w r
    | 5 => decodeSync w r
    | 6 => decodeFlow w r
    | _ => decodeSys w r

/-- The words of bytes as memory holds them, each word little-endian (R1); a last partial word is dropped. -/
def wordsOfBytes : List Byte → List Word
  | b0 :: b1 :: b2 :: b3 :: r => (b3 ++ b2 ++ b1 ++ b0) :: wordsOfBytes r
  | _ => []

/-- Decodes bytes: the instruction and the number of bytes it takes. -/
def decode (bs : List Byte) : Except DecodeError (Instr × Nat) :=
  match decodeWords (wordsOfBytes bs) with
  | .ok (i, r) => .ok (i, 4 * ((wordsOfBytes bs).length - r.length))
  | .error e => .error e

/-- The words of an instruction, from the same tables. A step of another agent has none. -/
def encode : Instr → List Word
  | .sadd d a b s lit => [mkWord 0x00#8 d a b s] ++ lit.toList
  | .ssub d a b s lit => [mkWord 0x01#8 d a b s] ++ lit.toList
  | .smul d a b s lit => [mkWord 0x02#8 d a b s] ++ lit.toList
  | .smulhu d a b s lit => [mkWord 0x03#8 d a b s] ++ lit.toList
  | .sand d a b s lit => [mkWord 0x04#8 d a b s] ++ lit.toList
  | .sor d a b s lit => [mkWord 0x05#8 d a b s] ++ lit.toList
  | .sxor d a b s lit => [mkWord 0x06#8 d a b s] ++ lit.toList
  | .sandn d a b s lit => [mkWord 0x07#8 d a b s] ++ lit.toList
  | .sshl d a b s lit => [mkWord 0x08#8 d a b s] ++ lit.toList
  | .sshr d a b s lit => [mkWord 0x09#8 d a b s] ++ lit.toList
  | .ssar d a b s lit => [mkWord 0x0a#8 d a b s] ++ lit.toList
  | .smin d a b s lit => [mkWord 0x0b#8 d a b s] ++ lit.toList
  | .smax d a b s lit => [mkWord 0x0c#8 d a b s] ++ lit.toList
  | .sminu d a b s lit => [mkWord 0x0d#8 d a b s] ++ lit.toList
  | .smaxu d a b s lit => [mkWord 0x0e#8 d a b s] ++ lit.toList
  | .seq d a b s lit => [mkWord 0x0f#8 d a b s] ++ lit.toList
  | .slt d a b s lit => [mkWord 0x10#8 d a b s] ++ lit.toList
  | .sltu d a b s lit => [mkWord 0x11#8 d a b s] ++ lit.toList
  | .ssel d a b s lit => [mkWord 0x12#8 d a b s] ++ lit.toList
  | .smov d a s lit => [mkWord 0x13#8 d a 0#7 s] ++ lit.toList
  | .sun d a f s lit => [mkWord 0x14#8 d a f s] ++ lit.toList
  | .sadd64 d a b s lit => [mkWord 0x15#8 d a b s] ++ lit.toList
  | .ssub64 d a b s lit => [mkWord 0x16#8 d a b s] ++ lit.toList
  | .sshl64 d a b s lit => [mkWord 0x17#8 d a b s] ++ lit.toList
  | .sshr64 d a b s lit => [mkWord 0x18#8 d a b s] ++ lit.toList
  | .smul64 d a b s lit => [mkWord 0x19#8 d a b s] ++ lit.toList
  | .sbfe d a b s lit => [mkWord 0x1a#8 d a b s] ++ lit.toList
  | .sbfi d a b s lit => [mkWord 0x1b#8 d a b s] ++ lit.toList
  | .pand d a b s => [mkWord 0x1c#8 d a b s]
  | .por d a b s => [mkWord 0x1d#8 d a b s]
  | .pxor d a b s => [mkWord 0x1e#8 d a b s]
  | .pandn d a b s => [mkWord 0x1f#8 d a b s]
  | .vaddVV d a b s => [mkWord 0x20#8 d a b s]
  | .vaddVS d a b s lit => [mkWord 0x40#8 d a b s] ++ lit.toList
  | .vsubVV d a b s => [mkWord 0x21#8 d a b s]
  | .vsubVS d a b s lit => [mkWord 0x41#8 d a b s] ++ lit.toList
  | .vmulVV d a b s => [mkWord 0x22#8 d a b s]
  | .vmulVS d a b s lit => [mkWord 0x42#8 d a b s] ++ lit.toList
  | .vfmaVV d a b s => [mkWord 0x23#8 d a b s]
  | .vfmaVS d a b s lit => [mkWord 0x43#8 d a b s] ++ lit.toList
  | .vfnmaVV d a b s => [mkWord 0x24#8 d a b s]
  | .vfnmaVS d a b s lit => [mkWord 0x44#8 d a b s] ++ lit.toList
  | .vminVV d a b s => [mkWord 0x25#8 d a b s]
  | .vminVS d a b s lit => [mkWord 0x45#8 d a b s] ++ lit.toList
  | .vmaxVV d a b s => [mkWord 0x26#8 d a b s]
  | .vmaxVS d a b s lit => [mkWord 0x46#8 d a b s] ++ lit.toList
  | .vandVV d a b s => [mkWord 0x27#8 d a b s]
  | .vandVS d a b s lit => [mkWord 0x47#8 d a b s] ++ lit.toList
  | .vorVV d a b s => [mkWord 0x28#8 d a b s]
  | .vorVS d a b s lit => [mkWord 0x48#8 d a b s] ++ lit.toList
  | .vxorVV d a b s => [mkWord 0x29#8 d a b s]
  | .vxorVS d a b s lit => [mkWord 0x49#8 d a b s] ++ lit.toList
  | .vshlVV d a b s => [mkWord 0x2a#8 d a b s]
  | .vshlVS d a b s lit => [mkWord 0x4a#8 d a b s] ++ lit.toList
  | .vshrVV d a b s => [mkWord 0x2b#8 d a b s]
  | .vshrVS d a b s lit => [mkWord 0x4b#8 d a b s] ++ lit.toList
  | .vmulhVV d a b s => [mkWord 0x2c#8 d a b s]
  | .vmulhVS d a b s lit => [mkWord 0x4c#8 d a b s] ++ lit.toList
  | .vclampVV d a b s => [mkWord 0x2d#8 d a b s]
  | .vclampVS d a b s lit => [mkWord 0x4d#8 d a b s] ++ lit.toList
  | .vceqVV d a b s => [mkWord 0x2e#8 d a b s]
  | .vceqVS d a b s lit => [mkWord 0x4e#8 d a b s] ++ lit.toList
  | .vcltVV d a b s => [mkWord 0x2f#8 d a b s]
  | .vcltVS d a b s lit => [mkWord 0x4f#8 d a b s] ++ lit.toList
  | .vcleVV d a b s => [mkWord 0x30#8 d a b s]
  | .vcleVS d a b s lit => [mkWord 0x50#8 d a b s] ++ lit.toList
  | .vcneVV d a b s => [mkWord 0x31#8 d a b s]
  | .vcneVS d a b s lit => [mkWord 0x51#8 d a b s] ++ lit.toList
  | .vclassVV d a b s => [mkWord 0x32#8 d a b s]
  | .vclassVS d a b s lit => [mkWord 0x52#8 d a b s] ++ lit.toList
  | .vselVV d a b s => [mkWord 0x33#8 d a b s]
  | .vselVS d a b s lit => [mkWord 0x53#8 d a b s] ++ lit.toList
  | .vmovVV d a s => [mkWord 0x34#8 d a 0#7 s]
  | .vmovVS d b s lit => [mkWord 0x54#8 d 0#7 b s] ++ lit.toList
  | .vunVV d a f s => [mkWord 0x35#8 d a f s]
  | .vunVS d a f s lit => [mkWord 0x55#8 d a f s] ++ lit.toList
  | .vcvtVV d a t s => [mkWord 0x36#8 d a t s]
  | .vcvtVS d a t s lit => [mkWord 0x56#8 d a t s] ++ lit.toList
  | .vbfeVV d a b s => [mkWord 0x37#8 d a b s]
  | .vbfeVS d a b s lit => [mkWord 0x57#8 d a b s] ++ lit.toList
  | .vbfiVV d a b s => [mkWord 0x38#8 d a b s]
  | .vbfiVS d a b s lit => [mkWord 0x58#8 d a b s] ++ lit.toList
  | .vquadVV d a p s => [mkWord 0x39#8 d a p s]
  | .vquadVS d a p s lit => [mkWord 0x59#8 d a p s] ++ lit.toList
  | .vshufVV d a b s => [mkWord 0x3a#8 d a b s]
  | .vshufVS d a b s lit => [mkWord 0x5a#8 d a b s] ++ lit.toList
  | .vrfirst d a s => [mkWord 0x3b#8 d a 0#7 s]
  | .vrlane d a b s lit => [mkWord 0x5c#8 d a b s] ++ lit.toList
  | .vwlane d a b s lit => [mkWord 0x5d#8 d a b s] ++ lit.toList
  | .vdot2VV d a b s => [mkWord 0x3e#8 d a b s]
  | .vdot2VS d a b s lit => [mkWord 0x5e#8 d a b s] ++ lit.toList
  | .vpfxVV d a f s => [mkWord 0x3f#8 d a f s]
  | .vpfxVS d a f s lit => [mkWord 0x5f#8 d a f s] ++ lit.toList
  | .ldg d a z n s => [mkWord 0x60#8 d a (z ++ n) s]
  | .stg d a z n s => [mkWord 0x61#8 d a (z ++ n) s]
  | .ldga d a z s => [mkWord 0x62#8 d a (z ++ 0#4) s]
  | .stga d a z s => [mkWord 0x63#8 d a (z ++ 0#4) s]
  | .lds d a z m s => [mkWord 0x64#8 d a (z ++ m) s]
  | .sts d a z m s => [mkWord 0x65#8 d a (z ++ m) s]
  | .ldgs d a z n s => [mkWord 0x66#8 d a (z ++ n) s]
  | .atomg d a n kind scope w64 ret cmp s => [mkWord 0x67#8 d a (0#3 ++ n) s, (kind ++ scope ++ w64 ++ ret ++ cmp ++ 0#16)]
  | .atoms d a m kind scope w64 ret cmp s => [mkWord 0x68#8 d a (0#3 ++ m) s, (kind ++ scope ++ w64 ++ ret ++ cmp ++ 0#16)]
  | .sld d a b size off s lit => [mkWord 0x69#8 d a b s, (size ++ 0#5 ++ off)] ++ lit.toList
  | .sst d a b size off s lit => [mkWord 0x6a#8 d a b s, (size ++ 0#5 ++ off)] ++ lit.toList
  | .fetch d a b lod s => [mkWord 0x6b#8 d a b s, (lod ++ 0#30)]
  | .pref a n level own s => [mkWord 0x6c#8 0#7 a (0#3 ++ n) s, (level ++ own ++ 0#29)]
  | .cmaint a b op s lit => [mkWord 0x6d#8 0#7 a b s, (op ++ 0#28)] ++ lit.toList
  | .cpy d a b hring srcn dstn size sscr dscr s lit => [mkWord 0x80#8 d a b s, (hring ++ srcn ++ dstn ++ size ++ sscr ++ dscr ++ 0#16)] ++ lit.toList
  | .cpymc d a b len s lit => [mkWord 0x81#8 d a b s, (len ++ 0#20)] ++ lit.toList
  | .pack d a b hring scr pitch s lit => [mkWord 0x82#8 d a b s, (hring ++ scr ++ 0#1 ++ pitch ++ 0#16)] ++ lit.toList
  | .unpack d a b hring scr tr pitch s lit => [mkWord 0x83#8 d a b s, (hring ++ scr ++ tr ++ pitch ++ 0#16)] ++ lit.toList
  | .malloc a w s lit => [mkWord 0x84#8 0 a (0#6 ++ w) s] ++ lit.toList
  | .mfree s => [mkWord 0x85#8 0#7 0#7 0#7 s]
  | .mloadw d a b fmt pitch s lit => [mkWord 0x86#8 d a b s, (fmt ++ pitch ++ 0#18)] ++ lit.toList
  | .mswap s => [mkWord 0x87#8 0#7 0#7 0#7 s]
  | .mstream d a b fmt sr ini mmax pitch s lit => [mkWord 0x88#8 d a b s, (fmt ++ sr ++ ini ++ mmax ++ pitch ++ 0#7)] ++ lit.toList
  | .mdrain d a b raw act ofmt scl bias pitch nc icell s lit => [mkWord 0x89#8 d a b s, (raw ++ act ++ ofmt ++ scl ++ bias ++ pitch ++ nc ++ icell ++ 0#4)] ++ lit.toList
  | .mzero a b s lit => [mkWord 0x8a#8 0#7 a b s] ++ lit.toList
  | .mfill d a b pitch nc s lit => [mkWord 0x8b#8 d a b s, (0#10 ++ pitch ++ nc ++ 0#5)] ++ lit.toList
  | .ncall d a b nin nout itype otype token s => [mkWord 0x8c#8 d a b s, (nin ++ nout ++ itype ++ otype ++ token ++ 0#14)]
  | .whint d a op s lit => [mkWord 0x8d#8 d a 0#7 s, (op ++ 0#30)] ++ lit.toList
  | .spawn d a pay s => [mkWord 0x8e#8 d a 0#7 s, (pay ++ 0#28)]
  | .spawnc d a b pay s => [mkWord 0x8f#8 d a b s, (pay ++ 0#28)]
  | .primemit a b cull s lit => [mkWord 0x90#8 0#7 a b s, (cull ++ 0#30)] ++ lit.toList
  | .trace d a b mode log cullb logn s => [mkWord 0x91#8 d a b s, (mode ++ log ++ cullb ++ logn ++ 0#24)]
  | .tracec d a b logn s => [mkWord 0x92#8 d a b s, (0#4 ++ logn ++ 0#24)]
  | .replay d a b full s => [mkWord 0x93#8 d a b s, (full ++ 0#31)]
  | .pixlock s => [mkWord 0x94#8 0#7 0#7 0#7 s]
  | .pixunlock s => [mkWord 0x95#8 0#7 0#7 0#7 s]
  | .pixexp a target zw s => [mkWord 0x96#8 0#7 a 0#7 s, (0#1 ++ target ++ zw ++ 0#29)]
  | .attr d a b first count mode k basen stride s => [mkWord 0x97#8 d a b s, (first ++ count ++ mode ++ k ++ basen ++ stride ++ 0#10)]
  | .nlgrid d a op s => [mkWord 0x98#8 d a 0#7 s, (op ++ 0#30)]
  | .nlins d a b mode s => [mkWord 0x99#8 d a b s, (mode ++ 0#30)]
  | .nlpairs d a b hring full skip slots s lit => [mkWord 0x9a#8 d a b s, (hring ++ full ++ skip ++ slots ++ 0#8)] ++ lit.toList
  | .nlstat d a s => [mkWord 0x9b#8 d a 0#7 s]
  | .clopen d a b s lit => [mkWord 0xa0#8 d a b s] ++ lit.toList
  | .cljoin d a s => [mkWord 0xa1#8 d a 0#7 s]
  | .clleave a s => [mkWord 0xa2#8 0#7 a 0#7 s]
  | .clarrive a s => [mkWord 0xa3#8 0#7 a 0#7 s]
  | .clwait d a s => [mkWord 0xa4#8 d a 0#7 s]
  | .clbar d a s => [mkWord 0xa5#8 d a 0#7 s]
  | .clvote d a b kind st s => [mkWord 0xa6#8 d a b s, (kind ++ st ++ 0#23)]
  | .clred d a b op ty st s => [mkWord 0xa7#8 d a b s, (op ++ ty ++ st ++ 0#19)]
  | .clclose a s => [mkWord 0xa8#8 0#7 a 0#7 s]
  | .clinfo d a b s lit => [mkWord 0xa9#8 d a b s] ++ lit.toList
  | .bind d a b index scope clear s lit => [mkWord 0xaa#8 d a b s, (index ++ scope ++ clear ++ 0#24)] ++ lit.toList
  | .acq d a b s lit => [mkWord 0xab#8 d a b s] ++ lit.toList
  | .rel a b s lit => [mkWord 0xac#8 0#7 a b s] ++ lit.toList
  | .gbar n s => [mkWord 0xad#8 0 (0#3 ++ n) 0 s]
  | .garrive n s => [mkWord 0xae#8 0 (0#3 ++ n) 0 s]
  | .gwait n s => [mkWord 0xaf#8 0 (0#3 ++ n) 0 s]
  | .waitc p b s lit => [mkWord 0xb0#8 0 (0#4 ++ p) b s] ++ lit.toList
  | .nwait a s => [mkWord 0xb1#8 0#7 a 0#7 s]
  | .qenq d a b s => [mkWord 0xb2#8 d a b s]
  | .qpop d a b s => [mkWord 0xb3#8 d a b s]
  | .qenqu d a b s => [mkWord 0xb4#8 d a b s]
  | .rawait d a b s lit => [mkWord 0xb5#8 d a b s] ++ lit.toList
  | .rares d a s => [mkWord 0xb6#8 d a 0#7 s]
  | .rarel a b s lit => [mkWord 0xb7#8 0#7 a b s] ++ lit.toList
  | .fenceL s => [mkWord 0xb8#8 0 0 0 s]
  | .fenceH c s => [mkWord 0xb8#8 0 0 (0#3 ++ c ++ 1#1) s]
  | .hmake d a t s lit => [mkWord 0xb9#8 d a (0#3 ++ t) s] ++ lit.toList
  | .hread d a s => [mkWord 0xba#8 d a 0#7 s]
  | .bra c n h o s => [mkWord21 0xc0#8 (c ++ n ++ h ++ o) s]
  | .braz d o s lit => [mkWord21 0xc1#8 (d ++ o) s] ++ lit.toList
  | .branz d o s lit => [mkWord21 0xc2#8 (d ++ o) s] ++ lit.toList
  | .join s => [mkWord 0xc3#8 0#7 0#7 0#7 s]
  | .setj o s => [mkWord21 0xc4#8 (0#6 ++ o) s]
  | .call o s => [mkWord21 0xc5#8 (0#6 ++ o) s]
  | .ret a s lit => [mkWord 0xc6#8 0#7 a 0#7 s] ++ lit.toList
  | .jmpi a b s lit => [mkWord 0xc7#8 0#7 a b s] ++ lit.toList
  | .setmode i s => [mkWord21 0xc8#8 i s]
  | .exit s => [mkWord 0xc9#8 0#7 0#7 0#7 s]
  | .yield s => [mkWord 0xca#8 0#7 0#7 0#7 s]
  | .sleep a s lit => [mkWord 0xcb#8 0#7 a 0#7 s] ++ lit.toList
  | .reggive a s lit => [mkWord 0xcc#8 0#7 a 0#7 s] ++ lit.toList
  | .regclaim a s lit => [mkWord 0xcd#8 0#7 a 0#7 s] ++ lit.toList
  | .launch d a b s lit => [mkWord 0xce#8 d a b s] ++ lit.toList
  | .nop s => [mkWord 0xd0#8 0#7 0#7 0#7 s]
  | .trap a s lit => [mkWord 0xe0#8 0#7 a 0#7 s] ++ lit.toList
  | .rte s => [mkWord 0xe1#8 0#7 0#7 0#7 s]
  | .csrr d c s => [mkWord21 0xe2#8 (d ++ c) s]
  | .csrw d c s lit => [mkWord21 0xe3#8 (d ++ c) s] ++ lit.toList
  | .tlbinvPage a asid s lit => [mkWord 0xe4#8 0#7 a 0#7 s, (0#4 ++ asid ++ 0#12)] ++ lit.toList
  | .tlbinvAsidall a asid s lit => [mkWord 0xe4#8 0#7 a 0#7 s, (1#4 ++ asid ++ 0#12)] ++ lit.toList
  | .tlbinvAll a asid s lit => [mkWord 0xe4#8 0#7 a 0#7 s, (2#4 ++ asid ++ 0#12)] ++ lit.toList
  | .tlbinvResolve a asid s lit => [mkWord 0xe4#8 0#7 a 0#7 s, (3#4 ++ asid ++ 0#12)] ++ lit.toList
  | .tlbinvRefuse a asid s lit => [mkWord 0xe4#8 0#7 a 0#7 s, (4#4 ++ asid ++ 0#12)] ++ lit.toList
  | .sramcfg d a mode s lit => [mkWord 0xe5#8 d a 0#7 s, (mode ++ 0#30)] ++ lit.toList
  | .splitrd a b s lit => [mkWord 0xe6#8 0#7 a b s] ++ lit.toList
  | .splitwr a b s lit => [mkWord 0xe7#8 0#7 a b s] ++ lit.toList
  | .dstkrd a b s lit => [mkWord 0xe8#8 0#7 a b s] ++ lit.toList
  | .dstkwr a b s lit => [mkWord 0xe9#8 0#7 a b s] ++ lit.toList
  | .clmemb a b s lit => [mkWord 0xea#8 0#7 a b s] ++ lit.toList
  | .clrestore a b s lit => [mkWord 0xeb#8 0#7 a b s] ++ lit.toList
  | .cntrd d s => [mkWord 0xec#8 d 0#7 0#7 s]
  | .brk s => [mkWord 0xed#8 0#7 0#7 0#7 s]
  | .halt s => [mkWord 0xee#8 0#7 0#7 0#7 s]
  | .smcVersion d a b s lit => [mkWord 0xef#8 d a b s] ++ lit.toList
  | .smcAttest d a b s lit => [mkWord 0xef#8 d a b s] ++ lit.toList
  | .smcBlockworld d a b s lit => [mkWord 0xef#8 d a b s] ++ lit.toList
  | .smcRegionworld d a b s lit => [mkWord 0xef#8 d a b s] ++ lit.toList
  | .smcFramecfg d a b s lit => [mkWord 0xef#8 d a b s] ++ lit.toList
  | .smcPower d a b s lit => [mkWord 0xef#8 d a b s] ++ lit.toList
  | .park s => [mkWord 0xf0#8 0#7 0#7 0#7 s]
  | .cycleLatchRead d s => [mkWord21 0xe2#8 (d ++ 0#14) s]
  | .fpstatWrite d s lit => [mkWord21 0xe3#8 (d ++ 0x021#14) s] ++ lit.toList
  | .framedeadlineWrite d hi s lit => [mkWord21 0xe3#8 (d ++ (0x0a8#13 ++ hi)) s] ++ lit.toList
  | .unassignedEncoding w => [w]
  | .moduleReset => []
  | .thermalLimit => []
  | .launchContextWrite => []
  | .launchQueuePop => []
  | .launchRecordRead => []
  | .taskStart => []
  | .gangPlace => []
  | .waveStart => []
  | .waveSlotRelease => []
  | .taskRetire => []
  | .completionRetry => []
  | .waveStarving => []
  | .sleepWake => []
  | .regclaimGrant => []
  | .loadReturn => []
  | .storePerformed => []
  | .memUncorr => []
  | .sharedCopyDiscard => []
  | .runaheadEnd => []
  | .rollback => []
  | .firmwareKill => []
  | .preemptRequest => []
  | .preemptEntry => []
  | .gangEvict => []
  | .waveResume => []
  | .clauseHomeOp => []
  | .bindHomeOp => []
  | .lockHomeOp => []
  | .queueHomeOp => []
  | .ringHomeOp => []
  | .fenceHReturn => []
  | .engineCommandAccept => []
  | .copySlotEnd => []
  | .cpymcReception => []
  | .matrixArbitration => []
  | .matrixCommandComplete => []
  | .boothDescriptorRead => []
  | .boothTimerExpire => []
  | .weightSetFill => []
  | .tileBegin => []
  | .tileLayerEnd => []
  | .tileScatter => []
  | .spawnLaunch => []
  | .rayQueryEnd => []
  | .rayQuerySuspend => []
  | .replayLaneEnd => []
  | .primitiveRasterise => []
  | .pixelWaveLaunch => []
  | .pixlockGrant => []
  | .blendExport => []
  | .rasterBatchResume => []
  | .frameDeadline => []
  | .frameAck => []
  | .fetchComplete => []
  | .fetchFault => []
  | .nlCommandArrive => []
  | .nlCommandTurn => []
  | .rdmaWrite => []
  | .rdmaReadRequest => []
  | .rdmaResponse => []
  | .compareSwap => []
  | .fetchAdd => []
  | .remoteEnqueue => []
  | .remoteArrive => []
  | .invalidRequest => []
  | .frameDrop => []
  | .nlCommandEnd => []
  | .rasterEngineSave => []
  | .addressSpaceRetire => []
  | .queuePairBind => []

/-- The bytes of words as memory holds them (R1). -/
def bytesOfWord (w : Word) : List Byte :=
  [w.extractLsb' 0 8, w.extractLsb' 8 8, w.extractLsb' 16 8, w.extractLsb' 24 8]

/-- The three words, the longest instruction, of table bits `w` of which `nbits` are given (R25, R26). -/
def tableWords (nbits w : Nat) : List Word :=
  [BitVec.ofNat 32 (w % 2 ^ nbits), BitVec.ofNat 32 (w % 2 ^ nbits / 2 ^ 32),
    BitVec.ofNat 32 (w % 2 ^ nbits / 2 ^ 64)]

/-- The instruction the decoder reads from table bits: the first word is bits 31:0, the next bits 63:32, and so on. -/
def decodeTableWord (nbits w : Nat) : Option Instr :=
  match decode ((tableWords nbits w).flatMap bytesOfWord) with
  | .ok (i, _) => some i
  | .error _ => none

end Sys2Proof
end

