-- ==== Sys2Proof/Config.lean ====
section
/-! DEFINITION. What the manual leaves to the device, or to a standard that it names: free values and functions, which
nothing in Lean can evaluate. -/

namespace Sys2Proof.Config

/-- Free 64-bit values: the `i`-th free value of the step whose count is `n` (log 4). -/
opaque free (n i : Nat) : BitVec 64

/-- SHA-384 (R388, R389), as the standard that the manual names defines it (log 40). -/
opaque sha384 (bs : List Byte) : BitVec 384

/-- Whether a 64-byte Ed25519 signature of a digest verifies under RFC 8032 with a key pair's keys (R388, log 40). -/
opaque ed25519Valid (keys : List Byte) (digest : BitVec 384) (sig : List Byte) : Bool

/-- Whether a 3,309-byte ML-DSA-65 signature of a digest verifies under FIPS 204 with an empty context (R388, log 40). -/
opaque mldsaValid (keys : List Byte) (digest : BitVec 384) (sig : List Byte) : Bool

/-- The SHA-384 of the key pair, as the fuses hold it (R388). -/
opaque fusedKeys : BitVec 384

/-- The fused minimum of SVN for an image's KIND (R388). -/
opaque minSvn (kind : Nat) : Nat

/-- The key pair that a monitor image holds: the manual does not say where (R388, log 40). -/
opaque imageKeys (monitor : List Byte) : List Byte

/-- The Ed25519 signature of a digest by the identity key that the monitor derives (R389, log 40). -/
opaque identityEd (digest : BitVec 384) : BitVec 512

/-- An ML-DSA-65 signature of a digest by the identity key, with the signer's random value (R389, log 40). -/
opaque identityMl (digest : BitVec 384) (random : BitVec 64) : BitVec 26472

/-- The module flash as the module comes (R387): the ROM's key pair, the monitor image, the runtime image (log 40). -/
opaque flashKeys : List Byte

@[inherit_doc flashKeys]
opaque flashMonitor : List Byte

@[inherit_doc flashKeys]
opaque flashRuntime : List Byte

end Sys2Proof.Config
end

