-- ==== Sys2Proof/Machine/Map.lean ====
section
/-! DEFINITION. Sparse maps: sorted lists of key and value with no entry equal to what an absent key reads as. -/

namespace Sys2Proof.Machine

/-- A map from numbers: what an absent key reads as is given with each use. -/
abbrev Map (β : Type) := List (Nat × β)

/-- The value at key `k`, or `d` where the map has no entry. -/
def mapGet {β : Type} (d : β) : Map β → Nat → β
  | [], _ => d
  | (k', v) :: r, k => if k' = k then v else mapGet d r k

/-- The map without its entries at key `k`. -/
def mapDel {β : Type} : Map β → Nat → Map β
  | [], _ => []
  | (k', v) :: r, k => if k' = k then mapDel r k else (k', v) :: mapDel r k

/-- The map with an entry added before the first larger key. -/
def mapIns {β : Type} : Map β → Nat → β → Map β
  | [], k, v => [(k, v)]
  | (k', v') :: r, k, v => if k < k' then (k, v) :: (k', v') :: r else (k', v') :: mapIns r k v

/-- The map whose value at `k` is `v`: writing the absent value removes the entry. -/
def mapSet {β : Type} [DecidableEq β] (d : β) (m : Map β) (k : Nat) (v : β) : Map β :=
  if v = d then mapDel m k else mapIns (mapDel m k) k v

/-- The map with `f` applied at `k`. -/
def mapMod {β : Type} [DecidableEq β] (d : β) (m : Map β) (k : Nat) (f : β → β) : Map β :=
  mapSet d m k (f (mapGet d m k))

/-- The keys of a map, ascending. -/
def mapKeys {β : Type} (m : Map β) : List Nat := m.map Prod.fst

/-- Whether the keys rise strictly from above `lo` and no entry holds the absent value. -/
def mapWf {β : Type} [DecidableEq β] (d : β) : Map β → Bool
  | [] => true
  | [(_, v)] => v ≠ d
  | (k, v) :: (k', v') :: r => decide (k < k') && decide (v ≠ d) && mapWf d ((k', v') :: r)

/-- The first key from `lo` up, below `lo + n`, that the map does not use. -/
def mapFresh {β : Type} (m : Map β) : Nat → Nat → Nat
  | lo, 0 => lo
  | lo, n + 1 => if (mapKeys m).contains lo then mapFresh m (lo + 1) n else lo

/-- A list without repeats: of equal elements the last stands. -/
def distinct {α : Type} [DecidableEq α] : List α → List α
  | [] => []
  | a :: r => if r.contains a then distinct r else a :: distinct r

end Sys2Proof.Machine
end

