-- ==== Sys2Proof/Machine/State.lean ====
section
/-! DEFINITION. The state of an EV9-M256 module as plain data: what the manual gives the machine (INVENTORY.md,
State), and the model's own fields, which say what moves next and number the free values. -/

namespace Sys2Proof.Machine

/-! ### Splits and the divergence stack -/

/-- An entry of a divergence stack in the layout of R89: MASK and the word at offset 8. -/
structure Entry where
  mask : Mask
  word : Dword
  deriving DecidableEq, Repr

/-- The absent entry; KIND 0b00 is never stored (R89). -/
def Entry.zero : Entry := { mask := 0, word := 0 }

/-- A trap as raised: its cause (R284), TRAPPC and TRAPARG. -/
structure TrapRec where
  cause : Nat
  pc : Dword
  arg : Dword
  deriving DecidableEq, Repr

/-- What keeps a split from issuing beside its STATE and its stall count. -/
inductive Wait where
  /-- Nothing. -/
  | none
  /-- It waits on the merge entry of a page (R296), for the address `va`. -/
  | merge (asid page : Nat) (va : Dword)
  /-- It waits on the answer to a holding operation under way at a home, a monitor or an engine (R155). -/
  | home
  deriving DecidableEq, Repr

/-- A split record (R86), or the handler's context (R280), with what the issue logic keeps for it. -/
structure Split where
  pc : Dword
  own : Mask
  exec : Mask
  /-- STATE: 0 FREE, 1 READY, 2 WAITJ, 3 SLEEP, 4 CLAIM. -/
  state : Nat
  /-- DEPTH, 0 to 32. -/
  depth : Nat
  /-- WAKE as saved; while the split sleeps and issue runs, `wakeAt - clk` instead. -/
  wake : Nat
  /-- The clk at which a sleeping split wakes (R101). -/
  wakeAt : Nat
  /-- The stack entries held in the core, by position (R89). -/
  stack : Map Entry
  /-- The earliest clk at which the split issues (R40). -/
  next : Nat
  wait : Wait
  /-- A trap raised and not yet taken (R282), or raised for its next instruction (R132, R250). -/
  pend : Option TrapRec
  /-- A REGCLAIM that waits (R102): blocks, order of the request, the next instruction, its stall count. -/
  claim : Option (Nat × Nat × Dword × Nat)
  /-- Its next instruction was held when the port last tried it (R95). -/
  held : Bool
  deriving DecidableEq, Repr

/-- A FREE split record. -/
def Split.free : Split :=
  { pc := 0, own := 0, exec := 0, state := 0, depth := 0, wake := 0, wakeAt := 0, stack := [], next := 0,
    wait := .none, pend := none, claim := none, held := false }

/-! ### Results on their way -/

/-- A register of a wave, in the files of R43. -/
inductive Reg where
  /-- s0 to s95. -/
  | s (n : Nat)
  /-- v0 to v127. -/
  | v (n : Nat)
  /-- p0 to p7. -/
  | p (n : Nat)
  /-- The EXEC of the split or context `k`. -/
  | exec (k : Nat)
  /-- h0 to h15. -/
  | h (n : Nat)
  /-- MODE. -/
  | mode
  /-- k0 to k7 (R301). -/
  | k (n : Nat)
  /-- The split table (R301). -/
  | splits
  deriving DecidableEq, Repr

/-- A fixed-latency result that may not be readable yet (R41, R42): the register, the split that issued it, the clk from
which it is readable, the lanes (or lane bits) it wrote and what they held before. -/
structure Producer where
  reg : Reg
  split : Nat
  ready : Nat
  lanes : Mask
  /-- The lanes' words before, for a vector register. -/
  old : Map Word
  /-- The value before, for the other files. -/
  oldVal : Dword
  deriving DecidableEq, Repr

/-- One elementary access of an instruction in flight: at most 8 bytes, single-copy atomic (R129), or a line of CMAINT. -/
structure Acc where
  lane : Nat
  /-- The virtual address, and the physical address, or the scratch offset. -/
  va : Nat
  pa : Nat
  /-- Bytes. -/
  size : Nat
  /-- The first register a load writes. -/
  reg : Nat
  /-- Sign extension of a load of less than 4 bytes (R129). -/
  sgn : Bool
  /-- The bytes a store writes, or an atomic's operand. -/
  data : List Byte
  /-- An atomic's compare value. -/
  cmp : List Byte
  /-- LDGS: the scratch offset written. -/
  target : Nat
  /-- It is performed: its value, `data`, is still to be written, to its register or, of LDGS, to scratch. -/
  fixed : Bool := false
  deriving DecidableEq, Repr

/-- What an operation in flight does as it completes. -/
inductive FlightKind where
  /-- LDG, LDGA, LDS: the lanes' registers are written. -/
  | load
  /-- SLD: scalar registers are written. -/
  | sload
  /-- A store of bytes (R133, R135, R140 ZERO, R291). -/
  | store
  /-- An atomic (R137): kind, width in bytes, and whether D is written. -/
  | atom (kind width : Nat) (ret : Bool)
  /-- LDGS (R134). -/
  | gs
  /-- ATTR (R340): what it captured, and the words that have come, are in `vals`. -/
  | attr
  /-- CMAINT CLEAN, EVICT and FLUSH on lines (R140): the op. -/
  | maint (op : Nat)
  /-- FETCH (R346): its accesses are reads of the fetch unit; what they have read is in `got`. -/
  | fetch
  /-- Any other operation counted on a path; its own events complete it. -/
  | other
  deriving DecidableEq, Repr

/-- What a test of a record finds: t, u and v in F64, and the status bits. -/
structure Hit where
  leaf : Dword
  t : Nat
  u : Nat
  v : Nat
  prim : Word
  inst : Word
  surf : Bool
  front : Bool
  proc : Bool
  iter : Nat
  deriving DecidableEq, Repr

/-- A thing to be visited: a node, or a record of kind 1 triangle, 2 surface, 3 procedural. -/
inductive Item where
  | node (va : Dword)
  | leaf (kind : Nat) (va : Dword)
  deriving DecidableEq, Repr

/-- What a query has still to visit: a child of a node with its box, or what an entered child leads to. -/
structure Todo where
  box : Option (List (Option Int) × List (Option Int))
  items : List Item
  deriving DecidableEq, Repr

/-- A query (R316, R322). -/
structure Query where
  root : Dword
  mode : Nat
  cullb : Bool
  log : Bool
  /-- The choices that the unit has still to make: the order of its visits, and which children it enters without need. -/
  seed : Nat
  todo : List Todo
  noconv : Bool
  best : Option Hit
  /-- The candidate it is suspended on. -/
  cand : Option Hit
  /-- It is resumed from a TRAV that software has changed (R322). -/
  loose : Bool
  deriving DecidableEq, Repr

/-- A suspended query, as the ray unit reads it back from the 64 bytes that it wrote in TRAV of the record at an offset of a
gang's scratch window (R312, R322). -/
structure Trav where
  /-- Whose it is (R6). -/
  asid : Nat
  world : Nat
  gang : Nat
  off : Nat
  /-- Its gang still has its window, and the unit has written no other TRAV there since. -/
  stands : Bool
  /-- The bytes of O, D, TMIN and TMAX that the query has. -/
  ray : List Byte
  bytes : List Byte
  q : Query
  deriving DecidableEq, Repr

/-- An operation issued and not complete (R130, R141). -/
structure Flight where
  /-- The number of the operation in the wave's program order. -/
  seq : Nat
  path : Nat
  kind : FlightKind
  /-- The accesses are to scratch. -/
  scratch : Bool
  /-- The elementary accesses not performed yet; some have been performed where `begun` holds. -/
  accs : List Acc
  begun : Bool
  /-- Accesses of operations before this number are performed first (R147). -/
  after : Nat
  /-- Lanes of registers that later instructions have written: before, and during, a run-ahead under way (R42, R131). -/
  killed : List (Reg × Mask)
  raKilled : List (Reg × Mask)
  /-- The instruction and the values it captured at issue, for operations of units. -/
  op : Instr
  /-- The split that issued it, and the registers the operation writes. -/
  split : Nat
  dests : List Reg
  act : Mask
  vals : List Nat
  /-- Lanes whose own events have not completed them. -/
  lanesLeft : Mask
  /-- FETCH: the page and address it waits for, and whether firmware has refused it (R348). -/
  page : Option (Nat × Dword)
  refused : Bool
  /-- Physical lines that the ray unit or the blend units write for it, and whether they own them (R14, R150). -/
  lines : List Nat
  owns : Bool := false
  /-- TRACEC: the queries that its lanes resume. -/
  queries : List Query := []
  /-- FETCH: the bytes read so far, by virtual address, each one more than its value. -/
  got : Map Nat := []
  /-- FETCH: further reads follow from what it has not read yet. -/
  more : Bool := false
  /-- FETCH: what it is to find at a physical byte that a later access of the wave has passed it at, one more than its value. -/
  shadow : Map Nat := []
  deriving DecidableEq, Repr

/-- A binding of a synchronisation object (R171): the object's slice and number there, and the bound range. -/
structure Binding where
  slice : Nat
  /-- 0 clause entry, 1 physical address of a header or lock word. -/
  isAddr : Bool
  obj : Nat
  index : Nat
  base : Dword
  len : Nat
  scope : Nat
  asid : Nat
  /-- The binder's gang and cluster, for scopes narrower than the device. -/
  gang : Nat
  cluster : Nat
  wave : Nat
  world : Nat
  deriving DecidableEq, Repr

/-- A SYNC, LAUNCH or SYS operation delivered to a home (R155): the instruction and what it captured at issue. -/
structure HomeOp where
  seq : Nat
  split : Nat
  op : Instr
  /-- The handle operand. -/
  hnd : Dword
  act : Mask
  /-- The lanes of `act` that are arrivals under way (R165); the others only wait. -/
  arr : Mask
  /-- The physical address of the header or lock word. -/
  pa : Nat
  /-- Values captured at issue. -/
  vals : List Nat
  /-- The object of a clause arrival has answered its arrival: the phase awaited, by lane set. -/
  arrived : Option Nat
  /-- It has reached its home and waits there. -/
  reached : Bool
  holding : Bool
  /-- The bindings of its object when it reached the home, where it waits there (R144). -/
  binds : Option (List Binding) := Option.none
  deriving DecidableEq, Repr

/-- A membership slot (R169). -/
structure Memb where
  handle : Dword
  mask : Mask
  arrived : Mask
  pending : Mask
  early : Mask
  waiting : Mask
  phase : Word
  deriving DecidableEq, Repr

/-- An empty slot. -/
def Memb.empty : Memb :=
  { handle := 0, mask := 0, arrived := 0, pending := 0, early := 0, waiting := 0, phase := 0 }

/-- A token (R247, R252). -/
structure Token where
  pending : Bool
  lanes : Mask
  failmask : Mask
  id : Nat
  subcode : Nat
  unc : Bool
  /-- The first destination register, the number of destination registers. -/
  dreg : Nat
  dcount : Nat
  /-- Rows (lanes) of the call that have not landed. -/
  left : Mask
  deriving DecidableEq, Repr

/-- A token with no call. -/
def Token.idle : Token :=
  { pending := false, lanes := 0, failmask := 0, id := 0, subcode := 0, unc := false, dreg := 0, dcount := 0,
    left := 0 }

/-- The CSRs of a wave that hold state of their own (R285). -/
structure Csrs where
  fpstat : Word
  wavectl : Word
  wst : Dword
  fetchtab : Dword
  codebase : Dword
  scrbase : Word
  scrsize : Word
  launchid : Word
  trapcause : Nat
  trappc : Dword
  traparg : Dword
  trapsplit : Nat
  trapvec : Dword
  savearea : Dword
  savesize : Word
  handler : Bool
  priv : Bool
  raPages : Nat
  raInsns : Nat
  prio : Nat
  world : Nat
  ttbase : Dword
  asid : Nat
  tsave : List Word
  tsavemode : Word
  cycleLatch : Word
  deriving DecidableEq, Repr

/-- Every CSR zero. -/
def Csrs.zero : Csrs :=
  { fpstat := 0, wavectl := 0, wst := 0, fetchtab := 0, codebase := 0, scrbase := 0, scrsize := 0, 
    launchid := 0, trapcause := 0, trappc := 0, traparg := 0, trapsplit := 0, trapvec := 0,
    savearea := 0, savesize := 0, handler := false, priv := false, raPages := 0, raInsns := 0, prio := 0,
    world := 0, ttbase := 0, asid := 0, tsave := List.replicate 8 0, tsavemode := 0, cycleLatch := 0 }

/-- The registers and control state that a run-ahead checkpoint holds (R299). -/
structure Checkpoint where
  v : Map Word
  s : Map Word
  p : Map Mask
  h : Map Dword
  mode : Word
  fpstat : Word
  splits : List Split
  board : List Producer
  counters : Map Nat
  /-- Register errors of the live registers (R301). -/
  badRegs : List (Reg × Mask)
  deriving DecidableEq, Repr

/-- A run-ahead in progress (R299). -/
structure RunAhead where
  cp : Checkpoint
  /-- The split that runs ahead. -/
  split : Nat
  /-- The page and the address of the faulting instruction, and its access (read 1, write 2, execute 4). -/
  asid : Nat
  page : Nat
  va : Dword
  access : Nat
  /-- SCOPE of I where it is an atomic, else 0xFF (R297). -/
  scope : Nat
  /-- Poisoned registers, by lane. -/
  poison : List (Reg × Mask)
  /-- Distinct pages found, in the order found, I's page included. -/
  pages : List Nat
  /-- Those of them whose merge entry this run-ahead created. -/
  created : List Nat
  /-- Instructions counted by INSNS. -/
  insns : Nat
  /-- The run-ahead has ended, and rollback waits for its loads (R300). -/
  stopped : Bool
  /-- I's merge entry has been freed meanwhile: 1 resolved, 2 refused (R298). -/
  outcome : Nat
  /-- Operations with this number or above were issued during the run-ahead. -/
  fromSeq : Nat
  deriving DecidableEq, Repr

/-- A primitive in a parameter store (R334, R335). -/
structure Prim where
  task : Nat
  gidx : Nat
  widx : Nat
  count : Nat
  lane : Nat
  /-- The draw record's 128 bytes as read at issue, and its address. -/
  draw : List Byte
  drawVa : Dword
  cull : Nat
  /-- X, Y, Z, RW of the three vertices. -/
  verts : List Word
  primid : Word
  idx : List Word
  asid : Nat
  ttbase : Dword
  world : Nat
  deriving DecidableEq, Repr

/-- A quad of a primitive (R339): its place in primitive order, its origin, and the covered samples of its four
lanes, eight bits each. -/
structure Quad where
  prim : Prim
  ord : Nat
  x : Nat
  y : Nat
  cover : Nat
  deriving DecidableEq, Repr

/-- An operation of a path that failed uncorrectably, or whose FETCH was refused (R132, R348): the trap to take before
an instruction that reads one of its destinations, or that counts it complete. -/
structure UncRec where
  path : Nat
  regs : List Reg
  cause : Nat
  arg : Dword
  /-- Operations issued on the path after it, but for those of a run-ahead under way, and those. -/
  later : Nat
  ahead : Nat := 0
  deriving DecidableEq, Repr

/-- Where a wave stands in its life. -/
inductive WaveLife where
  /-- No wave. -/
  | none
  | resident
  /-- Parked by PARK (R287). -/
  | parked
  /-- Ended and released (R275). -/
  | gone
  deriving DecidableEq, Repr

/-- A wave and its architectural state (R12). -/
structure Wave where
  life : WaveLife
  /-- Placement (R11): cluster, core, slot. -/
  cluster : Nat
  core : Nat
  slot : Nat
  /-- The gang's number, and the wave's index in it. -/
  gang : Nat
  idx : Nat
  role : Nat
  /-- 0 launched, 1 spawned (R257), 2 pixel (R339). -/
  origin : Nat
  /-- Allocated blocks of 8 vector registers. -/
  blocks : Nat
  /-- Lane `L` of v(n) at key `64 * n + L`. -/
  v : Map Word
  s : Map Word
  p : Map Mask
  h : Map Dword
  k : Map Token
  mode : Word
  /-- The path counters LD ST SCR FET RAY MX CPY GS (R130). -/
  counters : Map Nat
  /-- Split records 0 to 3, and the handler's context at 4. -/
  splits : List Split
  memb : Map Memb
  csr : Csrs
  board : List Producer
  flight : List Flight
  hops : List HomeOp
  /-- The number of the next operation in program order. -/
  seq : Nat
  /-- Traps pending for the wave as a whole (R282): PREEMPT or RESUME. -/
  pend : Option TrapRec
  /-- A pre-emption request has reached the wave, and phase 1 runs (R286). -/
  preempt : Bool
  /-- A pre-emption request waits for RTE (R282). -/
  preemptLater : Bool
  ra : Option RunAhead
  /-- The clk of its start, kept across pre-emption (R95). -/
  age : Nat
  /-- The clk since which it has had a ready split without issuing, and whether it is starving (R95). -/
  readySince : Nat
  starving : Bool
  /-- FENCE.L and other ordering points: operations before this number are performed before later ones. -/
  fenceSeq : Nat
  /-- The wave died (R283). -/
  died : Bool
  /-- Operations that met an uncorrectable error and whose trap is not taken yet (R132, R348, R223). -/
  uncs : List UncRec
  /-- The save area that the distributor popped for it, and that goes back on SAVEQ (R262). -/
  area : Dword
  /-- Lanes of registers with an uncorrectable error, by the form of R43 (R301). -/
  badRegs : List (Reg × Mask)
  /-- The checkpoint has an uncorrectable error (R301). -/
  badCheckpoint : Bool
  /-- Pixel wave: its quads, and the lanes that hold the interlock (R339, R341). -/
  quads : List Quad
  locked : Mask
  /-- The commands counted on CPY, in issue order, with whether each has been accepted: an accepted one counts until every
  earlier one is (R130, R186). -/
  cpys : List (Nat × Bool)
  /-- The arrivals that held GBARs keep (R174): the split, the barrier, the phase in which the arrival counted, and the
  instruction's address. -/
  gbars : List (Nat × Nat × Nat × Dword)
  deriving DecidableEq, Repr

/-- No wave: what an unused wave number reads as. -/
def Wave.none : Wave :=
  { life := .none, cluster := 0, core := 0, slot := 0, gang := 0, idx := 0, role := 0, origin := 0, blocks := 0,
    v := [], s := [], p := [], h := [], k := [], mode := 0, counters := [], splits := [], memb := [],
    csr := Csrs.zero, board := [], flight := [], hops := [], seq := 0, pend := .none, preempt := false,
    preemptLater := false, ra := .none, age := 0, readySince := 0, starving := false, fenceSeq := 0, died := false, uncs := [], area := 0, badRegs := [],
    badCheckpoint := false, quads := [], locked := 0, cpys := [], gbars := [] }

/-! ### Gangs, clusters and what they share -/

/-- A gang barrier (R174): the phase number, each wave's arrivals in the current phase and after it, and the clk of the
last arrival or end. It stands as of that clk: what the arrivals complete, completes in the clk after. -/
structure Bar where
  phase : Nat
  arr : Map Nat
  last : Nat
  deriving DecidableEq, Repr

/-- A barrier at its first phase with no arrival. -/
def Bar.zero : Bar := { phase := 0, arr := [], last := 0 }

/-- A gang (R19, R271). -/
structure Gang where
  live : Bool
  cluster : Nat
  /-- The task's entry in the dependence table. -/
  task : Nat
  x : Nat
  y : Nat
  z : Nat
  gidx : Nat
  /-- WAVES of the record, VREGS, SCRKIB, ACCROWS. -/
  waves : Nat
  vregs : Nat
  scrKib : Nat
  accRows : Nat
  /-- The wave numbers of its started waves, by WAVEIDX. -/
  ids : Map Nat
  /-- Core and slot of each wave as placed (R272), by WAVEIDX. -/
  seats : List (Nat × Nat)
  /-- The reserved blocks of vector registers on each core (R102, R272). -/
  quota : Map Nat
  /-- Waves that have ended, by WAVEIDX. -/
  ended : List Nat
  /-- Waves whose slot is released. -/
  released : List Nat
  bars : Map Bar
  scratch : Map Byte
  /-- SCRBASE: where the scratch window lies, in the device's own terms (R126). -/
  scrPlace : Nat
  /-- First reserved accumulator row (R204). -/
  rb : Nat
  /-- Save areas popped for its waves that have not started (R262), by WAVEIDX from the first of them on. -/
  areas : List Dword
  /-- The window and rows are given up (R288). -/
  evicted : Bool
  /-- The order of placement on the die, for youngest first (R277). -/
  order : Nat
  deriving DecidableEq, Repr

/-- No gang. -/
def Gang.none : Gang :=
  { live := false, cluster := 0, task := 0, x := 0, y := 0, z := 0, gidx := 0, waves := 0, vregs := 0, scrKib := 0,
    accRows := 0, ids := [], seats := [], quota := [], ended := [], released := [], bars := [], scratch := [], scrPlace := 0,
    rb := 0, areas := [], evicted := false, order := 0 }

/-- A translation held by a TLB (R296). -/
structure TlbEntry where
  asid : Nat
  /-- VA[54:16] of the page's first 64 KiB unit, and the number of units. -/
  page : Nat
  units : Nat
  /-- The page-table entry's fields. -/
  pte : Dword
  deriving DecidableEq, Repr

/-- An entry of a merge table (R296). -/
structure MergeEntry where
  sec : Nat
  asid : Nat
  page : Nat
  deriving DecidableEq, Repr

/-- A fault record sent to firmware (R297). -/
structure FaultRec where
  kind : Nat
  req : Nat
  access : Nat
  asid : Nat
  cluster : Nat
  world : Nat
  launchid : Word
  cause : Nat
  va : Dword
  scope : Nat
  pages : List Nat
  deriving DecidableEq, Repr

/-- A clause entry at its home slice (R159). -/
structure Clause where
  live : Bool
  key : Word
  asid : Nat
  world : Nat
  gen : Nat
  refs : Nat
  phase : Word
  quorum : Nat
  exp0 : Nat
  arr0 : Nat
  exp1 : Nat
  arr1 : Nat
  /-- Lanes in J or JE; lanes in D, A, AE, J or JE (R162). -/
  joiners : Nat
  members : Nat
  /-- The operation of p and of p+1: instruction 1 CLVOTE, 2 CLRED; its KIND or OP; its TYPE. -/
  op0 : Option (Nat × Nat × Nat)
  op1 : Option (Nat × Nat × Nat)
  /-- The contributions to p and p+1: each contributing lane's value. -/
  data0 : List Dword
  data1 : List Dword
  /-- LAST: the result and the status of the last completed phase. -/
  last : Dword
  lastStatus : Word
  faulted : Bool
  parked : Nat
  /-- Receptions counted by engines and tasks (R193, R276) in p and p+1. -/
  eng0 : Nat
  eng1 : Nat
  deriving DecidableEq, Repr

/-- An entry never used: GEN 0, not live (R159). -/
def Clause.empty : Clause :=
  { live := false, key := 0, asid := 0, world := 0, gen := 0, refs := 0, phase := 0, quorum := 0, exp0 := 0,
    arr0 := 0, exp1 := 0, arr1 := 0, joiners := 0, members := 0, op0 := none, op1 := none, data0 := [], data1 := [],
    last := 0, lastStatus := 0, faulted := false, parked := 0, eng0 := 0, eng1 := 0 }

/-! ### The engines of a cluster -/

/-- Why an engine's access fails: a trap cause, the address, and whether a page-table entry was bad. -/
structure EngErr where
  cause : Nat
  va : Dword
  bad : Bool
  deriving DecidableEq, Repr

/-- What an engine has found of a page that it is to write (R150, R191): where it lies, or why it cannot be written. -/
structure PageAt where
  page : Nat
  pa : Nat
  err : Option EngErr
  deriving DecidableEq, Repr

/-- A command of the copy engine (R186): what it captured at issue, and how far it is. -/
structure CopyCmd where
  wave : Nat
  gang : Nat
  seq : Nat
  op : Instr
  act : Mask
  /-- Source and destination of each lane of `act`, ascending: an address, or a scratch offset. -/
  src : List Nat
  dst : List Nat
  /-- The ring header's address, the slot index, the tile base, the scratch offset. -/
  ring : Dword
  slot : Nat
  base : Nat
  off : Nat
  accepted : Bool
  /-- The bytes read at acceptance: a CPYMC's source, a tile header. -/
  data : List Byte
  /-- CPYMC: the clusters that have not received. -/
  left : List Nat
  hnd : Dword
  /-- Physical lines owned, and the destination pages as the engine found them at acceptance (R150, R191). -/
  lines : List Nat
  pages : List PageAt
  /-- A tile header that could not be read at acceptance: the engine does not try again (R186, R191). -/
  cut : Option EngErr
  /-- The command raised the CPY counter. -/
  counted : Bool
  asid : Nat
  ttbase : Dword
  world : Nat
  launchid : Word
  deriving DecidableEq, Repr

/-- A pair of weights and their record (R203): the source in scratch, and the weight rows as loaded. -/
structure Plane where
  loaded : Bool
  /-- The array has served another gang since: it is reloaded before it is used (R222). -/
  stale : Bool
  src : Nat
  pitch : Nat
  fmt : Nat
  k : Nat
  n : Nat
  rows : List (List Byte)
  deriving DecidableEq, Repr

/-- A plane that has never been loaded (R203). -/
def Plane.empty : Plane := { loaded := false, stale := false, src := 0, pitch := 0, fmt := 0, k := 0, n := 0, rows := [] }

/-- A matrix command accepted and not complete (R206, R219). -/
structure MxCmd where
  wave : Nat
  seq : Nat
  op : Instr
  /-- Operands captured at issue. -/
  vals : List Nat
  accbase : Nat
  prio : Nat
  /-- An MSTREAM that has been given its array slot (R222). -/
  granted : Bool
  /-- Its number in the order of the gang's acceptance. -/
  order : Nat
  deriving DecidableEq, Repr

/-- What the matrix engine keeps for a gang (R203, R209, R219). -/
structure GangMx where
  active : Plane
  shadow : Plane
  cmds : List MxCmd
  /-- Commands accepted so far. -/
  accepted : Nat
  /-- MALLOC holds a window: rows per wave, and whether each wave has its own. -/
  window : Option (Nat × Bool)
  deriving DecidableEq, Repr

/-- No planes, no commands, no window. -/
def GangMx.empty : GangMx := { active := Plane.empty, shadow := Plane.empty, cmds := [], accepted := 0, window := none }

/-- A row of a neural call, or a thread to be spawned, in a booth or a tile (R240, R256). -/
structure Row where
  wave : Nat
  token : Nat
  lane : Nat
  id : Nat
  vals : List Word
  /-- Bytes of staging it holds. -/
  bytes : Nat
  deriving DecidableEq, Repr

/-- A booth (R241). -/
structure Booth where
  used : Bool
  /-- 0 NCALL, 1 SPAWN, 2 SPAWNC. -/
  kind : Nat
  key : List Nat
  size : Nat
  rows : List Row
  order : Nat
  /-- The descriptor's address and bytes as read (R236), empty until then. -/
  descVa : Dword
  desc : List Byte
  timer : Option Nat
  /-- Spawn: entry address, lanes per thread, class, payload registers. -/
  entry : Dword
  lanes : Nat
  cls : Nat
  task : Nat
  ttbase : Dword
  asid : Nat
  world : Nat
  deriving DecidableEq, Repr

/-- An empty booth. -/
def Booth.empty : Booth :=
  { used := false, kind := 0, key := [], size := 0, rows := [], order := 0, descVa := 0, desc := [], timer := none,
    entry := 0, lanes := 0, cls := 0, task := 0, ttbase := 0, asid := 0, world := 0 }

/-- A dispatched tile (R243, R244). -/
structure Tile where
  booth : Booth
  begun : Bool
  /-- The layer that runs, and each row's inputs to it, laid out as R208. -/
  layer : Nat
  acts : List (List Byte)
  /-- It holds the current array slot. -/
  granted : Bool
  /-- It runs ahead for a wave that is pre-empted (R251). -/
  rush : Bool
  deriving DecidableEq, Repr

/-- A weight set in the weight cache, or being filled (R237). -/
structure WSet where
  asid : Nat
  desc : Dword
  base : Dword
  bytes : Nat
  resident : Bool
  data : List Byte
  pins : Nat
  lastUse : Nat
  ttbase : Dword
  world : Nat
  deriving DecidableEq, Repr

/-- What a cluster holds beside its waves. -/
structure Cluster where
  /-- Modes of banks 0 to 31: 0 CACHE, 1 SCRATCH, 2 FIFO (R15). -/
  banks : List Nat
  /-- Banks closed to fills by an SRAMCFG that found a line in use (R302). -/
  closed : List Nat
  secure : Bool
  /-- Accumulator cells: column `c` of row `r` at key `128 * r + c` (R16). -/
  acc : Map Word
  /-- Shared copies of lines (R141): the line's 128 bytes at key `pa / 128`. -/
  copies : Map (List Byte)
  copyCmds : List CopyCmd
  booths : List Booth
  boothOrder : Nat
  tiles : List Tile
  sets : List WSet
  spawnQ : List Booth
  /-- The gang whose planes the array holds (R222), and the last arbitration slots: true for a market slot. -/
  arrayGang : Nat
  slots : List Bool
  deriving DecidableEq, Repr

/-- A cluster at module reset. Bank modes are firmware's to set (R15): log 14. -/
def Cluster.reset : Cluster :=
  { banks := List.replicate 32 0, closed := [], secure := true, acc := [], copies := [], copyCmds := [],
    booths := List.replicate 32 Booth.empty, boothOrder := 0, tiles := [], sets := [], spawnQ := [], arrayGang := 0,
    slots := [] }

/-! ### Launch -/

/-- A launch context (R262). -/
structure LaunchCtx where
  header : Dword
  asid : Nat
  ttbase : Dword
  world : Nat
  priv : Bool
  trapvec : Dword
  saveq : Dword
  savesize : Word
  deriving DecidableEq, Repr

/-- Where a task stands (R267 to R277). -/
inductive TaskState where
  | empty
  /-- Popped; its record is not read yet (R268). -/
  | popped
  /-- Read and valid; not started. -/
  | ready
  | started
  /-- Ended; its completion is to be posted (R276), with this status. -/
  | posting (status : Nat)
  deriving DecidableEq, Repr

/-- A task of the dependence table (R267). -/
structure Task where
  state : TaskState
  /-- The launch context, the record address, the queue's PRIO, the order of entry. -/
  ctx : Nat
  record : Dword
  qprio : Nat
  order : Nat
  launchid : Word
  /-- The 128 bytes of the record, and DONE as it stood at the task's entry, where it could be read (R276). -/
  bytes : List Byte
  done0 : Option Dword
  /-- Gangs handed out, placed so far. -/
  nextGang : Nat
  /-- Cluster of the last gang placed. -/
  lastCluster : Option Nat
  anyDied : Bool
  /-- The DONE clause counts the task as a reception (R276). -/
  counted : Bool
  /-- The clk of the next completion attempt (R276). -/
  retryAt : Nat
  /-- The merge entry that the distributor waits on for it: ASID and page (R276, R277). -/
  wait : Option (Nat × Nat)
  deriving DecidableEq, Repr

/-- An unused entry of the dependence table. -/
def Task.empty : Task :=
  { state := .empty, ctx := 0, record := 0, qprio := 0, order := 0, launchid := 0, bytes := [], done0 := none, nextGang := 0,
    lastCluster := none, anyDied := false, counted := false, retryAt := 0, wait := none }

/-! ### Raster engines, neighbour-list engines and the platform -/

/-- The samples a lane of a primitive covers (R341): pixel, samples, its wave once launched, and whether it has
executed PIXUNLOCK. It stands until its wave ends. -/
structure LaneCov where
  task : Nat
  ord : Nat
  px : Nat
  py : Nat
  samples : Nat
  wave : Option Nat
  unlocked : Bool
  /-- Depth is tested as it exports (R338). -/
  late : Bool
  deriving DecidableEq, Repr

/-- The raster engine of a section (R334 to R344). -/
structure Raster where
  secure : Bool
  store : List Prim
  waiting : List Quad
  cov : List LaneCov
  ord : Nat
  /-- The streams, by task and GANGIDX, that are inside a batch, each with its primitives since the boundary (R344). -/
  batch : List (Nat × Nat × Nat)
  /-- The primitives of the batch in flight as firmware saved the engine, each with its number: they are rasterised again. -/
  again : List (Prim × Nat)
  /-- Saved by firmware, until it resumes. -/
  saved : Bool
  deriving DecidableEq, Repr

/-- A raster engine at reset. -/
def Raster.reset : Raster :=
  { secure := true, store := [], waiting := [], cov := [], ord := 0, batch := [], again := [], saved := false }

/-- A command of a neighbour-list engine (R359). -/
structure NlCmd where
  wave : Nat
  split : Nat
  seq : Nat
  op : Instr
  act : Mask
  /-- The section of the issuing cluster. -/
  sec : Nat
  grid : Dword
  vals : List Nat
  arrived : Bool
  /-- sd has been written; the memory-side part runs (R362, R366). -/
  turned : Bool
  /-- The status that the turn computed. -/
  status : Nat
  /-- The page of the grid record that the engine waits for, and whether firmware has refused it (R368). -/
  page : Option Nat
  refused : Bool
  asid : Nat
  ttbase : Dword
  world : Nat
  launchid : Word
  cluster : Nat
  /-- Destinations, from acceptance on: physical places and lengths (R150, R356). -/
  areas : List (Nat × Nat)
  /-- The grid record's place and bytes, as the turn read them. -/
  pa : Nat
  head : List Byte
  deriving DecidableEq, Repr

/-- A queue pair (R380) with its replay window (R153): sequence number, response, whether an error. -/
structure Qp where
  bound : Bool
  port : Nat
  asid : Nat
  ttbase : Dword
  world : Nat
  error : Bool
  window : List (Nat × Dword × Bool)
  deriving DecidableEq, Repr

/-- A queue pair not bound. -/
def Qp.none : Qp := { bound := false, port := 0, asid := 0, ttbase := 0, world := 0, error := false, window := [] }

/-- A packet the module has sent (R380 to R386): the queue pair, the kind, its value and bytes.
Kinds: 0 acknowledgement, 1 read response, 2 atomic acknowledgement, 3 NAK invalid request, 4 remote access error,
5 sequence error, 6 RDMA WRITE of a frame, 7 FRAME. -/
structure Packet where
  qp : Nat
  kind : Nat
  value : Dword
  bytes : List Byte
  deriving DecidableEq, Repr

/-- The module flash (R387, R388): the key pair whose hash the fuses hold, the monitor image, the runtime image. -/
structure Flash where
  keys : List Byte
  monitor : List Byte
  runtime : List Byte
  deriving DecidableEq, Repr

/-- The flash as the module comes (log 40). -/
def Flash.shipped : Flash := { keys := Config.flashKeys, monitor := Config.flashMonitor, runtime := Config.flashRuntime }

/-- The boot stages (R387). -/
inductive BootStage where
  | rom | monitor | runtime
  /-- An image was refused (R388). -/
  | halted
  deriving DecidableEq, Repr

/-! ### What moves next -/

/-- What moves next: the step of an agent with its subject, an instruction issued by a split, or an act of firmware
on the control processor. -/
inductive Turn where
  /-- A step of the opcode table, with its subject: numbers and bytes. -/
  | event (e : Instr) (nums : List Nat) (bytes : List Byte)
  /-- An issue port, `8 * cluster + 2 * core + port`, issues the instruction it chooses (R95). -/
  | issue (port : Nat)
  /-- Runtime firmware stores bytes at a physical address (R387). -/
  | fwStore (pa : Nat) (bytes : List Byte)
  /-- Runtime firmware executes TLBINV with an operation, an ASID and an address (R298, R391). -/
  | fwTlbinv (op asid : Nat) (va : Dword)
  /-- A cluster's cache keeps a shared copy of a line as memory now holds it (R141). -/
  | keepCopy (cluster line : Nat)
  /-- A TLB keeps a translation as the tables now hold it (R296): core, cluster or L2 TLB, and the translation's
  space. -/
  | keepTlb (tlb asid : Nat) (ttbase va : Dword)
  /-- A TLB drops an entry (R296), by its place. -/
  | dropTlb (tlb place : Nat)
  /-- The ray unit or the blend units take ownership of the lines of an operation (R14, R150): the wave, and the place among its
  operations. -/
  | takeLines (w i : Nat)
  /-- A GARRIVE on its way arrives (R149, R155, R174): the wave, and its place among the operations on their way. -/
  | gangArrive (w i : Nat)
  /-- A register of a wave proves uncorrectable (R301). -/
  | badReg (w : Nat) (r : Reg)
  /-- A sector of memory, by `pa / 64`, proves uncorrectable (R301). -/
  | badSector (q : Nat)
  /-- A sector of a gang's scratch window, by offset / 64, or an accumulator cell of a cluster proves uncorrectable (R301). -/
  | badScratch (gang q : Nat)
  | badAcc (cluster cell : Nat)
  /-- The run-ahead checkpoint of a wave proves uncorrectable (R301). -/
  | badCheckpoint (w : Nat)
  /-- An engine's step, still to come, has already written a 4-byte unit of a gang's scratch window (R152): the step with its
  subject, the gang, the unit's offset / 4. -/
  | early (e : Instr) (nums : List Nat) (gang unit : Nat)
  /-- An engine's step, still to come, has already read a 4-byte unit of its source (R150, R221, R327): of memory, by
  `pa / 4`, or of a gang's scratch window, by offset / 4. -/
  | peek (e : Instr) (nums : List Nat) (gang : Option Nat) (unit : Nat)
  /-- An engine's step whose units written early keep what they hold by now (R152). -/
  | finish (e : Instr) (nums : List Nat)
  /-- Nothing moves; the clk passes. -/
  | idle
  deriving DecidableEq, Repr

/-- The context whose instruction is issued: the wave, its split (4: the handler), the address of the instruction's
first word and of the next instruction (R26). -/
structure Focus where
  wave : Nat
  split : Nat
  pc : Dword
  next : Dword
  deriving DecidableEq, Repr

/-- What an engine's operation finds in memory and in scratch windows, by gang, as it reads (R150, R189, R221), and the choices
and the count of free values that its step has. -/
structure View where
  nums : List Nat
  free : Nat
  mem : List Host.Cell
  scratch : Map (Map Byte)
  badSectors : List Nat
  badScratch : List (Nat × Nat)
  deriving DecidableEq, Repr

/-- The state of the module. -/
structure State where
  /-- The clk count (R2). -/
  clk : Nat
  /-- Physical memory (R124): bytes other than 0, by rising address. -/
  mem : List Host.Cell
  waves : Map Wave
  gangs : Map Gang
  /-- What the matrix engine keeps for each gang (R203). -/
  mx : Map GangMx
  clusters : Map Cluster
  /-- The clk from which an issue port is free, by `8 * cluster + 2 * core + port` (R40). -/
  ports : Map Nat
  /-- The wave and split that each port issued last, and whether that was a YIELD (R95). -/
  lastIssue : Map (Nat × Nat × Bool)
  /-- TLBs: core `4 * cluster + core`, cluster `256 + cluster`, L2 TLB `320 + section` (R296). -/
  tlbs : Map (List TlbEntry)
  merges : List MergeEntry
  faults : List FaultRec
  /-- Lines with an uncorrectable sector (R301), by `pa / 64`. -/
  badSectors : List Nat
  /-- 64-byte sectors of scratch windows with an uncorrectable error: gang, offset / 64; and accumulator cells: cluster,
  128 × row + column (R223, R301). -/
  badScratch : List (Nat × Nat)
  badAcc : List (Nat × Nat)
  clauses : Map Clause
  bindings : List Binding
  ctxs : Map (Option LaunchCtx)
  tasks : Map Task
  /-- Tasks admitted (R274), gangs placed, REGCLAIM requests and other orders given out. -/
  admitted : Nat
  orders : Nat
  /-- The launch context popped last, of each PRIO, for the round robin (R261). -/
  lastPop : Map Nat
  rasters : Map Raster
  /-- The world bits of neighbour-list engines and ports, regions (R377, R378): secure or not. -/
  nlSecure : List Bool
  portSecure : List Bool
  regionSecure : List Bool
  nl : List NlCmd
  qps : Map Qp
  sent : List Packet
  framedeadline : Dword
  /-- The delivery record's physical address (R385); the frames awaiting acknowledgement, oldest first: their record and
  number (R386). -/
  framecfg : Option Nat
  frameOut : List (Nat × Dword)
  /-- What the flash holds, where that is not what the module comes with. -/
  flash : Option Flash
  /-- Refused runtime images that the monitor has reported over the management link (R388). -/
  reports : Nat
  boot : BootStage
  /-- Firmware limits the clock (R375). -/
  limited : Bool
  /-- Units of scratch windows that engines' steps still to come have written already (R152): the step's operation, gang,
  offset / 4. -/
  early : List (List Nat × Nat × Nat)
  /-- Units that engines' steps still to come have read already (R150): the step's operation, the unit's place as a turn
  gives it, and its bytes. -/
  peeks : List (List Nat × Option Nat × Nat × List Byte)
  /-- What engines' operations have read that have written units already: all that they read (R189, R191). -/
  snaps : List (List Nat × View)
  /-- What the engine's step under way reads, where that is not what stands there now. -/
  view : Option View
  /-- What TRAV of the suspended queries' records means to the ray units (R322). -/
  travs : List Trav
  /-- The model's own: what moves next, oldest first (log 2). -/
  turns : List Turn
  /-- The model's own: the alternation of default turns (log 2). -/
  alt : Bool
  /-- The model's own: the count that numbers free values (log 4). -/
  free : Nat
  /-- The model's own: the issuing context (log 2). -/
  focus : Option Focus
  /-- The model's own: the subject of the step under way (log 2). -/
  nums : List Nat
  bytes : List Byte
  deriving DecidableEq, Repr

/-- Why the machine stops with a fault. -/
inductive Fault where
  /-- An instruction of a split is executed although no split or handler context issues it. No step does this: a
  step sets the issuing context before it runs an instruction. Safe. -/
  | noContext
  deriving DecidableEq, Repr

/-- Why the model gives an instruction no meaning. -/
inductive Refusal where
  /-- The instruction's meaning is not written. Safe. -/
  | notModelled (mnemonic : String)
  deriving DecidableEq, Repr

/-- The module right after reset (R285, R376, R387): no wave, the boot ROM not yet run. -/
def State.reset : State :=
  { clk := 0, mem := [], waves := [], gangs := [], mx := [], clusters := [], ports := [], lastIssue := [],
    tlbs := [], merges := [], faults := [], badSectors := [], badScratch := [], badAcc := [], clauses := [], bindings := [], ctxs := [], tasks := [],
    admitted := 0, orders := 0, lastPop := [], rasters := [], nlSecure := List.replicate 8 true,
    portSecure := List.replicate 8 true, regionSecure := List.replicate 32 true, nl := [], qps := [], sent := [],
    framedeadline := 0, framecfg := none, frameOut := [],
    flash := none, reports := 0, boot := .rom, limited := false, early := [], peeks := [], snaps := [], view := none, travs := [], turns := [],
    alt := false, free := 0, focus := none, nums := [], bytes := [] }

end Sys2Proof.Machine
end

