-- ==== Sys2Proof/Machine/Access.lean ====
section
/-! DEFINITION. The named accessors of State: waves, registers with results on their way (R41, R42), physical memory
and shared copies (R141), translation (R294 to R296) and merge entries. -/

namespace Sys2Proof.Machine

/-! ### Parts of the state by number -/

/-- Wave `w`. -/
def State.wave (s : State) (w : Nat) : Wave := mapGet Wave.none s.waves w

/-- The state with wave `w` replaced. -/
def State.setWave (s : State) (w : Nat) (x : Wave) : State :=
  { s with waves := mapSet Wave.none s.waves w x }

/-- The state with wave `w` changed by `f`. -/
def State.modWave (s : State) (w : Nat) (f : Wave → Wave) : State := s.setWave w (f (s.wave w))

/-- Gang `g`. -/
def State.gang (s : State) (g : Nat) : Gang := mapGet Gang.none s.gangs g

/-- The state with gang `g` changed by `f`. -/
def State.modGang (s : State) (g : Nat) (f : Gang → Gang) : State :=
  { s with gangs := mapSet Gang.none s.gangs g (f (s.gang g)) }

/-- What the matrix engine keeps for gang `g` (R203). -/
def State.gangMx (s : State) (g : Nat) : GangMx := mapGet GangMx.empty s.mx g

/-- The state with the matrix engine's record of gang `g` changed by `f`. -/
def State.modMx (s : State) (g : Nat) (f : GangMx → GangMx) : State :=
  { s with mx := mapSet GangMx.empty s.mx g (f (s.gangMx g)) }

/-- Cluster `c`. -/
def State.cluster (s : State) (c : Nat) : Cluster := mapGet Cluster.reset s.clusters c

/-- The state with cluster `c` changed by `f`. -/
def State.modCluster (s : State) (c : Nat) (f : Cluster → Cluster) : State :=
  { s with clusters := mapSet Cluster.reset s.clusters c (f (s.cluster c)) }

/-- The raster engine of a section. -/
def State.raster (s : State) (n : Nat) : Raster := mapGet Raster.reset s.rasters n

/-- The state with the raster engine of section `n` changed by `f`. -/
def State.modRaster (s : State) (n : Nat) (f : Raster → Raster) : State :=
  { s with rasters := mapSet Raster.reset s.rasters n (f (s.raster n)) }

/-- Entry `t` of the dependence table (R267). -/
def State.task (s : State) (t : Nat) : Task := mapGet Task.empty s.tasks t

/-- The state with entry `t` of the dependence table changed by `f`. -/
def State.modTask (s : State) (t : Nat) (f : Task → Task) : State :=
  { s with tasks := mapSet Task.empty s.tasks t (f (s.task t)) }

/-- Clause entry `e` (slice × 64 + entry, R159). -/
def State.clause (s : State) (e : Nat) : Clause := mapGet Clause.empty s.clauses e

/-- The state with clause entry `e` replaced. -/
def State.setClause (s : State) (e : Nat) (c : Clause) : State :=
  { s with clauses := mapSet Clause.empty s.clauses e c }

/-- Queue pair `q` (R380). -/
def State.qp (s : State) (q : Nat) : Qp := mapGet Qp.none s.qps q

/-- The state with queue pair `q` changed by `f`. -/
def State.modQp (s : State) (q : Nat) (f : Qp → Qp) : State :=
  { s with qps := mapSet Qp.none s.qps q (f (s.qp q)) }

/-- Number `i` of the subject of the step under way. -/
def State.arg (s : State) (i : Nat) : Nat := s.nums.getD i 0

/-- Split record or handler context `k` of a wave. -/
def Wave.split (x : Wave) (k : Nat) : Split := x.splits.getD k Split.free

/-- The wave with split record `k` changed by `f`. -/
def Wave.modSplit (x : Wave) (k : Nat) (f : Split → Split) : Wave :=
  { x with splits := x.splits.set k (f (x.split k)) }

/-- The state with split record `k` of wave `w` changed by `f`. -/
def State.modSplit (s : State) (w k : Nat) (f : Split → Split) : State :=
  s.modWave w (fun x => x.modSplit k f)

/-- The wave with split record `k` changed by `f`, in the checkpoint of a run-ahead too: what rollback does not undo (R300). -/
def Wave.modSplitKept (x : Wave) (k : Nat) (f : Split → Split) : Wave :=
  { x.modSplit k f with ra := x.ra.map (fun r =>
      { r with cp := { r.cp with splits := r.cp.splits.set k (f (r.cp.splits.getD k Split.free)) } }) }

/-- The numbers of the waves there are. -/
def State.waveIds (s : State) : List Nat := mapKeys s.waves

/-- The section of a cluster (R11). -/
def sectionOf (c : Nat) : Nat := c / 8

/-! ### Free values (log 4) -/

/-- The `i`-th free value of this step. -/
def State.freeVal (s : State) (i : Nat) : Dword := Config.free s.free i

/-- The `i`-th free bit of this step. -/
def State.freeBit (s : State) (i : Nat) : Bool := (s.freeVal i).getLsbD 0

/-! ### Bytes -/

/-- The little-endian number of bytes (R1). -/
def leNat : List Byte → Nat
  | [] => 0
  | b :: r => b.toNat + 256 * leNat r

/-- The `n` little-endian bytes of a number (R1). -/
def leBytes : Nat → Nat → List Byte
  | 0, _ => []
  | n + 1, x => BitVec.ofNat 8 x :: leBytes n (x / 256)

/-! ### Registers -/

/-- Whether a producer's register and lane are these. -/
def Producer.covers (p : Producer) (r : Reg) (lane : Nat) : Bool := p.reg = r && p.lanes.getLsbD lane

/-- A number for a register, to number free values. -/
def regIndex : Reg → Nat
  | .s n => n
  | .v n => 128 + n
  | .p n => 256 + n
  | .exec k => 264 + k
  | .h n => 272 + n
  | .mode => 288
  | .k n => 296 + n
  | .splits => 304

/-- What a reader at this clk finds of a register element (R42): the value, or, for each producer whose result is not
readable yet, newest first, either that result or what stood before it. -/
def earlyVal (s : State) (r : Reg) (lane i : Nat) (old : Producer → Dword) : List Producer → Dword → Dword
  | [], cur => cur
  | p :: rest, cur =>
    if p.covers r lane then
      if p.ready ≤ s.clk then cur
      else if s.freeBit (1024 + 128 * (64 * regIndex r + lane) + i) then earlyVal s r lane (i + 1) old rest (old p)
      else cur
    else earlyVal s r lane (i + 1) old rest cur

/-- The same for each bit of a mask register (R42, R113): a producer settles the bits it wrote. -/
def earlyMask (s : State) (r : Reg) (i : Nat) : List Producer → Mask → Mask
  | [], cur => cur
  | p :: rest, cur =>
    if p.reg = r then
      let older := earlyMask s r (i + 1) rest ((cur &&& ~~~ p.lanes) ||| (p.oldVal &&& p.lanes))
      let keep := if p.ready ≤ s.clk then p.lanes
        else p.lanes &&& ~~~ (s.freeVal (1024 + 128 * (64 * regIndex r) + i))
      (cur &&& keep) ||| (older &&& ~~~ keep)
    else earlyMask s r (i + 1) rest cur

/-- Scalar register `n` as an instruction issuing now reads it. -/
def State.readS (s : State) (w n : Nat) : Word :=
  (earlyVal s (.s n) 0 0 (fun p => p.oldVal) (s.wave w).board ((mapGet 0 (s.wave w).s n).setWidth 64)).lo

/-- Lane `L` of vector register `n` as an instruction issuing now reads it. -/
def State.readV (s : State) (w n L : Nat) : Word :=
  (earlyVal s (.v n) L 0 (fun p => (mapGet 0 p.old L).setWidth 64) (s.wave w).board
    ((mapGet 0 (s.wave w).v (64 * n + L)).setWidth 64)).lo

/-- Predicate register `n` as an instruction issuing now reads it. -/
def State.readP (s : State) (w n : Nat) : Mask :=
  earlyMask s (.p n) 0 (s.wave w).board (mapGet 0 (s.wave w).p n)

/-- The EXEC of split or context `k` as an instruction issuing now reads it. -/
def State.readExec (s : State) (w k : Nat) : Mask :=
  earlyMask s (.exec k) 0 (s.wave w).board ((s.wave w).split k).exec

/-- MODE as an instruction issuing now reads it. -/
def State.readMode (s : State) (w : Nat) : Word :=
  (earlyVal s .mode 0 0 (fun p => p.oldVal) (s.wave w).board ((s.wave w).mode.setWidth 64)).lo

/-- Handle register `n`. -/
def State.readH (s : State) (w n : Nat) : Dword := mapGet 0 (s.wave w).h n

/-- Token `n`. -/
def State.readK (s : State) (w n : Nat) : Token := mapGet Token.idle (s.wave w).k n

/-- The wave with token `n` changed by `f`. -/
def Wave.modToken (x : Wave) (n : Nat) (f : Token → Token) : Wave :=
  { x with k := mapSet Token.idle x.k n (f (mapGet Token.idle x.k n)) }

/-- The producers still to be kept: the oldest whose results are readable are dropped. -/
def pruneBoard (clk : Nat) (b : List Producer) : List Producer :=
  (b.reverse.dropWhile (fun p => decide (p.ready ≤ clk))).reverse

/-- The lanes that a list of masks by register holds for a register. -/
def maskAt (ps : List (Reg × Mask)) (r : Reg) : Mask := ps.foldl (fun m e => if e.1 = r then m ||| e.2 else m) 0

/-- A list of masks by register, with some lanes of one register given anew. -/
def setMask (ps : List (Reg × Mask)) (r : Reg) (lanes p : Mask) : List (Reg × Mask) :=
  let m := (maskAt ps r &&& ~~~ lanes) ||| (p &&& lanes)
  let rest := ps.filter (fun e => e.1 ≠ r)
  if m = 0 then rest else (r, m) :: rest

/-- A later instruction has written lanes of a register: operations before it that are still to write them do not
(R42, R131). -/
def killLanes (ahead : Bool) (r : Reg) (lanes : Mask) (fs : List Flight) : List Flight :=
  fs.map (fun a =>
    if a.dests.contains r then
      if ahead then { a with raKilled := setMask a.raKilled r lanes lanes }
      else { a with killed := setMask a.killed r lanes lanes }
    else a)

/-- A write of lanes of a register ends their errors (R301). -/
def dropBad (r : Reg) (lanes : Mask) (bs : List (Reg × Mask)) : List (Reg × Mask) :=
  (bs.map (fun e => if e.1 = r then (e.1, e.2 &&& ~~~ lanes) else e)).filter (fun e => e.2 ≠ 0)

/-- Records a result of latency `lat` issued at this clk by split `k`. A result readable at the next clk is recorded
only where an older result to the register is still on its way, which it ends (R41, R42). -/
def State.produce (s : State) (w k lat : Nat) (r : Reg) (lanes : Mask) (old : Map Word) (oldVal : Dword) : State :=
  s.modWave w (fun x =>
    let b := pruneBoard s.clk x.board
    { x with
      board := if 1 < lat || b.any (fun p => p.reg = r) then
          { reg := r, split := k, ready := s.clk + lat, lanes, old, oldVal } :: b
        else b,
      badRegs := dropBad r lanes x.badRegs })

/-- Writes scalar register `n` with latency `lat`. -/
def State.writeS (s : State) (w k lat n : Nat) (x : Word) : State :=
  (s.produce w k lat (.s n) (BitVec.allOnes 64) [] ((mapGet 0 (s.wave w).s n).setWidth 64)).modWave w
    (fun y => { y with s := mapSet 0 y.s n x,
                       flight := killLanes y.ra.isSome (.s n) (BitVec.allOnes 64) y.flight })

/-- Writes the lanes `m` of vector register `n` with latency `lat`. -/
def State.writeV (s : State) (w k lat n : Nat) (m : Mask) (f : Nat → Word) : State :=
  (s.produce w k lat (.v n) m
    (if 1 < lat then (Mask.lanes m).map (fun L => (L, mapGet 0 (s.wave w).v (64 * n + L))) else []) 0).modWave w
    (fun y => { y with v := (Mask.lanes m).foldl (fun v L => mapSet 0 v (64 * n + L) (f L)) y.v,
                       flight := killLanes y.ra.isSome (.v n) m y.flight })

/-- Writes the bits `bits` of predicate register `n` with latency `lat`. -/
def State.writePBits (s : State) (w k lat n : Nat) (bits m : Mask) : State :=
  (s.produce w k lat (.p n) bits [] (mapGet 0 (s.wave w).p n)).modWave w
    (fun y => { y with p := mapSet 0 y.p n ((mapGet 0 y.p n &&& ~~~ bits) ||| (m &&& bits)) })

/-- Writes predicate register `n` with latency `lat`. -/
def State.writeP (s : State) (w k lat n : Nat) (m : Mask) : State :=
  (s.produce w k lat (.p n) (BitVec.allOnes 64) [] (mapGet 0 (s.wave w).p n)).modWave w
    (fun y => { y with p := mapSet 0 y.p n m })

/-- Writes handle register `n` (latency 1, R157). -/
def State.writeH (s : State) (w n : Nat) (h : Dword) : State :=
  s.modWave w (fun y => { y with h := mapSet 0 y.h n h, badRegs := dropBad (.h n) (BitVec.allOnes 64) y.badRegs })

/-- Writes MODE with latency `lat` (R38 is checked by the writer). -/
def State.writeMode (s : State) (w k lat : Nat) (m : Word) : State :=
  (s.produce w k lat .mode (BitVec.allOnes 64) [] ((s.wave w).mode.setWidth 64)).modWave w (fun y => { y with mode := m })

/-- Path counter `i` (R130). -/
def Wave.counter (x : Wave) (i : Nat) : Nat := mapGet 0 x.counters i

/-- The wave with path counter `i` set. -/
def Wave.setCounter (x : Wave) (i n : Nat) : Wave := { x with counters := mapSet 0 x.counters i n }

/-- An operation issues on path `i`: its counter rises (R130), and the operations of the path that have failed have one more
behind them (R132). -/
def Wave.raiseCounter (x : Wave) (i : Nat) : Wave :=
  { x.setCounter i (x.counter i + 1) with
    uncs := x.uncs.map (fun u =>
      if u.path ≠ i then u else if x.ra.isSome then { u with ahead := u.ahead + 1 } else { u with later := u.later + 1 }) }

/-- Command `seq` issues on CPY. -/
def Wave.raiseCpy (x : Wave) (seq : Nat) : Wave := { x.raiseCounter 6 with cpys := x.cpys ++ [(seq, false)] }

/-- The commands on CPY after some of them are accepted, or given up: the counter falls by those that have no earlier one
before them that is not (R130). -/
def Wave.settleCpys (x : Wave) (cs : List (Nat × Bool)) : Wave :=
  let rest := cs.dropWhile Prod.snd
  { x.setCounter 6 (x.counter 6 - (x.cpys.length - rest.length)) with cpys := rest }

/-- Command `seq` on CPY is accepted (R186). -/
def Wave.acceptCpy (x : Wave) (seq : Nat) : Wave :=
  x.settleCpys (x.cpys.map (fun c => if c.1 = seq then (seq, true) else c))

/-- Commands on CPY are given up. -/
def Wave.dropCpys (x : Wave) (seqs : List Nat) : Wave := x.settleCpys (x.cpys.filter (fun c => !(seqs.contains c.1)))

/-! ### Physical memory and shared copies -/

/-- The byte of physical memory at `pa`; a byte that nothing has written reads 0 (log 3). -/
def State.readByte (s : State) (pa : Nat) : Byte := mapGet 0 s.mem pa

/-- `n` bytes of physical memory from `pa`. -/
def State.readBytes (s : State) (pa n : Nat) : List Byte :=
  (List.range n).map (fun i => s.readByte (pa + i))

/-- `n` bytes of physical memory as a number. -/
def State.readNat (s : State) (pa n : Nat) : Nat := leNat (s.readBytes pa n)

/-- Memory with bytes written from `pa`. -/
def memPut (m : List Host.Cell) : Nat → List Byte → List Host.Cell
  | _, [] => m
  | pa, b :: r => memPut (mapSet 0 m pa b) (pa + 1) r

/-- Physical memory is in its canonical form: rising addresses, no entry equal to what an unlisted byte reads as. -/
def Memory.wf (m : List Host.Cell) : Bool := mapWf 0 m

/-- Sectors wholly covered by a write of `n` bytes at `pa` lose their uncorrectable mark (R301). -/
def clearMarks (bad : List Nat) (pa n : Nat) : List Nat :=
  bad.filter (fun q => !(decide (pa ≤ 64 * q) && decide (64 * q + 64 ≤ pa + n)))

/-- Writes bytes to physical memory, as memory and not as an agent of a cluster. -/
def State.writeMem (s : State) (pa : Nat) (bs : List Byte) : State :=
  { s with mem := memPut s.mem pa bs, badSectors := clearMarks s.badSectors pa bs.length }

/-- A line of 128 bytes with bytes replaced from offset `o`. -/
def patchLine (line : List Byte) (o : Nat) (bs : List Byte) : List Byte :=
  line.take o ++ bs ++ line.drop (o + bs.length)

/-- A write by an agent of cluster `c`: it stands in memory, and in that cluster's own copy of the line (R141). The
copies of other clusters stay as they are. -/
def State.writeBy (s : State) (c pa : Nat) (bs : List Byte) : State :=
  let s := s.writeMem pa bs
  match mapGet [] (s.cluster c).copies (pa / 128) with
  | [] => s
  | line =>
    let line' := (patchLine line (pa % 128) bs).take 128
    s.modCluster c (fun x => { x with copies := mapSet [] x.copies (pa / 128) line' })

/-- Places cut at the ends of lines. -/
def cutLines (ps : List (Nat × Nat)) : List (Nat × Nat) :=
  ps.flatMap (fun p => (List.range (p.2 / 128 + 2)).filterMap (fun i =>
    let lo := max p.1 (128 * (p.1 / 128 + i))
    let hi := min (p.1 + p.2) (128 * (p.1 / 128 + i + 1))
    if lo < hi then some (lo, hi - lo) else none))

/-- Bytes written by an agent of cluster `c` in places that each lie in one line. -/
def State.writeLines (s : State) (c : Nat) : List (Nat × Nat) → List Byte → State
  | [], _ => s
  | p :: r, bs => (s.writeBy c p.1 (bs.take p.2)).writeLines c r (bs.drop p.2)

/-- Bytes written by an agent of cluster `c` in some places. -/
def State.writeSpan (s : State) (c : Nat) (ps : List (Nat × Nat)) (bs : List Byte) : State := s.writeLines c (cutLines ps) bs

/-- The bytes of some places. -/
def State.readSpan (s : State) (ps : List (Nat × Nat)) : List Byte := ps.flatMap (fun p => s.readBytes p.1 p.2)

/-- A read by a thread of cluster `c` within one line: its cluster's shared copy, if there is one, or memory (R141). -/
def State.readBy (s : State) (c pa n : Nat) : List Byte :=
  match mapGet [] (s.cluster c).copies (pa / 128) with
  | [] => s.readBytes pa n
  | line => (line.drop (pa % 128)).take n

/-- The CACHE bank that a cluster keeps a line in: which, the device has settled (log 21). -/
def Cluster.lineBank (cl : Cluster) (line : Nat) : Nat :=
  let cs := (List.range cl.banks.length).filter (fun i => cl.banks.getD i 1 = 0)
  cs.getD ((Config.free 0 (2 ^ 100 + line)).toNat % max 1 cs.length) 0

/-- Discards cluster `c`'s shared copies of lines for which `f` holds. -/
def State.dropCopies (s : State) (c : Nat) (f : Nat → Bool) : State :=
  if (s.cluster c).copies.isEmpty then s
  else s.modCluster c (fun x => { x with copies := x.copies.filter (fun e => !(f e.1)) })

/-- A sector of a range is marked uncorrectable (R301). -/
def State.badAt (s : State) (pa n : Nat) : Bool :=
  s.badSectors.any (fun q => decide (64 * q < pa + n) && decide (pa < 64 * q + 64))

/-- The state as the engine's step under way finds it where it reads: what its operation has read before stands there. -/
def State.asRead (s : State) : State :=
  match s.view with
  | none => s
  | some v => { s with mem := v.mem, badSectors := v.badSectors, badScratch := v.badScratch,
                       gangs := v.scratch.foldl (fun m e =>
                         mapSet Gang.none m e.1 { mapGet Gang.none m e.1 with scratch := e.2 }) s.gangs }

/-- The home slice of a physical address (R125). -/
def homeSlice (pa : Nat) : Nat :=
  let f := fun lo => pa / 2 ^ lo % 64
  Nat.xor (Nat.xor (Nat.xor (f 7) (f 13)) (Nat.xor (f 19) (f 25))) (Nat.xor (f 31) (pa / 2 ^ 37 % 2))

/-! ### Translation -/

/-- The address space, world and TLBs that an access is made in. -/
structure Space where
  asid : Nat
  ttbase : Dword
  secure : Bool
  /-- The TLBs asked in turn. -/
  tlbs : List Nat
  deriving DecidableEq, Repr

/-- What translating an address finds (R294). -/
inductive Xlat where
  /-- The physical address and the entry's fields. -/
  | ok (pa : Nat) (pte : Dword)
  /-- A translation fault of a page that is not valid. -/
  | miss
  /-- A translation fault of a bad entry or an uncorrectable walk: record KIND 3. -/
  | bad
  deriving DecidableEq, Repr

/-- An address is canonical: bits 63:55 all equal bit 54 (R124). -/
def canonical (va : Dword) : Bool :=
  va.extractLsb' 55 9 = (if va.getLsbD 54 then 0x1FF#9 else 0#9)

/-- VA[54:16], the page number that merge entries and TLB entries are keyed by (R296). -/
def pageOf (va : Dword) : Nat := (va.extractLsb' 16 39).toNat

/-- The address VA[54:16] << 16 of a page, sign-extended. -/
def pageVa (page : Nat) : Dword := ((BitVec.ofNat 39 page ++ 0#16).signExtend 64)

/-- The physical address in an entry: bits 37:16 (R295). -/
def ptePa (e : Dword) : Nat := (e.extractLsb' 16 22).toNat * 65536

/-- An entry's RZ bits are zero (R295). -/
def pteClean (e : Dword) : Bool :=
  e.extractLsb' 38 26 = 0 && e.extractLsb' 12 4 = 0 && !(e.getLsbD 5) && !(e.getLsbD 1)

/-- The entry that translates `va` where the addressed one stands at `a`, among `n` aligned entries: the addressed one,
but any of them where some valid member makes them a group and they differ (R295). Each address of each group takes a pick
of its own. -/
def groupEntry (s : State) (va : Dword) (a n : Nat) : Nat :=
  let base := a / (8 * n) * (8 * n)
  let near := { s with mem := s.mem.filter (fun c => decide (base ≤ c.1) && decide (c.1 < base + 8 * n)) }
  let all := (List.range n).map (fun i => BitVec.ofNat 64 (near.readNat (base + 8 * i) 8))
  if all.all (fun x => x = all.headD 0) || !(all.any (fun x => x.getLsbD 0 && x.getLsbD 7)) then a
  else base + 8 * ((s.freeVal (2 ^ 100 + a * 2 ^ 40 + pageOf va)).toNat % n)

/-- What a walk of the tables finds (R294): a page's physical address, its entry and its size in 64 KiB units. -/
inductive Walk where
  | page (pa : Nat) (pte : Dword) (units : Nat)
  | miss
  | bad
  deriving DecidableEq, Repr

/-- The three-level walk (R294). -/
def walk (s : State) (ttbase va : Dword) : Walk :=
  let a1 := (ttbase.extractLsb' 16 22).toNat * 65536 + 8 * (va.extractLsb' 42 13).toNat
  let e1 := BitVec.ofNat 64 (s.readNat a1 8)
  if s.badAt a1 8 then .bad
  else if !(e1.getLsbD 0) then .miss
  else if !(pteClean e1) || e1.getLsbD 7 then .bad
  else
    let a2 := groupEntry s va (ptePa e1 + 8 * (va.extractLsb' 29 13).toNat) 2
    let e2 := BitVec.ofNat 64 (s.readNat a2 8)
    if s.badAt a2 8 then .bad
    else if !(e2.getLsbD 0) then .miss
    else if !(pteClean e2) then .bad
    else if e2.getLsbD 7 then
      if ptePa e2 % 2 ^ 30 ≠ 0 then .bad else .page (ptePa e2) e2 (2 ^ 14)
    else
      let a3 := groupEntry s va (ptePa e2 + 8 * (va.extractLsb' 16 13).toNat) 32
      let e3 := BitVec.ofNat 64 (s.readNat a3 8)
      if s.badAt a3 8 then .bad
      else if !(e3.getLsbD 0) then .miss
      else if !(pteClean e3) then .bad
      else if e3.getLsbD 7 then
        if ptePa e3 % 2 ^ 21 ≠ 0 then .bad else .page (ptePa e3) e3 32
      else .page (ptePa e3) e3 1

/-- Whether a TLB entry translates an address (R296). -/
def TlbEntry.hit (t : TlbEntry) (asid : Nat) (va : Dword) : Bool :=
  (t.pte.getLsbD 8 || t.asid = asid) && decide (t.page ≤ pageOf va) && decide (pageOf va < t.page + t.units)

/-- The first TLB entry that translates an address. -/
def findTlb (s : State) (sp : Space) (va : Dword) : Option TlbEntry :=
  (sp.tlbs.flatMap (fun u => mapGet [] s.tlbs u)).find? (fun t => t.hit sp.asid va)

/-- Translates a canonical address (R294): a TLB entry where there is one, else the tables. -/
def translate (s : State) (sp : Space) (va : Dword) : Xlat :=
  match findTlb s sp va with
  | some t => .ok (ptePa t.pte + 65536 * (pageOf va - t.page) + (va.extractLsb' 0 16).toNat) t.pte
  | none =>
    match walk s sp.ttbase va with
    | .bad => .bad
    | .miss => .miss
    | .page pa e units => .ok (pa + va.toNat % (65536 * units)) e

/-- The kinds of access that permissions distinguish (R128, R294). -/
inductive Access where
  | read | write | readWrite | fetch
  deriving DecidableEq, Repr

/-- The page and the region permit the access (R294, R378). -/
def permitted (s : State) (sp : Space) (acc : Access) (pa : Nat) (pte : Dword) : Bool :=
  (match acc with
    | .read => pte.getLsbD 2
    | .write => pte.getLsbD 3
    | .readWrite => pte.getLsbD 2 && pte.getLsbD 3
    | .fetch => pte.getLsbD 4) &&
  (sp.secure || (!(pte.getLsbD 6) && !(s.regionSecure.getD (pa / 2 ^ 33 % 32) true)))

/-- The ACCESS bits of a fault record (R297). -/
def accessBits : Access → Nat
  | .read => 1 | .write => 2 | .readWrite => 3 | .fetch => 4

/-- The space of a wave (R274, R378). -/
def State.space (s : State) (w : Nat) : Space :=
  let x := s.wave w
  { asid := x.csr.asid, ttbase := x.csr.ttbase, secure := x.csr.world = 1,
    tlbs := [4 * x.cluster + x.core, 256 + x.cluster, 320 + sectionOf x.cluster] }

/-- The space of an engine of cluster `c`. -/
def engineSpace (c asid : Nat) (ttbase : Dword) (world : Nat) : Space :=
  { asid, ttbase, secure := world = 1, tlbs := [256 + c, 320 + sectionOf c] }

/-- A merge entry for a page stands in a section's merge table (R296). -/
def State.hasMerge (s : State) (sec asid page : Nat) : Bool :=
  s.merges.any (fun m => m.sec = sec && m.asid = asid && m.page = page)

/-- A section's merge table is full (R296). -/
def State.mergeFull (s : State) (sec : Nat) : Bool :=
  decide (128 ≤ (s.merges.filter (fun m => m.sec = sec)).length)

/-- A translation fault at a section: an absent key creates an entry and its record is sent; a present key sends none;
while the table is full nothing is created (R296). -/
def State.mergeFault (s : State) (sec asid page : Nat) (rec : FaultRec) : State :=
  if s.hasMerge sec asid page || s.mergeFull sec then s
  else { s with merges := s.merges ++ [{ sec, asid, page }], faults := s.faults ++ [rec] }

/-- A fault record sent without a merge entry (R297). -/
def State.sendFault (s : State) (rec : FaultRec) : State := { s with faults := s.faults ++ [rec] }

/-- A record of one page for a requester other than a wave (R297, KIND 2), or of a bad entry (KIND 3). -/
def engineRec (kind req : Nat) (acc : Access) (asid cluster world : Nat) (launchid : Word) (va : Dword) : FaultRec :=
  { kind, req, access := accessBits acc, asid, cluster, world, launchid, cause := 0, va, scope := 0xFF,
    pages := [pageOf va] }

/-- The 192 bytes of a fault record, as it goes to the fault ring of runtime firmware (R297). -/
def FaultRec.bytes (r : FaultRec) : List Byte :=
  leBytes 1 r.kind ++ leBytes 1 r.pages.length ++ leBytes 1 r.req ++ leBytes 1 r.access ++ leBytes 2 r.asid ++
    leBytes 1 r.cluster ++ leBytes 1 r.world ++ leBytes 4 r.launchid.toNat ++ leBytes 4 r.cause ++ leBytes 8 r.va.toNat ++
    leBytes 1 r.scope ++ List.replicate 39 0 ++
    (List.range 16).flatMap (fun i => leBytes 8 (if i < r.pages.length then 65536 * r.pages.getD i 0 else 0))

/-- Physical bytes read by an engine at the home slice (R150). -/
def State.homeRead (s : State) (pa n : Nat) : List Byte := s.readBytes pa n

end Sys2Proof.Machine
end

