-- ==== Sys2Proof/Machine/Float.lean ====
section
/-! DEFINITION. Number formats and arithmetic (R59 to R72): exact values, one rounding, and the flags. -/

namespace Sys2Proof.Machine

/-! ### Formats -/

/-- A floating-point format (R61): exponent bits, fraction bits, and whether it is E4M3, which has no infinity. -/
structure Fmt where
  ew : Nat
  fw : Nat
  e4m3 : Bool
  deriving DecidableEq, Repr

def fmtF64 : Fmt := { ew := 11, fw := 52, e4m3 := false }
def fmtF32 : Fmt := { ew := 8, fw := 23, e4m3 := false }
def fmtF16 : Fmt := { ew := 5, fw := 10, e4m3 := false }
def fmtBF16 : Fmt := { ew := 8, fw := 7, e4m3 := false }
def fmtE4M3 : Fmt := { ew := 4, fw := 3, e4m3 := true }
def fmtE5M2 : Fmt := { ew := 5, fw := 2, e4m3 := false }

/-- The bias of a format (R61). -/
def Fmt.bias (f : Fmt) : Nat := 2 ^ (f.ew - 1) - 1

/-- The exponent of the smallest normal (R61). -/
def Fmt.emin (f : Fmt) : Int := 1 - (f.bias : Int)

/-- The sign bit's weight. -/
def Fmt.signBit (f : Fmt) : Nat := 2 ^ (f.ew + f.fw)

/-- The image of +∞; E4M3 has none. -/
def Fmt.infImg (f : Fmt) : Nat := (2 ^ f.ew - 1) * 2 ^ f.fw

/-- The image of the largest finite value (R61). -/
def Fmt.maxImg (f : Fmt) : Nat := if f.e4m3 then 0x7E else f.infImg - 1

/-- The canonical NaN (R61). -/
def Fmt.nanImg (f : Fmt) : Nat := if f.e4m3 then 0x7F else f.infImg + 2 ^ (f.fw - 1)

/-- Whether FTZ applies to the format (R66). -/
def Fmt.flushes (f : Fmt) : Bool := f = fmtF32 || f = fmtF16 || f = fmtBF16

/-- What an image means: a NaN, an infinity, or the number (−1)^neg × m × 2^e. -/
inductive Num where
  | nan (signalling : Bool)
  | inf (neg : Bool)
  | fin (neg : Bool) (m : Nat) (e : Int)
  deriving DecidableEq, Repr

/-- The meaning of an image (R61). -/
def decodeNum (f : Fmt) (x : Nat) : Num :=
  let neg := decide (f.signBit ≤ x % (2 * f.signBit))
  let ex := x / 2 ^ f.fw % 2 ^ f.ew
  let fr := x % 2 ^ f.fw
  if f.e4m3 then
    if ex = 15 ∧ fr = 7 then .nan false
    else if ex = 0 then .fin neg fr (f.emin - 3)
    else .fin neg (8 + fr) ((ex : Int) - 7 - 3)
  else if ex = 2 ^ f.ew - 1 then
    if fr = 0 then .inf neg
    else .nan (f.fw > 2 && decide (fr < 2 ^ (f.fw - 1)))
  else if ex = 0 then .fin neg fr (f.emin - f.fw)
  else .fin neg (2 ^ f.fw + fr) ((ex : Int) - f.bias - f.fw)

/-- Whether an image is a denormal other than zero. -/
def isDenormal (f : Fmt) (x : Nat) : Bool :=
  decide (x / 2 ^ f.fw % 2 ^ f.ew = 0) && decide (x % 2 ^ f.fw ≠ 0)

/-! ### Flags (R68) -/

def flagIO : Nat := 1
def flagDZ : Nat := 2
def flagOF : Nat := 4
def flagUF : Nat := 8
def flagNX : Nat := 16
def flagDN : Nat := 32

/-- The union of flags. -/
def orFlags (a b : Nat) : Nat := a ||| b

/-! ### Rounding (R63 to R66) -/

/-- Rounding mode, saturation and flush-to-zero of an operation. -/
structure FEnv where
  rm : Nat
  sat : Bool
  ftz : Bool
  deriving DecidableEq, Repr

/-- RNE, no saturation, denormals kept: the units that read no MODE. -/
def envRNE : FEnv := { rm := 0, sat := false, ftz := false }

/-- Two to a power, where a negative power makes zero. -/
def pow2 (e : Int) : Nat := if e < 0 then 0 else 2 ^ e.toNat

/-- The greatest `E` with 2^E ≤ num / den, for num and den positive. -/
def ilog2 (num den : Nat) : Int :=
  let g : Int := (Nat.log2 num : Int) - Nat.log2 den
  let ge := if g < 0 then decide (den ≤ num * 2 ^ (-g).toNat) else decide (den * 2 ^ g.toNat ≤ num)
  if ge then g else g - 1

/-- num / den in units of 2^q: the floor, twice the remainder, and the divisor. -/
def scaled (num den : Nat) (q : Int) : Nat × Nat × Nat :=
  let n := if q < 0 then num * 2 ^ (-q).toNat else num
  let d := if q < 0 then den else den * 2 ^ q.toNat
  (n / d, 2 * (n % d), d)

/-- Whether a magnitude rounds away from its floor (R63): parity of the floor, twice the remainder, the divisor. -/
def roundsUp (rm : Nat) (neg : Bool) (n r2 d : Nat) : Bool :=
  if r2 = 0 then false
  else match rm with
    | 0 => decide (d < r2) || (r2 = d && n % 2 = 1)
    | 1 => false
    | 2 => !neg
    | _ => neg

/-- A magnitude rounded to a multiple of 2^q. -/
def roundAt (rm : Nat) (neg : Bool) (num den : Nat) (q : Int) : Nat × Bool :=
  let (n, r2, d) := scaled num den q
  (if roundsUp rm neg n r2 d then n + 1 else n, r2 ≠ 0)

/-- The image with a sign. -/
def withSign (f : Fmt) (neg : Bool) (x : Nat) : Nat := if neg then f.signBit + x else x

/-- The result of an overflow (R64). -/
def overflowImg (f : Fmt) (env : FEnv) (neg : Bool) : Nat :=
  if f.e4m3 || env.sat then withSign f neg f.maxImg
  else match env.rm with
    | 0 => withSign f neg f.infImg
    | 1 => withSign f neg f.maxImg
    | 2 => if neg then withSign f neg f.maxImg else f.infImg
    | _ => if neg then withSign f neg f.infImg else f.maxImg

/-- The image of n × 2^q for a magnitude already rounded to the format; an overflow is at or above the largest
exponent, or for E4M3 above 448. -/
def packImg (f : Fmt) (n : Nat) (q : Int) : Option Nat :=
  if n < 2 ^ f.fw then some n
  else
    let n' := if n = 2 ^ (f.fw + 1) then 2 ^ f.fw else n
    let q' := if n = 2 ^ (f.fw + 1) then q + 1 else q
    let ex : Int := q' + f.fw + f.bias
    let img := ex.toNat * 2 ^ f.fw + (n' - 2 ^ f.fw)
    if f.maxImg < img then none else some img

/-- Rounds the nonzero magnitude num / den with a sign to a format (R63, R64, R66): image and flags. -/
def roundNum (f : Fmt) (env : FEnv) (neg : Bool) (num den : Nat) : Nat × Nat :=
  let e := ilog2 num den
  let (nu, _) := roundAt env.rm neg num den (e - f.fw)
  let tiny := decide (e < f.emin) && !(e = f.emin - 1 && decide (nu = 2 ^ (f.fw + 1)))
  if env.ftz && f.flushes && tiny then (withSign f neg 0, flagUF + flagNX)
  else
    let q := max e f.emin - f.fw
    let (n, nx) := roundAt env.rm neg num den q
    match packImg f n q with
    | some img => (withSign f neg img, (if nx then flagNX else 0) + (if nx && tiny then flagUF else 0))
    | none => (overflowImg f env neg, flagOF + flagNX)

/-- The image of an infinite result (R65, and E4M3's rule of R70). -/
def infResult (f : Fmt) (env : FEnv) (neg : Bool) : Nat :=
  if f.e4m3 || env.sat then withSign f neg f.maxImg else withSign f neg f.infImg

/-- A value (−1)^neg × m × 2^e rounded to a format; a zero keeps its sign. -/
def roundFin (f : Fmt) (env : FEnv) (neg : Bool) (m : Nat) (e : Int) : Nat × Nat :=
  if m = 0 then (withSign f neg 0, 0)
  else if e < 0 then roundNum f env neg m (2 ^ (-e).toNat) else roundNum f env neg (m * 2 ^ e.toNat) 1

/-- An input under FTZ (R66): a denormal becomes a zero of its sign, and DN is raised. -/
def flushIn (f : Fmt) (env : FEnv) (x : Nat) : Nat × Nat :=
  if env.ftz && f.flushes && isDenormal f x then (x / f.signBit % 2 * f.signBit, flagDN) else (x, 0)

/-- An input's meaning under FTZ, and the flags of reading it: DN, and IO for a signalling NaN (R66, R67). -/
def readNum (f : Fmt) (env : FEnv) (x : Nat) : Num × Nat :=
  let (y, fl) := flushIn f env x
  let n := decodeNum f y
  (n, fl ||| (match n with | .nan true => flagIO | _ => 0))

/-! ### Sums, products, quotients, roots -/

/-- A signed magnitude in units of 2^q. -/
def inUnits (neg : Bool) (m : Nat) (e q : Int) : Int :=
  let x : Int := (m * 2 ^ (e - q).toNat : Nat)
  if neg then -x else x

/-- The exact sum of two finite values, rounded (R63); an exact zero takes its sign from R63. -/
def addFin (f : Fmt) (env : FEnv) (n1 : Bool) (m1 : Nat) (e1 : Int) (n2 : Bool) (m2 : Nat) (e2 : Int) : Nat × Nat :=
  let q := min e1 e2
  let x := inUnits n1 m1 e1 q + inUnits n2 m2 e2 q
  if x = 0 then
    if m1 = 0 ∧ m2 = 0 ∧ n1 = n2 then (withSign f n1 0, 0) else (withSign f (env.rm = 3) 0, 0)
  else roundFin f env (decide (x < 0)) x.natAbs q

/-- a × b + c of meanings, rounded once: image, and IO of an invalid operation (R67). -/
def fmaNum (f : Fmt) (env : FEnv) (a b c : Num) : Nat × Nat :=
  let invalid := match a, b with
    | .inf _, .fin _ m _ => decide (m = 0)
    | .fin _ m _, .inf _ => decide (m = 0)
    | _, _ => false
  if invalid then (f.nanImg, flagIO)
  else match a, b, c with
    | .nan _, _, _ => (f.nanImg, 0)
    | _, .nan _, _ => (f.nanImg, 0)
    | _, _, .nan _ => (f.nanImg, 0)
    | .fin na ma ea, .fin nb mb eb, .fin nc mc ec => addFin f env (na ^^ nb) (ma * mb) (ea + eb) nc mc ec
    | .fin _ _ _, .fin _ _ _, .inf nc => (infResult f env nc, 0)
    | x, y, z =>
      let sg := fun n => match n with | .inf s => s | .fin s _ _ => s | .nan _ => false
      let np := sg x ^^ sg y
      match z with
      | .inf nc => if nc = np then (infResult f env np, 0) else (f.nanImg, flagIO)
      | _ => (infResult f env np, 0)

/-- a × b of meanings, rounded once. -/
def mulNum (f : Fmt) (env : FEnv) (a b : Num) : Nat × Nat :=
  match a, b with
  | .nan _, _ => (f.nanImg, 0)
  | _, .nan _ => (f.nanImg, 0)
  | .fin na ma ea, .fin nb mb eb => roundFin f env (na ^^ nb) (ma * mb) (ea + eb)
  | .inf na, .inf nb => (infResult f env (na ^^ nb), 0)
  | .inf na, .fin nb m _ => if m = 0 then (f.nanImg, flagIO) else (infResult f env (na ^^ nb), 0)
  | .fin na m _, .inf nb => if m = 0 then (f.nanImg, flagIO) else (infResult f env (na ^^ nb), 0)

/-- The number 1. -/
def Num.one : Num := .fin false 1 0

/-- The negated meaning. -/
def Num.negate : Num → Num
  | .nan s => .nan s
  | .inf n => .inf (!n)
  | .fin n m e => .fin (!n) m e

/-- a / b of meanings, rounded once. A quotient by zero is an infinity, and 0/0 and ∞/∞ are NaN. -/
def divNum (f : Fmt) (env : FEnv) (a b : Num) : Nat × Nat :=
  match a, b with
  | .nan _, _ => (f.nanImg, 0)
  | _, .nan _ => (f.nanImg, 0)
  | .inf na, .fin nb _ _ => (infResult f env (na ^^ nb), 0)
  | .inf _, .inf _ => (f.nanImg, flagIO)
  | .fin na _ _, .inf nb => (withSign f (na ^^ nb) 0, 0)
  | .fin na ma ea, .fin nb mb eb =>
    if mb = 0 then
      if ma = 0 then (f.nanImg, flagIO) else (infResult f env (na ^^ nb), flagDZ)
    else if ma = 0 then (withSign f (na ^^ nb) 0, 0)
    else
      let d := ea - eb
      if d < 0 then roundNum f env (na ^^ nb) ma (mb * 2 ^ (-d).toNat)
      else roundNum f env (na ^^ nb) (ma * 2 ^ d.toNat) mb

/-- The integer square root of `m` from bit `n` down, above what is found so far. -/
def isqrtFrom (m : Nat) : Nat → Nat → Nat
  | 0, r => if (r + 1) * (r + 1) ≤ m then r + 1 else r
  | n + 1, r => let r' := r + 2 ^ (n + 1); isqrtFrom m n (if r' * r' ≤ m then r' else r)

/-- The integer square root. -/
def isqrt (m : Nat) : Nat := isqrtFrom m (Nat.log2 m / 2 + 1) 0

/-- The square root of the positive value m × 2^e in units of 2^-k for a `k` large enough: twice the floor, plus one
where it is inexact, and the exponent of those halves. -/
def sqrtBits (m : Nat) (e : Int) (prec : Nat) : Nat × Int :=
  let sh : Nat := 2 * prec + (if e % 2 = 0 then 0 else 1)
  let x := m * 2 ^ sh
  let r := isqrt x
  (2 * r + (if r * r = x then 0 else 1), (e - sh) / 2 - 1)

/-- The square root of a meaning, correctly rounded (R71, R72). -/
def sqrtNum (f : Fmt) (env : FEnv) (a : Num) : Nat × Nat :=
  match a with
  | .nan _ => (f.nanImg, 0)
  | .inf true => (f.nanImg, flagIO)
  | .inf false => (infResult f env false, 0)
  | .fin n m e =>
    if m = 0 then (withSign f n 0, 0)
    else if n then (f.nanImg, flagIO)
    else let (r, q) := sqrtBits m e (f.fw + 8); roundFin f env false r q

/-- Reads two inputs and applies an operation of meanings: image and the union of the flags. -/
def binOp (f : Fmt) (env : FEnv) (op : Num → Num → Nat × Nat) (x y : Nat) : Nat × Nat :=
  let (a, fa) := readNum f env x
  let (b, fb) := readNum f env y
  let (r, fl) := op a b
  (r, fa ||| fb ||| fl)

/-- x + y (R63). -/
def fAdd (f : Fmt) (env : FEnv) (x y : Nat) : Nat × Nat :=
  binOp f env (fun a b => fmaNum f env a Num.one b) x y

/-- x − y (R63). -/
def fSub (f : Fmt) (env : FEnv) (x y : Nat) : Nat × Nat :=
  binOp f env (fun a b => fmaNum f env a Num.one b.negate) x y

/-- x × y (R63). -/
def fMul (f : Fmt) (env : FEnv) (x y : Nat) : Nat × Nat := binOp f env (mulNum f env) x y

/-- x / y, for the units that divide. -/
def fDiv (f : Fmt) (env : FEnv) (x y : Nat) : Nat × Nat := binOp f env (divNum f env) x y

/-- x × y + z, rounded once, where `neg` negates the product (R63). -/
def fFma (f : Fmt) (env : FEnv) (neg : Bool) (x y z : Nat) : Nat × Nat :=
  let (a, fa) := readNum f env x
  let (b, fb) := readNum f env y
  let (c, fc) := readNum f env z
  let (r, fl) := fmaNum f env (if neg then a.negate else a) b c
  (r, fa ||| fb ||| fc ||| fl)

/-! ### Comparison -/

/-- The order of two meanings that are not NaN as exact values: −1, 0 or 1. -/
def cmpNum (a b : Num) : Int :=
  match a, b with
  | .inf na, .inf nb => if na = nb then 0 else if na then -1 else 1
  | .inf na, _ => if na then -1 else 1
  | _, .inf nb => if nb then 1 else -1
  | .fin na ma ea, .fin nb mb eb =>
    let q := min ea eb
    let x := inUnits na ma ea q
    let y := inUnits nb mb eb q
    if x < y then -1 else if x = y then 0 else 1
  | _, _ => 0

/-- The sign of a meaning that is not NaN. -/
def Num.neg : Num → Bool
  | .nan _ => false
  | .inf n => n
  | .fin n _ _ => n

/-- Whether a meaning is a NaN. -/
def Num.isNan : Num → Bool
  | .nan _ => true
  | _ => false

/-- a is less than b, where −0 is less than +0 (R75, R109). -/
def lessNum (a b : Num) : Bool :=
  decide (cmpNum a b < 0) || (cmpNum a b = 0 && a.neg && !b.neg)

/-- The lesser of two images (−0 less than +0); a NaN gives the other, and two the canonical NaN (R75). -/
def minImg (f : Fmt) (x y : Nat) : Nat :=
  let a := decodeNum f x
  let b := decodeNum f y
  if a.isNan && b.isNan then f.nanImg
  else if a.isNan then y else if b.isNan then x
  else if lessNum b a then y else x

/-- The greater of two images (−0 less than +0); a NaN gives the other, and two the canonical NaN (R75). -/
def maxImg (f : Fmt) (x y : Nat) : Nat :=
  let a := decodeNum f x
  let b := decodeNum f y
  if a.isNan && b.isNan then f.nanImg
  else if a.isNan then y else if b.isNan then x
  else if lessNum a b then y else x

/-! ### Conversions (R70) -/

/-- A float converted to a float format. With FTZ an E5M2 denormal that is an F16 denormal is flushed too, as R66 has it of F16
results; R70, which calls that conversion exact, leaves it open (DESIGN CHOICE, log 70). -/
def cvtFloat (src dst : Fmt) (env : FEnv) (x : Nat) : Nat × Nat :=
  let (a, fa) := readNum src env x
  match a with
  | .nan _ => (dst.nanImg, fa)
  | .inf n => if dst.e4m3 then (withSign dst n dst.maxImg, fa ||| flagOF) else (infResult dst env n, fa)
  | .fin n m e => let (r, fl) := roundFin dst env n m e; (r, fa ||| fl)

/-- An integer type's range. -/
def intRange (signed : Bool) (w : Nat) : Int × Int :=
  if signed then (-(2 ^ (w - 1) : Int), 2 ^ (w - 1) - 1) else (0, 2 ^ w - 1)

/-- An integer's two's complement image in `w` bits. -/
def intImg (w : Nat) (x : Int) : Nat := (x % (2 ^ w : Int)).toNat

/-- An image's value as an integer. -/
def intVal (signed : Bool) (w x : Nat) : Int :=
  let y := x % 2 ^ w
  if signed && decide (2 ^ (w - 1) ≤ y) then (y : Int) - 2 ^ w else y

/-- A float converted to an integer type. -/
def cvtFloatInt (src : Fmt) (signed : Bool) (w : Nat) (env : FEnv) (x : Nat) : Nat × Nat :=
  let (a, fa) := readNum src env x
  let (lo, hi) := intRange signed w
  match a with
  | .nan _ => (0, fa ||| flagIO)
  | .inf n => (intImg w (if n then lo else hi), fa ||| flagIO)
  | .fin n m e =>
    let (k, nx) := if e < 0 then roundAt env.rm n m (2 ^ (-e).toNat) 0 else (m * 2 ^ e.toNat, false)
    let v : Int := if n then -(k : Int) else k
    if v < lo then (intImg w lo, fa ||| flagIO)
    else if hi < v then (intImg w hi, fa ||| flagIO)
    else (intImg w v, fa ||| (if nx then flagNX else 0))

/-- An integer converted to a float format. -/
def cvtIntFloat (dst : Fmt) (env : FEnv) (v : Int) : Nat × Nat :=
  if v = 0 then (0, 0) else roundFin dst env (decide (v < 0)) v.natAbs 0

/-- An integer result formed in a type (R60). -/
def intResult (signed : Bool) (w : Nat) (sat : Bool) (v : Int) : Nat :=
  let (lo, hi) := intRange signed w
  if sat then intImg w (if v < lo then lo else if hi < v then hi else v) else intImg w v

/-! ### Unary functions (R71, R72) in F32 -/

/-- Bits after the point in the evaluation of the functions that are no quotient or root (log 7). -/
def fxBits : Nat := 400

/-- Σ z^(2i+1) / (2i+1) for a fixed-point `z`, over `n` terms from the `i`-th, `t` being z^(2i+1). -/
def atanhTerms (z2 : Nat) : Nat → Nat → Nat → Nat
  | 0, _, _ => 0
  | n + 1, i, t => t / (2 * i + 1) + atanhTerms z2 n (i + 1) (t * z2 / 2 ^ fxBits)

/-- atanh z in fixed point for 0 ≤ z ≤ 1/3. -/
def fxAtanh (z : Nat) : Nat := atanhTerms (z * z / 2 ^ fxBits) 140 0 z

/-- ln 2 in fixed point. -/
def fxLn2 : Nat := 2 * fxAtanh (2 ^ fxBits / 3)

/-- Σ (−1)^i z^(2i+1) / (2i+1): positive and negative terms alternate, `pos` says which comes next. -/
def atanTerms (z2 : Nat) : Nat → Nat → Bool → Nat → Int
  | 0, _, _, _ => 0
  | n + 1, i, pos, t =>
    (if pos then ((t / (2 * i + 1) : Nat) : Int) else -((t / (2 * i + 1) : Nat) : Int)) +
      atanTerms z2 n (i + 1) (!pos) (t * z2 / 2 ^ fxBits)

/-- π in fixed point: 16 atan(1/5) − 4 atan(1/239). -/
def fxPi : Nat :=
  let a5 := 2 ^ fxBits / 5
  let a239 := 2 ^ fxBits / 239
  (16 * atanTerms (a5 * a5 / 2 ^ fxBits) 90 0 true a5 -
    4 * atanTerms (a239 * a239 / 2 ^ fxBits) 30 0 true a239).toNat

/-- Σ y^i / i! over `n` terms from the `i`-th, `t` being y^(i-1) / (i-1)!. -/
def expTerms (y : Nat) : Nat → Nat → Nat → Nat
  | 0, _, t => t
  | n + 1, i, t => t + expTerms y n (i + 1) (t * y / 2 ^ fxBits / i)

/-- e^y in fixed point for 0 ≤ y < 1. -/
def fxExp (y : Nat) : Nat := expTerms y 100 1 (2 ^ fxBits)

/-- Σ of alternating terms y^j / j! in steps of two, `t` being the term at hand. -/
def sinTerms (y2 : Nat) : Nat → Nat → Bool → Nat → Int
  | 0, _, _, _ => 0
  | n + 1, j, pos, t =>
    (if pos then (t : Int) else -(t : Int)) +
      sinTerms y2 n (j + 2) (!pos) (t * y2 / 2 ^ fxBits / ((j + 1) * (j + 2)))

/-- sin y in fixed point for 0 ≤ y < 1. -/
def fxSin (y : Nat) : Nat := (sinTerms (y * y / 2 ^ fxBits) 60 1 true y).toNat

/-- cos y in fixed point for 0 ≤ y < 1. -/
def fxCos (y : Nat) : Nat := (sinTerms (y * y / 2 ^ fxBits) 60 0 true (2 ^ fxBits)).toNat

/-- Rounds a value known to lie just above v × 2^-fxBits, and not representable, to F32 with RNE. -/
def roundFx (env : FEnv) (neg : Bool) (v : Nat) : Nat × Nat :=
  roundNum fmtF32 { env with rm := 0 } neg (2 * v + 1) (2 ^ (fxBits + 1))

/-- A rounding that raises no NX of its own (R71): NX stays only beside OF or UF. -/
def quietNX (r : Nat × Nat) : Nat × Nat :=
  if r.2 &&& (flagOF ||| flagUF) = 0 then (r.1, if r.2.testBit 4 then r.2 - flagNX else r.2) else r

/-- EXP2 of a meaning (R71, R72). -/
def exp2Num (env : FEnv) (a : Num) : Nat × Nat :=
  let f := fmtF32
  match a with
  | .nan _ => (f.nanImg, 0)
  | .inf true => (0, 0)
  | .inf false => (infResult f env false, 0)
  | .fin neg m e =>
    let one := roundFin f envRNE false 1 0
    if m = 0 then one
    else
      let huge := decide (16 ≤ (Nat.log2 m : Int) + e)
      if huge then (if neg then (0, flagUF + flagNX) else (f.infImg, flagOF + flagNX))
      else
        -- the exact value as an integer part and a fraction of 2^-200 or finer
        let unit := min e 0
        let x := inUnits neg m e unit
        let d : Int := 2 ^ (-unit).toNat
        let n := x / d
        let fr := x % d
        if n ≥ 128 then (f.infImg, flagOF + flagNX)
        else if n < -149 then (0, flagUF + flagNX)
        else if fr = 0 then quietNX (roundFin f { env with rm := 0 } false 1 n)
        else
          let y := fr.toNat * fxLn2 / d.toNat
          let v := fxExp y
          let r := roundFin f { env with rm := 0 } false (2 * v + 1) (n - (fxBits + 1))
          if r.2 &&& flagOF ≠ 0 then (f.infImg, flagOF + flagNX) else quietNX r

/-- LOG2 of a meaning (R71, R72). -/
def log2Num (env : FEnv) (a : Num) : Nat × Nat :=
  let f := fmtF32
  match a with
  | .nan _ => (f.nanImg, 0)
  | .inf true => (f.nanImg, flagIO)
  | .inf false => (infResult f env false, 0)
  | .fin neg m e =>
    if m = 0 then (infResult f env true, flagDZ)
    else if neg then (f.nanImg, flagIO)
    else
      let k := Nat.log2 m
      let ex : Int := e + k
      if m = 2 ^ k then quietNX (cvtIntFloat f { env with rm := 0 } ex)
      else
        -- m / 2^k in (1, 2); z = (x − 1) / (x + 1)
        let z := (m - 2 ^ k) * 2 ^ fxBits / (m + 2 ^ k)
        let l : Int := ex * (2 ^ fxBits : Nat) + ((2 * fxAtanh z * 2 ^ fxBits / fxLn2 : Nat) : Int)
        let neg := decide (l < 0)
        quietNX (roundNum f { env with rm := 0 } neg (if neg then 2 * l.natAbs - 1 else 2 * l.natAbs + 1)
          (2 ^ (fxBits + 1)))

/-- sin(π t / 2^k) for 0 < t / 2^k < 1, in fixed point, by the octant. -/
def fxSinPi (t k : Nat) : Nat :=
  let h := 2 ^ k
  let t := if h < 2 * t then h - t else t
  if 4 * t ≤ h then fxSin (t * fxPi / h) else fxCos ((h - 2 * t) * fxPi / (2 * h))

/-- SINPI, or COSPI when `cos`, of a meaning (R71, R72). R72's last sentence gives COSPI 1 for every |x| ≥ 2^23, though
R71's exact value is −1 for the odd integers below 2^24: the model follows the sentence (DEDUCED, log 58). -/
def sinpiNum (env : FEnv) (cos : Bool) (a : Num) : Nat × Nat :=
  let f := fmtF32
  match a with
  | .nan _ => (f.nanImg, 0)
  | .inf _ => (f.nanImg, flagIO)
  | .fin neg m e =>
    let one := (roundFin f envRNE false 1 0).1
    if 0 ≤ e then
      if cos then ((if e = 0 && m % 2 = 1 && decide (m < 2 ^ 23) then withSign f true one else one), 0)
      else (withSign f neg 0, 0)
    else
      -- |x| = m / 2^k; COSPI is even, SINPI odd
      let k := (-e).toNat
      let r := m % 2 ^ (k + 1)            -- |x| modulo 2
      let i := r / 2 ^ k                  -- its integer part
      let t := r % 2 ^ k                  -- its fraction
      if cos then
        if t = 0 then (withSign f (i = 1) one, 0)
        else if 2 * t = 2 ^ k then (0, 0)
        else
          -- cos(πt') = sin(π(1/2 − t')) for t' < 1/2, −sin(π(t' − 1/2)) beyond
          let c := if 2 * t < 2 ^ k then (fxSinPi (2 ^ k - 2 * t) (k + 1), false)
            else (fxSinPi (2 * t - 2 ^ k) (k + 1), true)
          quietNX (roundFx env (c.2 ^^ (i = 1)) c.1)
      else if t = 0 then (withSign f neg 0, 0)
      else if 2 * t = 2 ^ k then (withSign f (neg ^^ (i = 1)) one, 0)
      else quietNX (roundFx env (neg ^^ (i = 1)) (fxSinPi t k))

/-- TANH of a meaning (R71, R72). -/
def tanhNum (env : FEnv) (a : Num) : Nat × Nat :=
  let f := fmtF32
  let one := (roundFin f envRNE false 1 0).1
  match a with
  | .nan _ => (f.nanImg, 0)
  | .inf n => (withSign f n one, 0)
  | .fin neg m e =>
    if m = 0 then (withSign f neg 0, 0)
    else
      let top := (Nat.log2 m : Int) + e
      -- below 2^-12 the exact value lies just under |x|
      if top < -12 then quietNX (roundFin f { env with rm := 0 } neg (m * 2 ^ 64 - 1) (e - 64))
      else if 4 ≤ top then (withSign f neg one, 0)
      else
        -- y = 2|x| in fixed point, exact: e is at least −149
        let y := m * 2 ^ ((fxBits : Int) + e + 1).toNat
        let n := y / fxLn2
        let ey := fxExp (y % fxLn2) * 2 ^ n
        let o := 2 ^ fxBits
        quietNX (roundFx env neg ((ey - o) * o / (ey + o)))

/-- RCP of a meaning in a format (R71, R72). -/
def rcpNum (f : Fmt) (env : FEnv) (a : Num) : Nat × Nat := divNum f env Num.one a

/-- RSQ of a meaning in a format (R71, R72). -/
def rsqNum (f : Fmt) (env : FEnv) (a : Num) : Nat × Nat :=
  match a with
  | .nan _ => (f.nanImg, 0)
  | .inf true => (f.nanImg, flagIO)
  | .inf false => (0, 0)
  | .fin neg m e =>
    if m = 0 then (infResult f env neg, flagDZ)
    else if neg then (f.nanImg, flagIO)
    else
      -- 1/√(m·2^e) = √(2^(2K)/m · 2^(-e-2K)); the quotient's floor is made sticky
      let num := 2 ^ (4 * f.fw + 64 + 2 * Nat.log2 m)
      let quo := num / m
      let sticky := if num % m = 0 then 0 else 1
      let (r, q) := sqrtBits (2 * quo + sticky) (-e - (4 * f.fw + 64 + 2 * Nat.log2 m : Nat) - 1) (f.fw + 8)
      quietNX (roundFin f { env with rm := 0 } false r q)

/-- The F32 unary functions by VUN sub-function: 0 RCP, 1 RSQ, 2 SQRT, 3 EXP2, 4 LOG2, 5 SINPI, 6 COSPI, 7 TANH. -/
def unaryF32 (fn : Nat) (env : FEnv) (a : Num) : Nat × Nat :=
  match fn with
  | 0 => quietNX (rcpNum fmtF32 { env with rm := 0 } a)
  | 1 => rsqNum fmtF32 env a
  | 2 => sqrtNum fmtF32 env a
  | 3 => exp2Num env a
  | 4 => log2Num env a
  | 5 => sinpiNum env false a
  | 6 => sinpiNum env true a
  | _ => tanhNum env a

/-- A flag-free F32 function of an image under RNE, for the units (R218, R347). -/
def unaryImg (fn x : Nat) : Nat := (unaryF32 fn envRNE (decodeNum fmtF32 x)).1

/-! ### Exact sums (R73, R76) -/

/-- The exact value of an F32 image in units of 2^-149; a NaN or infinity counts nothing. -/
def fixed149 (x : Nat) : Int :=
  match decodeNum fmtF32 x with
  | .fin n m e => inUnits n m e (-149)
  | _ => 0

/-- The clause sum of F32 contributions (R76). -/
def clauseFadd (xs : List Nat) : Nat :=
  let ns := xs.map (decodeNum fmtF32)
  let nan := ns.any Num.isNan
  let pinf := ns.any (fun a => a = .inf false)
  let ninf := ns.any (fun a => a = .inf true)
  let sum := (xs.map fixed149).foldl (· + ·) 0
  if nan || (pinf && ninf) then fmtF32.nanImg
  else if pinf then fmtF32.infImg
  else if ninf then withSign fmtF32 true fmtF32.infImg
  else if sum = 0 then (if !xs.isEmpty && xs.all (fun x => x % 2 ^ 32 = 2 ^ 31) then 2 ^ 31 else 0)
  else (roundFin fmtF32 envRNE (decide (sum < 0)) sum.natAbs (-149)).1

end Sys2Proof.Machine
end

