-- ==== Sys2Proof/Machine/Home.lean ====
section
/-! DEFINITION. What stands at home slices: clause entries and their phases (R159 to R170), bindings (R171), and the
gang barriers of a cluster (R174). -/

namespace Sys2Proof.Machine

/-! ### Clause entries -/

/-- The handle of a clause entry (R156): type CLAUSE, home slice, entry, generation. -/
def clauseHandle (e gen : Nat) : Dword := BitVec.ofNat 64 (2 ^ 60 + e * 2 ^ 20 + gen % 2 ^ 20)

/-- The type of a handle (R157). -/
def handleType (h : Dword) : Nat := (h.extractLsb' 60 4).toNat

/-- The clause entry a CLAUSE handle names: slice × 64 + entry (R156). -/
def handleEntry (h : Dword) : Nat := (h.extractLsb' 20 12).toNat

/-- The generation a CLAUSE handle names. -/
def handleGen (h : Dword) : Nat := (h.extractLsb' 0 20).toNat

/-- The address of a RING, QUEUE, LOCK, SCENE, GRID, FETCHTAB or CLASSTAB handle: sext(payload[54:0], 64) (R156). -/
def handleAddr (h : Dword) : Dword := (h.extractLsb' 0 55).signExtend 64

/-- The home slice of a key (R159). -/
def keySlice (k : Word) : Nat := (k * 0x9E3779B1#32).toNat / 2 ^ 26

/-- A CLAUSE handle names a live entry of this address space and world (R158, subcode 2). -/
def State.clauseLive (s : State) (h : Dword) (asid world : Nat) : Bool :=
  let c := s.clause (handleEntry h)
  h.extractLsb' 32 28 = 0 && c.live && c.gen = handleGen h && c.asid = asid && c.world = world

/-- Two values as integers of a clause's TYPE: 0 I32, 1 N32, 2 I64, 3 N64 (R166). -/
def clauseInt (ty : Nat) (x : Dword) : Int := intVal (ty % 2 = 0) (if ty < 2 then 32 else 64) x.toNat

/-- The lesser or greater of F32 contributions, as `pick` chooses between two: a NaN that stands alone is canonical (R67,
R76). -/
def clauseExtreme (pick : Nat → Nat → Nat) (data : List Dword) : Dword :=
  match data with
  | [] => 0
  | x :: r =>
    let y := r.foldl (fun y z => pick y (z.toNat % 2 ^ 32)) (x.toNat % 2 ^ 32)
    BitVec.ofNat 64 (if (decodeNum fmtF32 y).isNan then fmtF32.nanImg else y)

/-- A phase's result from its operation and the values of its contributing lanes (R166). -/
def clauseResult (op : Option (Nat × Nat × Nat)) (data : List Dword) : Dword :=
  match op with
  | none => 0
  | some (1, kind, _) =>
    let n := (data.filter (fun x => x ≠ 0)).length
    (match kind with
      | 0 => if n ≠ 0 then 1 else 0
      | 1 => if n = data.length then 1 else 0
      | _ => BitVec.ofNat 64 n)
  | some (_, op, ty) =>
    let fold := fun (f : Dword → Dword → Dword) => match data with
      | [] => 0
      | x :: r => r.foldl f x
    match op with
    | 0 => fold (· + ·)
    | 1 => fold (fun x y => if clauseInt ty y < clauseInt ty x then y else x)
    | 2 => fold (fun x y => if clauseInt ty x < clauseInt ty y then y else x)
    | 3 => fold (· &&& ·)
    | 4 => fold (· ||| ·)
    | 5 => fold (· ^^^ ·)
    | 6 => BitVec.ofNat 64 (clauseFadd (data.map BitVec.toNat))
    | 7 => clauseExtreme (minImg fmtF32) data
    | _ => clauseExtreme (maxImg fmtF32) data

/-- The status of the completion of a phase (R165): FAULTED and the low 31 bits of the phase's number. -/
def phaseStatus (faulted : Bool) (phase : Word) : Word :=
  (if faulted then 0x80000000#32 else 0) ||| (phase &&& 0x7FFFFFFF#32)

/-- Phase p completes (R163, R164): p + 1 becomes the phase, with the early arrivals. -/
def Clause.complete (c : Clause) : Clause :=
  { c with
    phase := c.phase + 1, exp0 := c.exp1, arr0 := c.arr1, op0 := c.op1, data0 := c.data1,
    exp1 := c.members, arr1 := 0, op1 := none, data1 := [], joiners := 0,
    last := clauseResult c.op0 c.data0, lastStatus := phaseStatus c.faulted c.phase }

/-- Whether phase p completes now (R164): rule 1 after an arrival or a leave; rule 2 after a join, by the quorum. -/
def Clause.completes (joined : Bool) (c : Clause) : Bool :=
  if c.exp0 ≠ 0 then c.arr0 = c.exp0
  else joined && decide (0 < c.joiners) && decide ((if c.phase = 0 then c.quorum else 1) ≤ c.joiners)

/-- A membership slot after the completion of the phase its masks refer to (R163). -/
def Memb.complete (m : Memb) : Memb :=
  { m with arrived := m.early, pending := 0, early := 0, phase := m.phase + 1 }

/-- The membership slot of a wave for a clause, by slot number. -/
def Wave.findMemb (x : Wave) (h : Dword) : Option Nat :=
  (List.range 8).find? (fun j => (mapGet Memb.empty x.memb j).handle = h && h ≠ 0)

/-- The wave with its slot `j` changed by `f`; a slot whose MASK and WAITING are both empty is freed (R165). -/
def Wave.modMemb (x : Wave) (j : Nat) (f : Memb → Memb) : Wave :=
  let m := f (mapGet Memb.empty x.memb j)
  { x with memb := mapSet Memb.empty x.memb j (if m.mask = 0 ∧ m.waiting = 0 then Memb.empty else m) }

/-- The slots for a clause of the waves of its address space and world after a completion, those of parked waves too
(R168). -/
def completeSlots (h : Dword) (asid world : Nat) (ws : Map Wave) : Map Wave :=
  ws.map (fun (w, x) => (w, if (x.life = .resident ∨ x.life = .parked) ∧ x.csr.asid = asid ∧ x.csr.world = world then
      match x.findMemb h with
      | some j => x.modMemb j Memb.complete
      | none => x
    else x))

/-- The entry is freed when REFS = 0 and no lane is a member (R161); its bindings are dropped. -/
def State.freeClause (s : State) (e : Nat) : State :=
  let c := s.clause e
  if c.live ∧ c.refs = 0 ∧ c.members = 0 then
    let s := s.setClause e { Clause.empty with gen := (c.gen + 1) % 2 ^ 20 }
    { s with bindings := s.bindings.filter (fun b => b.isAddr || b.obj ≠ e) }
  else s

/-- Applies the completion rules to an entry after a join or another change; both rules apply to each new phase (R164). -/
def State.settleClause (joined : Bool) (s : State) (e : Nat) : Nat → State
  | 0 => s
  | n + 1 =>
    let c := s.clause e
    if c.live && c.completes joined then
      let s := { s with waves := completeSlots (clauseHandle e c.gen) c.asid c.world s.waves }
      (s.setClause e c.complete).settleClause true e n
    else s

/-- Applies the completion rules after an arrival or a leave, and frees the entry where it may be freed. -/
def State.settle (s : State) (e : Nat) : State := (s.settleClause false e 4).freeClause e

/-- Applies the completion rules after a join. -/
def State.settleJoin (s : State) (e : Nat) : State := s.settleClause true e 4

/-- A handle of a wave names a live entry of the wave's address space and world (R6, R158). -/
def State.clauseOf (s : State) (w : Nat) (h : Dword) : Bool :=
  handleType h = 1 && s.clauseLive h (s.wave w).csr.asid (s.wave w).csr.world

/-- The counts of an entry after the lanes of these states leave (R163). -/
def Clause.leave (c : Clause) (d a j ae je : Nat) : Clause :=
  { c with
    exp0 := c.exp0 - d, exp1 := c.exp1 - d - a - j, joiners := c.joiners - j - je,
    members := c.members - d - a - j - ae - je }

/-- The lanes of a slot in each state (R162): D, A, J, AE, JE. -/
def Memb.states (m : Memb) (act : Mask) : Mask × Mask × Mask × Mask × Mask :=
  let x := act &&& m.mask
  (x &&& ~~~ m.arrived &&& ~~~ m.pending, x &&& m.arrived &&& ~~~ m.early, x &&& m.pending &&& ~~~ m.early,
    x &&& m.arrived &&& m.early, x &&& m.pending &&& m.early)

/-- A slot without some lanes. -/
def Memb.without (m : Memb) (x : Mask) : Memb :=
  { m with mask := m.mask &&& ~~~ x, arrived := m.arrived &&& ~~~ x, pending := m.pending &&& ~~~ x,
           early := m.early &&& ~~~ x }

/-- The clause entry that a wave's handle names, as far as the wave may see it (R6). -/
def State.clauseSeen (s : State) (w : Nat) (h : Dword) : Clause :=
  if s.clauseOf w h then s.clause (handleEntry h) else Clause.empty

/-- Lanes of a wave leave a clause (R163, R165); lanes that are no members are not affected. -/
def State.clauseLeave (s : State) (w : Nat) (h : Dword) (act : Mask) : State :=
  match (s.wave w).findMemb h with
  | none => s
  | some j =>
    let m := mapGet Memb.empty (s.wave w).memb j
    let (d, a, jn, ae, je) := m.states act
    let e := handleEntry h
    let c := s.clause e
    let live := s.clauseOf w h
    let s := s.modWave w (fun x => x.modMemb j (fun m => m.without act))
    if live then
      (s.setClause e (c.leave (Mask.count d) (Mask.count a) (Mask.count jn) (Mask.count ae)
        (Mask.count je))).settle e
    else s

/-- The wave with an operation on its way to a home (R155). -/
def Wave.addHop (x : Wave) (h : HomeOp) : Wave := { x with hops := x.hops ++ [{ h with seq := x.seq }], seq := x.seq + 1 }

/-- A leave on its way (R165). -/
def leaveHop (k : Nat) (hnd : Dword) (act : Mask) : HomeOp :=
  { seq := 0, split := k, op := .clleave 0 0, hnd, act, arr := 0, pa := 0, vals := [], arrived := none,
    reached := false, holding := false }

/-- A clause of a wave is FAULTED (R167). -/
def State.setFaulted (s : State) (w : Nat) (h : Dword) : State :=
  let e := handleEntry h
  if s.clauseOf w h then s.setClause e { s.clause e with faulted := true } else s

/-- The forced leave of a dead wave (R167): its member lanes leave every clause, and FAULTED is set on each. Where arrivals of it
on a clause are on their way, the leave follows them (R155): its third captured value marks it as forced. -/
def State.forcedLeave (s : State) (w : Nat) : List Nat → State
  | [] => s
  | j :: r =>
    let m := mapGet Memb.empty (s.wave w).memb j
    if m.handle = 0 ∨ m.mask = 0 then s.forcedLeave w r
    else if (s.wave w).hops.any (fun h => !h.reached && h.hnd = m.handle) then
      (s.modWave w (fun x => x.addHop { leaveHop 0 m.handle m.mask with vals := [0, 0, 1] })).forcedLeave w r
    else ((s.setFaulted w m.handle).clauseLeave w m.handle m.mask).forcedLeave w r

/-- The count of parked member waves at the homes of a wave's clauses, changed by `f` (R168). -/
def State.countParked (s : State) (w : Nat) (f : Nat → Nat) : State :=
  (List.range 8).foldl (fun s j =>
    let h := (mapGet Memb.empty (s.wave w).memb j).handle
    if s.clauseOf w h then
      s.setClause (handleEntry h) { s.clause (handleEntry h) with parked := f (s.clause (handleEntry h)).parked }
    else s) s

/-- The lanes arrive (R163): D in p, A and J in p + 1. None of them is in AE or JE. Values are the contributions of a
vote or reduction with its operation. -/
def Clause.arrive (c : Clause) (d aj : Nat) (op : Option (Nat × Nat × Nat)) (vd vaj : List Dword) : Clause :=
  { c with
    arr0 := c.arr0 + d, arr1 := c.arr1 + aj,
    op0 := if d ≠ 0 && op.isSome && c.op0.isNone then op else c.op0,
    op1 := if aj ≠ 0 && op.isSome && c.op1.isNone then op else c.op1,
    data0 := if op.isSome then c.data0 ++ vd else c.data0,
    data1 := if op.isSome then c.data1 ++ vaj else c.data1 }

/-! ### Bindings -/

/-- A binding in force for an object applies to a wave's address space, and covers a physical line's virtual page only
through its addresses; this says whether a virtual address lies in it. -/
def Binding.covers (b : Binding) (va : Dword) (n : Nat) : Bool :=
  decide (b.base.toNat < va.toNat + n) && decide (va.toNat < b.base.toNat + b.len)

/-! ### Gang barriers -/

/-- WAVEIDX of every wave of a gang that has not ended (R174). -/
def Gang.expected (g : Gang) : List Nat := (List.range g.waves).filter (fun i => !(g.ended.contains i))

/-- A barrier after the completions its arrivals allow (R174). -/
def Bar.settle (exp : List Nat) : Nat → Bar → Bar
  | 0, b => b
  | n + 1, b =>
    if !exp.isEmpty && exp.all (fun i => 1 ≤ mapGet 0 b.arr i) then
      Bar.settle exp n { b with phase := b.phase + 1, arr := exp.foldl (fun a i => mapSet 0 a i (mapGet 0 a i - 1)) b.arr }
    else b

/-- A barrier of a gang as it stands at a clk: what was complete before that clk has completed (R174). -/
def Gang.barNow (g : Gang) (clk : Nat) (b : Bar) : Bar := if b.last < clk then Bar.settle g.expected 3 b else b

/-- Barrier `n` of a gang at a clk. -/
def Gang.barAt (g : Gang) (n clk : Nat) : Bar := g.barNow clk (mapGet Bar.zero g.bars n)

/-- A wave's arrivals at barrier `n` that have not completed at a clk (R174). -/
def Gang.arrivals (g : Gang) (n i clk : Nat) : Nat := mapGet 0 (g.barAt n clk).arr i

/-- Wave `i` arrives at barrier `n` of a gang. -/
def Gang.arriveBar (g : Gang) (n i clk : Nat) : Gang :=
  let b := g.barAt n clk
  { g with bars := mapSet Bar.zero g.bars n { b with arr := mapSet 0 b.arr i (mapGet 0 b.arr i + 1), last := clk } }

/-- Wave `i` of a gang ends: its arrivals are withdrawn along with its place (R174). -/
def Gang.endWave (g : Gang) (i clk : Nat) : Gang :=
  { g with
    bars := g.bars.map (fun (n, b) =>
      let b := g.barNow clk b
      (n, { b with arr := mapSet 0 b.arr i 0, last := clk })),
    ended := if g.ended.contains i then g.ended else g.ended ++ [i] }

end Sys2Proof.Machine
end

