-- ==== Sys2Proof/Machine/Operands.lean ====
section
/-! DEFINITION. Operand codes (R31 to R36): which codes may stand where, what a source reads, what a destination writes,
and the registers an operand names. -/

namespace Sys2Proof.Machine

/-! ### Divergence-stack entries and ARM (R86, R89) -/

/-- KIND of an entry: 1 J HOME, 3 J LINK, 2 P (R89). -/
def Entry.kind (e : Entry) : Nat := (e.word.extractLsb' 0 2).toNat

/-- The entry is a P entry. -/
def Entry.isP (e : Entry) : Bool := e.kind = 2

/-- The entry is a J entry. -/
def Entry.isJ (e : Entry) : Bool := e.kind = 1 || e.kind = 3

/-- The full address of TARGET (R89). -/
def Entry.target (e : Entry) : Dword := ((e.word.extractLsb' 2 53 ++ 0#2).signExtend 64)

/-- HOMESPLIT of a LINK. -/
def Entry.homeSplit (e : Entry) : Nat := (e.word.extractLsb' 56 2).toNat

/-- HOMEDEPTH of a LINK. -/
def Entry.homeDepth (e : Entry) : Nat := (e.word.extractLsb' 58 5).toNat

/-- The RZ bits 63 and 55 are zero, and KIND is not 0b00 (R89, R90). -/
def Entry.ok (e : Entry) : Bool := e.kind ≠ 0 && !(e.word.getLsbD 63) && !(e.word.getLsbD 55)

/-- An entry from its fields (R89). -/
def mkEntry (kind : BitVec 2) (mask : Mask) (target : Dword) (homeSplit homeDepth : Nat) : Entry :=
  { mask, word := 0#1 ++ BitVec.ofNat 5 homeDepth ++ BitVec.ofNat 2 homeSplit ++ 0#1 ++
      target.extractLsb' 2 53 ++ kind }

/-- The virtual address of position `pos` of split `k`'s spill region (R290). -/
def spillVa (x : Wave) (k pos : Nat) : Dword := x.csr.savearea + BitVec.ofNat 64 (0x540 + 384 * k + 16 * pos)

/-- The physical address of `va`, where it translates and the access to `n` bytes of its page is permitted and meets no
uncorrectable sector. -/
def State.pagePa (s : State) (sp : Space) (acc : Access) (n : Nat) (va : Dword) : Option Nat :=
  if !(canonical va) then none
  else match translate s sp va with
    | .ok pa pte => if permitted s sp acc pa pte && !(s.badAt pa n) then some pa else none
    | _ => none

/-- The physical places of a spill position, where the region translates and permits the access (R90): two where SAVEAREA lies so
that the entry crosses the end of a page. -/
def State.spillPa (s : State) (w k pos : Nat) (acc : Access) : Option (List (Nat × Nat)) :=
  let va := spillVa (s.wave w) k pos
  let m := min 16 (65536 - va.toNat % 65536)
  match s.pagePa (s.space w) acc m va with
  | none => none
  | some pa =>
    if m = 16 then some [(pa, 16)]
    else (s.pagePa (s.space w) acc (16 - m) (va + BitVec.ofNat 64 m)).map (fun qa => [(pa, m), (qa, 16 - m)])

/-- The 16 bytes of an entry (R89). -/
def entryBytes (e : Entry) : List Byte := leBytes 8 e.mask.toNat ++ leBytes 8 e.word.toNat

/-- An entry from 16 bytes. -/
def entryOfBytes (bs : List Byte) : Entry :=
  { mask := BitVec.ofNat 64 (leNat (bs.take 8)), word := BitVec.ofNat 64 (leNat ((bs.drop 8).take 8)) }

/-- The entry at position `pos` of split `k`'s stack: in the core, or in the spill region (R89). One whose spill page cannot
be read counts as no entry wherever it is neither pushed nor popped: in ARM, and among the J and LINK entries of R92. The spec
leaves that open (DESIGN CHOICE, log 62). -/
def State.stackAt (s : State) (w k pos : Nat) : Entry :=
  let p := (s.wave w).split k
  if p.depth ≤ pos + 8 then mapGet Entry.zero p.stack pos
  else match s.spillPa w k pos .read with
    | some ps => entryOfBytes (s.readSpan ps)
    | none => Entry.zero

/-- ARM: OWN less the masks of the split's P entries (R86); the handler's ARM is all 64 lanes (R280). -/
def State.arm (s : State) (w k : Nat) : Mask :=
  if k = 4 then BitVec.allOnes 64
  else
    let p := (s.wave w).split k
    (List.range p.depth).foldl
      (fun m pos => let e := s.stackAt w k pos; if e.isP then m &&& ~~~ e.mask else m) p.own

/-- Writes the EXEC of split or context `k`, of which `bits` are new: the value ∧ ARM is stored (R87). -/
def State.writeExec (s : State) (w k lat : Nat) (bits m : Mask) : State :=
  let a := s.arm w k
  (s.produce w k lat (.exec k) bits [] ((s.wave w).split k).exec).modSplit w k
    (fun p => { p with exec := m &&& a })

/-! ### Codes -/

/-- A code that may stand where a 32-bit scalar is read, in an integer or a floating context (R31, R32). -/
def srcOk (float : Bool) (c : Code) : Bool :=
  let n := c.toNat
  n < 121 || n = 123 || 126 ≤ n || (float && (n = 121 || n = 122))

/-- A code that may stand where a 32-bit scalar is written (R31). -/
def dstOk (c : Code) : Bool := c.toNat < 99 || c.toNat = 127

/-- A code that may name a 64-bit source (R33). -/
def pairSrcOk (float : Bool) (c : Code) : Bool :=
  let n := c.toNat
  (n < 95 && n % 2 = 0) || n = 96 || (104 ≤ n && n < 121) || n = 123 || 126 ≤ n || (float && (n = 121 || n = 122))

/-- A code that may name a 64-bit destination (R33). -/
def pairDstOk (c : Code) : Bool :=
  let n := c.toNat
  (n < 95 && n % 2 = 0) || n = 96 || n = 127

/-- Of the scalar source fields, at most one holds 126 (R27). -/
def litOnce (cs : List Code) : Bool := (cs.filter (fun c => c = 126)).length ≤ 1

/-- A code that may stand where a predicate is read (R35). -/
def predSrcOk (c : Code) : Bool :=
  let n := c.toNat
  n < 11 || (64 ≤ n && n < 96 && n % 2 = 0)

/-- A code that may stand where a predicate is written, other than by a compare (R35). -/
def predDstOk (c : Code) : Bool :=
  let n := c.toNat
  n < 9 || (64 ≤ n && n < 96 && n % 2 = 0)

/-- A handle field's code (R36). -/
def hOk (c : Code) : Bool := c.toNat < 16

/-- A token field's code (R36). -/
def kOk (c : Code) : Bool := c.toNat < 8

/-- A vector operand of `n` registers from a number aligned to `al`, all allocated (R34, R12). -/
def vOkAl (x : Wave) (c : Code) (n al : Nat) : Bool :=
  c.toNat % al = 0 && c.toNat + n ≤ 8 * x.blocks && c.toNat + n ≤ 128

/-- A vector operand of `n` registers, aligned to their number (R34). -/
def vOk (x : Wave) (c : Code) (n : Nat) : Bool := vOkAl x c n n

/-! ### Reading -/

/-- The value that SPLITID reads (R78); the handler's context is no split, and what it reads there is free. -/
def State.splitId (s : State) (k : Nat) : Word := if k < 4 then BitVec.ofNat 32 k else (s.freeVal 800).lo

/-- A 32-bit scalar source in an integer context (R31, R32). -/
def State.readSrc (s : State) (w k : Nat) (lit : Option Word) (c : Code) : Word :=
  let n := c.toNat
  if n < 96 then s.readS w n
  else if n = 96 then Dword.lo (s.readExec w k)
  else if n = 97 then Dword.hi (s.readExec w k)
  else if n = 98 then s.readMode w
  else if n = 99 then s.splitId k
  else if n = 100 then BitVec.ofNat 32 (s.wave w).role
  else if n = 101 then BitVec.ofNat 32 (s.wave w).idx
  else if n = 102 then BitVec.ofNat 32 (s.gang (s.wave w).gang).gidx
  else if n = 103 then BitVec.ofNat 32 (s.wave w).cluster
  else if n < 120 then BitVec.ofNat 32 (n - 104)
  else if n = 120 then 0xFFFFFFFF#32
  else if n = 123 then 64#32
  else if n = 126 then lit.getD 0
  else 0

/-- A 64-bit source in an integer context: a pair, EXEC, or an inline value or literal sign-extended (R33). -/
def State.readPair (s : State) (w k : Nat) (lit : Option Word) (c : Code) : Dword :=
  let n := c.toNat
  if n < 96 then Dword.ofWords (s.readS w n) (s.readS w (n + 1))
  else if n = 96 then s.readExec w k
  else (s.readSrc w k lit c).signExtend 64

/-- A predicate source (R35). -/
def State.readPred (s : State) (w k : Nat) (c : Code) : Mask :=
  let n := c.toNat
  if n < 8 then s.readP w n
  else if n = 8 then s.readExec w k
  else if n = 9 then BitVec.allOnes 64
  else if n = 10 then 0
  else Dword.ofWords (s.readS w (n - 64)) (s.readS w (n - 63))

/-! ### Writing -/

/-- Writes a 32-bit scalar destination (R31); a read-only code and NULL write nothing. -/
def State.writeDst (s : State) (w k lat : Nat) (c : Code) (x : Word) : State :=
  let n := c.toNat
  if n < 96 then s.writeS w k lat n x
  else if n = 96 then s.writeExec w k lat 0xFFFFFFFF#64 (Dword.ofWords x (Dword.hi ((s.wave w).split k).exec))
  else if n = 97 then s.writeExec w k lat 0xFFFFFFFF00000000#64 (Dword.ofWords (Dword.lo ((s.wave w).split k).exec) x)
  else if n = 98 then s.writeMode w k lat x
  else s

/-- A value that MODE refuses (R38). -/
def modeBad (x : Word) : Bool := x.extractLsb' 13 19 ≠ 0

/-- Writing this value to this destination would be a write of MODE that traps (R38). -/
def dstBad (c : Code) (x : Word) : Bool := c = 98 && modeBad x

/-- Writes a 64-bit destination as a unit (R33, R83). -/
def State.writePair (s : State) (w k lat : Nat) (c : Code) (x : Dword) : State :=
  let n := c.toNat
  if n < 95 then (s.writeS w k lat n x.lo).writeS w k lat (n + 1) x.hi
  else if n = 96 then s.writeExec w k lat (BitVec.allOnes 64) x
  else s

/-- Writes a predicate destination (R35). -/
def State.writePred (s : State) (w k lat : Nat) (c : Code) (x : Mask) : State :=
  let n := c.toNat
  if n < 8 then s.writeP w k lat n x
  else if n = 8 then s.writeExec w k lat (BitVec.allOnes 64) x
  else if 64 ≤ n then (s.writeS w k lat (n - 64) (Dword.lo x)).writeS w k lat (n - 63) (Dword.hi x)
  else s

/-! ### The registers an operand names (R43) -/

/-- The registers that a 32-bit scalar operand names. -/
def srcRegs (k : Nat) (c : Code) : List Reg :=
  let n := c.toNat
  if n < 96 then [.s n] else if n = 96 ∨ n = 97 then [.exec k] else if n = 98 then [.mode] else []

/-- The registers that a pair names. -/
def pairRegs (k : Nat) (c : Code) : List Reg :=
  let n := c.toNat
  if n < 96 then [.s n, .s (n + 1)] else if n = 96 then [.exec k] else []

/-- The registers that a predicate operand names. -/
def predRegs (k : Nat) (c : Code) : List Reg :=
  let n := c.toNat
  if n < 8 then [.p n] else if n = 8 then [.exec k] else if 64 ≤ n then [.s (n - 64), .s (n - 63)] else []

/-- The registers of a vector operand. -/
def vRegs (c : Code) (n : Nat) : List Reg := (List.range n).map (fun i => .v (c.toNat + i))

/-- The register of a handle operand. -/
def hRegs (c : Code) : List Reg := [.h c.toNat]

/-! ### MODE (R37 to R39) -/

/-- MODE.TYPE. -/
def modeType (m : Word) : Nat := (m.extractLsb' 0 4).toNat

/-- MODE.GUARD. -/
def modeGuard (m : Word) : Nat := (m.extractLsb' 4 4).toNat

/-- MODE.GNEG. -/
def modeGneg (m : Word) : Bool := m.getLsbD 8

/-- MODE.RM. -/
def modeRm (m : Word) : Nat := (m.extractLsb' 9 2).toNat

/-- MODE.SAT. -/
def modeSat (m : Word) : Bool := m.getLsbD 11

/-- MODE.FTZ. -/
def modeFtz (m : Word) : Bool := m.getLsbD 12

/-- The rounding, saturation and flushing that MODE asks for. -/
def modeEnv (m : Word) : FEnv := { rm := modeRm m, sat := modeSat m, ftz := modeFtz m }

/-- GUARD is reserved, or GNEG is set without a guard (R38). -/
def guardBad (m : Word) : Bool :=
  (1 ≤ modeGuard m && modeGuard m < 8) || (modeGuard m = 0 && modeGneg m)

/-- G, the lanes that the guard lets pass (R39). -/
def State.guardMask (s : State) (w : Nat) : Mask :=
  let m := s.readMode w
  if modeGuard m < 8 then BitVec.allOnes 64
  else
    let p := s.readP w (modeGuard m - 8)
    if modeGneg m then ~~~ p else p

/-- ACTIVE := EXEC ∧ G (R39). -/
def State.active (s : State) (w k : Nat) : Mask := s.readExec w k &&& s.guardMask w

/-- The registers that forming ACTIVE reads (R43). -/
def State.activeRegs (s : State) (w k : Nat) : List Reg :=
  let m := s.readMode w
  [.exec k, .mode] ++ (if 8 ≤ modeGuard m then [.p (modeGuard m - 8)] else [])

/-- The lanes of a pixel wave that are live (R339): p0 at launch. -/
def Wave.liveLanes (x : Wave) : Mask :=
  if x.origin = 2 then
    Mask.ofFn (fun L => match x.quads[L / 4]? with
      | some q => decide (q.cover / 256 ^ (L % 4) % 256 ≠ 0)
      | Option.none => false)
  else BitVec.allOnes 64

/-- ACTIVE without the helper lanes of a pixel wave (R339). -/
def State.live (s : State) (w k : Nat) : Mask := s.active w k &&& (s.wave w).liveLanes

/-! ### Typed operands (R32, R34, R59) -/

/-- The width of an element of a TYPE (R37). -/
def tyWidth (t : Nat) : Nat :=
  match t with
  | 2 | 3 | 5 => 64
  | 0 | 1 | 4 => 32
  | 6 | 7 | 8 | 9 => 16
  | _ => 8

/-- A TYPE is signed: the I types. -/
def tySigned (t : Nat) : Bool := t = 0 || t = 2 || t = 8 || t = 10

/-- The format of a floating-point TYPE. -/
def tyFmt (t : Nat) : Option Fmt :=
  match t with
  | 4 => some fmtF32
  | 5 => some fmtF64
  | 6 => some fmtF16
  | 7 => some fmtBF16
  | 12 => some fmtE4M3
  | 13 => some fmtE5M2
  | _ => none

/-- Elements in one register, or in one pair for a 64-bit TYPE. -/
def tyElems (t : Nat) : Nat := if tyWidth t = 64 then 1 else 32 / tyWidth t

/-- Registers that an operand of a TYPE occupies (R34). -/
def tyRegs (t : Nat) : Nat := if tyWidth t = 64 then 2 else 1

/-- The elements of a value, element 0 lowest (R59). -/
def unpackElems (w n x : Nat) : List Nat := (List.range n).map (fun j => x / 2 ^ (w * j) % 2 ^ w)

/-- The value whose elements these are (R59). -/
def packElems (w : Nat) (es : List Nat) : Nat := es.foldr (fun e acc => e % 2 ^ w + 2 ^ w * acc) 0

/-- A scalar code that may stand where a value of a TYPE is read (R32, R33). -/
def typedOk (t : Nat) (c : Code) : Bool :=
  match t with
  | 2 | 3 => pairSrcOk false c
  | 5 => pairSrcOk true c
  | 4 | 6 | 7 => srcOk true c
  | 12 | 13 => srcOk false c && (c.toNat < 104 || 123 < c.toNat)
  | _ => srcOk false c

/-- The integer of an inline code (R31). -/
def inlineInt (c : Code) : Int :=
  if c.toNat < 120 then c.toNat - 104 else if c.toNat = 120 then -1 else 64

/-- An inline code: 104 to 120, or 123; 121 and 122 are 0.5 and 0.25 in floating contexts. -/
def isInline (c : Code) : Bool := 104 ≤ c.toNat && c.toNat < 124

/-- The element that an inline code gives in a TYPE (R32). -/
def inlineElem (t : Nat) (c : Code) : Nat :=
  match tyFmt t with
  | some f =>
    if c.toNat = 121 then (roundFin f envRNE false 1 (-1)).1
    else if c.toNat = 122 then (roundFin f envRNE false 1 (-2)).1
    else (cvtIntFloat f envRNE (inlineInt c)).1
  | none => intImg (tyWidth t) (inlineInt c)

/-- A scalar source in the context of a TYPE, as the bits that each lane receives (R32, R33, R85). -/
def State.readTyped (s : State) (w k : Nat) (lit : Option Word) (t : Nat) (c : Code) : Nat :=
  if isInline c then packElems (tyWidth t) (List.replicate (tyElems t) (inlineElem t c))
  else if tyWidth t = 64 then
    if c.toNat = 126 ∧ t = 5 then (cvtFloat fmtF32 fmtF64 envRNE (lit.getD 0).toNat).1
    else (s.readPair w k lit c).toNat
  else (s.readSrc w k lit c).toNat

/-- An operand of a vector instruction: a vector register, or a scalar code whose value every lane receives. -/
inductive VSrc where
  | vec (c : Code)
  | scl (c : Code)
  deriving DecidableEq, Repr

/-- The operand may stand where `n` registers of a TYPE are read. -/
def VSrc.ok (x : Wave) (t n : Nat) : VSrc → Bool
  | .vec c => vOk x c n
  | .scl c => typedOk t c

/-- The scalar code of an operand. -/
def VSrc.code : VSrc → List Code
  | .vec _ => []
  | .scl c => [c]

/-- The registers of an operand of `n` registers of a TYPE. -/
def VSrc.regs (k t n : Nat) : VSrc → List Reg
  | .vec c => vRegs c n
  | .scl c => if tyWidth t = 64 then pairRegs k c else srcRegs k c

/-- Lane `L` of `n` registers from `c`, the first lowest. -/
def State.readVn (s : State) (w n : Nat) (c : Code) (L : Nat) : Nat :=
  packElems 32 ((List.range n).map (fun i => (s.readV w (c.toNat + i) L).toNat))

/-- What lane `L` reads of an operand of a TYPE. -/
def State.readVSrc (s : State) (w k : Nat) (lit : Option Word) (t : Nat) : VSrc → Nat → Nat
  | .vec c, L => s.readVn w (tyRegs t) c L
  | .scl c, _ => s.readTyped w k lit t c

/-- Writes `n` registers from `c` in some lanes. -/
def State.writeVn (s : State) (w k lat n : Nat) (c : Code) (m : Mask) (f : Nat → Nat) : State :=
  (List.range n).foldl (fun s i =>
    s.writeV w k lat (c.toNat + i) m (fun L => BitVec.ofNat 32 (f L / 2 ^ (32 * i)))) s

end Sys2Proof.Machine
end

