-- ==== Sys2Proof/Machine/Ops.lean ====
section
/-! DEFINITION. The operations that instructions share: the divergence stack (R89, R90), taking a trap and returning from
one (R280 to R283), the death and the end of a wave (R100, R283), waiting for a page (R296), and the elementary checks
of memory addresses (R128). -/

namespace Sys2Proof.Machine

/-! ### Trap causes (R284) -/

def causeIllegal : Nat := 0x01
def causeIllopnd : Nat := 0x02
def causePriv : Nat := 0x03
def causeStallshort : Nat := 0x04
def causeMisalign : Nat := 0x05
def causeXlate : Nat := 0x06
def causeProt : Nat := 0x07
def causeUncorr : Nat := 0x08
def causeAccbound : Nat := 0x09
def causeWeight : Nat := 0x0A
def causeClause : Nat := 0x0B
def causeRing : Nat := 0x0C
def causeQueue : Nat := 0x0D
def causeFpexc : Nat := 0x0E
def causeDivstack : Nat := 0x0F
def causeBrk : Nat := 0x10
def causeSwtrap : Nat := 0x11
def causePreempt : Nat := 0x12
def causeResume : Nat := 0x13
def causeEngfault : Nat := 0x14
def causeScratch : Nat := 0x15
def causeNle : Nat := 0x16
def causeRay : Nat := 0x17
def causeRegclaim : Nat := 0x18

/-! ### The divergence stack (R89, R90) -/

/-- Pushes an entry: the state after it, or the DIVSTACK subcode. A push onto 8 core entries moves the bottom one to
the spill region and holds the split for 16 clk (R90). -/
def State.pushEntry (s : State) (w k : Nat) (e : Entry) : Except Nat State :=
  let p := (s.wave w).split k
  if 32 ≤ p.depth then .error 1
  else if p.depth < 8 then
    .ok (s.modSplit w k (fun p => { p with stack := mapSet Entry.zero p.stack p.depth e, depth := p.depth + 1 }))
  else
    let b := p.depth - 8
    match s.spillPa w k b .write with
    | none => .error 3
    | some ps =>
      let s := s.writeSpan (s.wave w).cluster ps (entryBytes (mapGet Entry.zero p.stack b))
      .ok (s.modSplit w k (fun p =>
        { p with stack := mapSet Entry.zero (mapDel p.stack b) p.depth e, depth := p.depth + 1,
                 next := s.clk + 16 }))

/-- Pops the top entry: the state after it, or the DIVSTACK subcode. A pop that leaves fewer than 8 entries in the core
brings one back and holds the split for 16 clk (R90). -/
def State.popEntry (s : State) (w k : Nat) : Except Nat State :=
  let p := (s.wave w).split k
  let d := p.depth - 1
  if d < 8 then
    .ok (s.modSplit w k (fun p => { p with stack := mapDel p.stack d, depth := d }))
  else
    let b := d - 8
    match s.spillPa w k b .read with
    | none => .error 3
    | some ps =>
      let e := entryOfBytes (s.readSpan ps)
      if !e.ok then .error 3
      else .ok (s.modSplit w k (fun p =>
        { p with stack := mapSet Entry.zero (mapDel p.stack d) b e, depth := d, next := s.clk + 16 }))

/-- The top entry of a split's stack. -/
def State.topEntry (s : State) (w k : Nat) : Option Entry :=
  let d := ((s.wave w).split k).depth
  if d = 0 then none else some (s.stackAt w k (d - 1))

/-! ### The end of a wave -/

/-- The wave has ended: every split is FREE (R100), and no handler is to rebuild them (R289). -/
def Wave.ended (x : Wave) : Bool := (!x.csr.handler || x.died) && (List.range 4).all (fun k => (x.split k).state = 0)

/-- The wave is over: it has ended, or died; a parked wave that lives is not over. -/
def Wave.isOver (x : Wave) : Bool := x.died || (x.life ≠ .parked && x.ended)

/-- The wave has ended: its place in its gang's barriers is withdrawn (R174). -/
def State.endWave (s : State) (w : Nat) : State :=
  let x := s.wave w
  s.modGang x.gang (fun g => g.endWave x.idx s.clk)

/-- A record of KIND 5, wave death (R283, R297). -/
def deathRec (x : Wave) (cause : Nat) (va : Dword) : FaultRec :=
  { kind := 5, req := 0, access := 0, asid := x.csr.asid, cluster := x.cluster, world := x.csr.world,
    launchid := x.csr.launchid, cause, va, scope := 0xFF, pages := [] }

/-- The wave dies (R283): every split becomes FREE, the forced leave of R167 is made, and the task remembers it. Issued
stores and engine commands run on. A death by double trap or by firmware sends a record. A parked wave that dies is no
parked member any more (R168). -/
def State.die (s : State) (w : Nat) (rec : Option FaultRec) : State :=
  let s := if (s.wave w).life = .parked ∧ !(s.wave w).died then s.countParked w (· - 1) else s
  let s := s.modWave w (fun x =>
    { x with splits := x.splits.map (fun p => { Split.free with next := p.next }), board := [], died := true,
             hops := x.hops.filter (fun h => !h.holding), ra := none, preempt := false, preemptLater := false,
             pend := none })
  let s := s.forcedLeave w (List.range 8)
  let s := s.endWave w
  let s := s.modTask (s.gang (s.wave w).gang).task (fun t => { t with anyDied := true })
  match rec with
  | none => s
  | some r => s.sendFault r

/-! ### Taking a trap (R280) -/

/-- TRAPARG of UNCORR of a path (R132). -/
def uncArg (va path : Nat) : Dword := BitVec.ofNat 64 (va % 2 ^ 55 + 2 ^ 61 * path)

/-- The command is an NLGRID or NLPAIRS that is accepted and has not written its sd (R359). -/
def nlAwaited (c : NlCmd) : Bool :=
  c.arrived && !c.turned && (match c.op with
    | .nlgrid .. => true
    | .nlpairs .. => true
    | _ => false)

/-- Some NLGRID or NLPAIRS of the wave is accepted and has not written its sd (R359). -/
def State.nlBusy (s : State) (w : Nat) : Bool := s.nl.any (fun c => c.wave = w && nlAwaited c)

/-- A held clause arrival that stands is kept in the slot's WAITING mask (R168). -/
def Wave.keepArrivals (x : Wave) : List HomeOp → Wave
  | [] => x
  | h :: r =>
    let x := if h.holding && h.arrived.isSome then
      match x.findMemb h.hnd with
      | some j => x.modMemb j (fun m => { m with waiting := m.waiting ||| h.arr })
      | Option.none => x
    else x
    x.keepArrivals r

/-- The neighbour-list commands that hold a split of the wave and are undone by its interruption: NLGRID and NLPAIRS before
they are accepted, NLSTAT always (R155, R359). -/
def nlAbandoned (w : Nat) (c : NlCmd) : Bool :=
  c.wave = w && (match c.op with
    | .nlgrid .. => !c.arrived
    | .nlpairs .. => !c.arrived
    | .nlstat .. => true
    | _ => false)

/-- Of those, the ones that raised the CPY counter. -/
def nlCounted (c : NlCmd) : Bool :=
  match c.op with
  | .nlstat .. => false
  | _ => true

/-- A sleeping split at a clk: WAKE is what remains of its sleep, and at zero the split is READY (R101). -/
def Split.woken (p : Split) (clk : Nat) : Split :=
  if p.state ≠ 3 then p
  else if p.wakeAt ≤ clk then { p with state := 1, wake := 0 }
  else { p with wake := p.wakeAt - clk }

/-- Held instructions are abandoned (R155): what they had under way is dropped, but for arrivals that stand, and waits on
merge entries end (R286). A split whose NLGRID or NLPAIRS is accepted goes on waiting for sd (R359). -/
def State.abandonHeld (s : State) (w : Nat) : State :=
  let gone := s.nl.filter (fun c => nlAbandoned w c)
  let kept := (s.nl.filter (fun c => c.wave = w && nlAwaited c)).map NlCmd.split
  let s := { s with nl := s.nl.filter (fun c => !(nlAbandoned w c)) }
  s.modWave w (fun x =>
    let x := x.keepArrivals x.hops
    let x := if gone.isEmpty then x else x.dropCpys ((gone.filter nlCounted).map NlCmd.seq)
    { x with hops := x.hops.filter (fun h => !h.holding),
             splits := ((List.range x.splits.length).zip x.splits).map (fun e => { e.2 with
               wait := if kept.contains e.1 then e.2.wait else .none, claim := Option.none, held := false }) })

/-- What the entry of a trap ends: held instructions; a sleeping split keeps the clk that remain (R101); and no stall count
acts later (R44). -/
def State.abandon (s : State) (w : Nat) : State :=
  (s.abandonHeld w).modWave w (fun x =>
    { x with board := [], splits := x.splits.map (fun p => { p.woken s.clk with next := 0 }) })

/-- The handler's context on entry (R280): EXEC of all 64 lanes, at TRAPVEC. -/
def handlerContext (trapvec : Dword) : Split :=
  { Split.free with pc := trapvec, own := BitVec.allOnes 64, exec := BitVec.allOnes 64, state := 1 }

/-- The pending trap to be taken next (R282): the lowest split's, then the wave's. -/
def Wave.nextPend (x : Wave) : Option (Nat × TrapRec) :=
  match (List.range 4).findSome? (fun k => (x.split k).pend.map (fun t => (k, t))) with
  | some r => some r
  | Option.none => x.pend.map (fun t => (4, t))

/-- The earliest clk at which a split or context issues: a sleeping one not before WAKE is zero (R40, R101). -/
def Split.readyClk (p : Split) : Nat := if p.state = 3 then max p.next p.wakeAt else p.next

/-- Split or context `k` of a wave issues from its ready clk on: it is READY, or asleep until then, and waits on nothing, and
its wave is resident, not in phase 1 of a pre-emption, and has no trap to take first, which waits where the wave runs ahead. -/
def Wave.canIssue (x : Wave) (k : Nat) : Bool :=
  x.life = .resident && !x.died && ((x.split k).state = 1 || (x.split k).state = 3) && (x.split k).wait = .none &&
  (if x.csr.handler then k = 4
    else decide (k < 4) && !x.preempt &&
      (match x.ra with
        | some r => r.split = k && !r.stopped
        | Option.none => x.nextPend.isNone))

/-- A split or context of the wave is ready at a clk (R95). -/
def Wave.hasReady (x : Wave) (clk : Nat) : Bool :=
  (List.range 5).any (fun k => x.canIssue k && !(x.split k).held && decide ((x.split k).readyClk ≤ clk))

/-- Takes a trap raised by split `k`, or by the wave as a whole for `k` = 4 (R280). A wave that had no ready split has one from now
on (R95). -/
def State.enterTrap (s : State) (w k : Nat) (t : TrapRec) : State :=
  let ready := (s.wave w).hasReady s.clk
  (s.abandon w).modWave w (fun x =>
    let sp := if k < 4 then x.splits.set k { x.split k with pc := t.pc, pend := none } else x.splits
    { x with
      readySince := if ready then x.readySince else s.clk, starving := x.starving && ready,
      splits := sp.set 4 (handlerContext x.csr.trapvec), mode := 0,
      pend := if k < 4 then x.pend else none,
      csr := { x.csr with
        tsave := (List.range 8).map (fun i => mapGet 0 x.s (88 + i)), tsavemode := x.mode,
        trapcause := t.cause, trappc := t.pc, traparg := t.arg, trapsplit := k, handler := true } })

/-- Raises a trap (R280, R283): in handler mode and with TRAPVEC = 0 it is fatal; while an accepted NLGRID or NLPAIRS has
not written its sd the trap waits (R359); otherwise it is taken. -/
def State.raiseTrap (s : State) (w k : Nat) (t : TrapRec) : State :=
  let x := s.wave w
  if x.csr.handler then s.die w (some (deathRec x t.cause (x.split 4).pc))
  else if x.csr.trapvec = 0 then s.die w none
  else if s.nlBusy w then
    (if k < 4 then s.modSplit w k (fun p => { p with pend := some t })
      else s.modWave w (fun x => { x with pend := some t }))
  else s.enterTrap w k t

/-- Takes a pending trap of the wave, where one may be taken now (R281, R282). -/
def State.takePending (s : State) (w : Nat) : State :=
  let x := s.wave w
  if x.life = .resident && !x.csr.handler && !x.died && x.ra.isNone then
    match x.nextPend with
    | some (k, t) =>
      if s.nlBusy w then s
      else (s.modWave w (fun x => { (x.modSplit k (fun p => { p with pend := none })) with
        pend := if k = 4 then none else x.pend })).raiseTrap w k t
    | none => s
  else s

/-- The split table is consistent (R281). -/
def State.tableOk (s : State) (w : Nat) : Bool :=
  let x := s.wave w
  let ks := (List.range 4).filter (fun k => (x.split k).state ≠ 0)
  let disjoint := fun (ms : List Mask) =>
    (ms.foldl (fun (r : Bool × Mask) m => (r.1 && decide (r.2 &&& m = 0), r.2 ||| m)) (true, 0#64)).1
  let ps := fun k => ((List.range (x.split k).depth).map (fun i => s.stackAt w k i)).filter Entry.isP
  ks.all (fun k => canonical (x.split k).pc && (x.split k).pc.extractLsb' 0 2 = 0) &&
    disjoint (ks.map (fun k => (x.split k).own)) &&
    ks.all (fun k => (x.split k).exec &&& ~~~ (s.arm w k) = 0) &&
    ks.all (fun k => (ps k).all (fun e => e.mask &&& ~~~ (x.split k).own = 0) && disjoint ((ps k).map Entry.mask))

/-- RTE (R281): the check of the split table, the saved scalars and MODE, the raising split's PC, and a pending trap. A
split in CLAIM issues its REGCLAIM again (R102); a sleeping split sleeps for the clk that remain (R101). -/
def State.returnTrap (s : State) (w : Nat) : State :=
  if !(s.tableOk w) then s.die w none
  else
    let s := s.modWave w (fun x =>
      let sp := if x.csr.trapsplit < 4 then
          x.splits.set x.csr.trapsplit { x.split x.csr.trapsplit with pc := x.csr.trappc }
        else x.splits
      let sp := sp.map (fun p => { p with
        state := if p.state = 4 then 1 else p.state,
        wakeAt := if p.state = 3 then s.clk + p.wake else p.wakeAt })
      { x with
        splits := sp.set 4 Split.free,
        s := (List.range 8).foldl (fun m i => mapSet 0 m (88 + i) (x.csr.tsave.getD i 0)) x.s,
        mode := x.csr.tsavemode, csr := { x.csr with handler := false },
        preempt := x.preempt || x.preemptLater, preemptLater := false })
    if (s.wave w).ended then s.endWave w else s.takePending w

/-! ### Memory checks and waiting for a page -/

/-- What checking one address finds (R128). -/
inductive Check where
  | ok (pa : Nat)
  /-- A trap of this cause. -/
  | trap (cause : Nat)
  /-- A translation fault: whether of a bad entry. -/
  | miss (bad : Bool)
  deriving DecidableEq, Repr

/-- Checks one address under R128: canonical, aligned, translated, permitted. -/
def checkVa (s : State) (sp : Space) (acc : Access) (size : Nat) (va : Dword) : Check :=
  if !(canonical va) then .trap causeProt
  else if va.toNat % size ≠ 0 then .trap causeMisalign
  else match translate s sp va with
    | .miss => .miss false
    | .bad => .miss true
    | .ok pa pte => if permitted s sp acc pa pte then .ok pa else .trap causeProt

/-- A record of a wave's fault on one page (R297): KIND 1, or KIND 3 for a bad entry. -/
def waveRec (x : Wave) (bad : Bool) (acc scope : Nat) (va : Dword) (pages : List Nat) : FaultRec :=
  { kind := if bad then 3 else 1, req := 0, access := acc, asid := x.csr.asid, cluster := x.cluster,
    world := x.csr.world, launchid := x.csr.launchid, cause := 0, va, scope, pages }

/-- A held instruction of split `k`: it is tried again at the next clk, and until then it is not ready (R95). -/
def State.holdSplit (s : State) (w k : Nat) : State :=
  s.modWave w (fun x =>
    { x.modSplit k (fun q => { q with next := s.clk + 1, held := true }) with starving := false })

/-- A fault of a wave on a page finds the merge table full and the page absent (R296). -/
def State.mergeWaits (s : State) (w : Nat) (va : Dword) : Bool :=
  let sec := sectionOf (s.wave w).cluster
  !(s.hasMerge sec (s.wave w).csr.asid (pageOf va)) && s.mergeFull sec

/-- Split `k` sends or joins the record of a page's merge entry and waits on it (R296). While the merge table is full
it has no entry to wait on, is not ready, and tries again. -/
def State.waitPage (s : State) (w k : Nat) (bad : Bool) (acc scope : Nat) (va : Dword) : State :=
  let x := s.wave w
  let sec := sectionOf x.cluster
  let page := pageOf va
  if s.mergeWaits w va then s.holdSplit w k
  else
    (s.mergeFault sec x.csr.asid page (waveRec x bad acc (if bad then 0xFF else scope) va [page])).modSplit w k
      (fun p => { p with wait := .merge x.csr.asid page va })

/-- Free space of a cluster's FIFO banks (R299): 131,072 bytes a bank, less checkpoints, rows and threads. -/
def State.fifoFree (s : State) (c : Nat) : Nat :=
  let cl := s.cluster c
  let total := 131072 * (cl.banks.filter (fun b => b = 2)).length
  let cps := (s.waves.filter (fun e => e.2.cluster = c && e.2.ra.isSome)).foldl
    (fun n e => n + 2048 + 2048 * e.2.blocks) 0
  let rows := fun (b : Booth) => b.rows.foldl (fun n r => n + r.bytes) 0
  total - cps - cl.booths.foldl (fun n b => n + rows b) 0 - cl.tiles.foldl (fun n t => n + rows t.booth) 0 -
    cl.spawnQ.foldl (fun n b => n + rows b) 0

/-- The checkpoint of a wave (R299). -/
def Wave.checkpoint (x : Wave) : Checkpoint :=
  { v := x.v, s := x.s, p := x.p, h := x.h, mode := x.mode, fpstat := x.csr.fpstat, splits := x.splits,
    board := x.board, counters := x.counters, badRegs := x.badRegs }

/-- A run-ahead enters a page in a section's merge table; a bad entry's record is sent at once (R294, R299). -/
def State.addMerge (s : State) (sec : Nat) (bad fresh : Bool) (rec : FaultRec) : State :=
  if fresh then
    let s := { s with merges := s.merges ++ [{ sec, asid := rec.asid, page := pageOf rec.va }] }
    if bad then s.sendFault rec else s
  else s

/-- A fault of split `k` on the global page of `va` (R299): run-ahead starts where it may, else the split waits. `dests`
are I's register destinations with the lanes poisoned; `scope` is I's SCOPE where I is an atomic. -/
def State.pageFault (s : State) (w k : Nat) (ahead bad : Bool) (acc scope : Nat) (va next : Dword)
    (dests : List (Reg × Mask)) : State :=
  let x := s.wave w
  let sec := sectionOf x.cluster
  let page := pageOf va
  if ahead && !(x.csr.wavectl.getLsbD 1) && !x.csr.handler && x.ra.isNone &&
      decide (2048 + 2048 * x.blocks ≤ s.fifoFree x.cluster) &&
      (s.hasMerge sec x.csr.asid page || !(s.mergeFull sec)) then
    let fresh := !(s.hasMerge sec x.csr.asid page)
    let s := s.addMerge sec bad fresh (waveRec x true acc 0xFF va [page])
    s.modWave w (fun x =>
      { x.modSplit k (fun p => { p with pc := next, next := s.clk + 1 }) with
        ra := some { cp := x.checkpoint, split := k, asid := x.csr.asid, page, va, access := acc, scope,
                     poison := dests, pages := [page], created := if fresh && !bad then [page] else [], insns := 0,
                     stopped := false, outcome := 0, fromSeq := x.seq } })
  else s.waitPage w k bad acc scope va

end Sys2Proof.Machine
end

