-- ==== Sys2Proof/Machine/Issue.lean ====
section
/-! DEFINITION. Issuing one instruction: the checks of R49 in their order, the holds, run-ahead (R299), the effect, and
retirement with the stall count (R40). Every instruction of a split is one call of `issue`. -/

namespace Sys2Proof.Machine

/-- How an instruction acts during run-ahead (R299). -/
inductive RaClass where
  /-- It executes, and poison passes from its sources to its results. -/
  | exec
  /-- It executes and settles the poison of its destinations itself, or only looks pages up. -/
  | own
  /-- It is suppressed, and its destinations are poisoned. -/
  | suppress
  /-- It ends the run-ahead without executing. -/
  | stop
  deriving DecidableEq, Repr

/-- What an instruction states about itself before it executes. -/
structure Pre where
  /-- Privileged (R279), and the TRAPARG of its PRIV. -/
  priv : Bool := false
  privArg : Nat := 0
  /-- It forms ACTIVE, so a reserved guard is ILLEGAL (R38). -/
  lanes : Bool := false
  /-- The types it accepts, where it depends on type (R38). -/
  types : Option (List Nat) := none
  /-- Its operand codes are legal (R27, R31 to R36). -/
  ok : Bool := true
  /-- The registers it reads (R43), and those it writes. -/
  reads : List Reg := []
  writes : List Reg := []
  /-- Paths whose failed operations it must not count complete, and how many of their last operations it does not count
  (R132, R223). -/
  paths : List Nat := []
  keep : Nat := 0
  ra : RaClass := .exec
  /-- Registers whose poison ends a run-ahead: a branch's condition or target (R299). -/
  raStop : List Reg := []
  /-- The lanes of a source register that a result lane takes; a scalar result takes those of lane 0 where `oneLane`
  holds, and any lane otherwise. -/
  fromLanes : Reg → Nat → List Nat := fun _ L => [L]
  oneLane : Bool := false
  /-- The lanes of the destination that are written, where they are not ACTIVE, or all bits of a predicate. -/
  dstLanes : Option Mask := none
  /-- 64-lane FP64 arithmetic, which occupies its port for 2 clk (R40). -/
  slow : Bool := false
  /-- It is a YIELD, or acts as one (R101). -/
  yields : Bool := false
  /-- The token it names (R240, R249). -/
  token : Option Nat := none
  /-- Pending tokens and registers hold it (R240, R248). -/
  holds : Bool := true
  /-- It is not held by anything else that would end a run-ahead (R253). -/
  ahead : Bool := true

/-- What executing an instruction answers. -/
inductive Res where
  /-- It has its effect, and the next instruction follows. -/
  | done (s : State)
  /-- It has its effect and has set the PC of its split itself. -/
  | jump (s : State)
  /-- It raises a precise trap with no effect; TRAPPC is its own address. -/
  | trap (cause : Nat) (arg : Dword)
  /-- Its effect is a trap with this TRAPPC. -/
  | raise (cause : Nat) (pc arg : Dword)
  /-- It is held and has had no effect: it is tried again. -/
  | hold
  /-- A holding instruction is on its way: the split's PC stays, and an answer completes it (R155). -/
  | wait (s : State)
  /-- A page does not translate (R128, R156): whether run-ahead may start, a bad entry, the access, SCOPE, the
  address, and the destinations poisoned. -/
  | xlate (ahead bad : Bool) (acc scope : Nat) (va : Dword) (dests : List (Reg × Mask))
  /-- The wave is gone, or the machine changed in another way: no retirement. -/
  | quit (s : State)

/-- The clk that remain until every pending fixed-latency result to `r` is readable, or 0. -/
def remaining (clk : Nat) (board : List Producer) (r : Reg) : Nat :=
  board.foldl (fun n p => if p.reg = r then max n (p.ready - clk) else n) 0

/-- TRAPARG of STALLSHORT (R43): the file and register, and the clk that remain. -/
def stallArg (r : Reg) (rem : Nat) : Dword :=
  let (f, n) : Nat × Nat := match r with
    | .s n => (0, n)
    | .v n => (1, n)
    | .p n => (2, n)
    | .exec _ => (2, 8)
    | .h n => (3, n)
    | .mode => (3, 16)
    | .k n => (3, 32 + n)
    | .splits => (3, 48)
  BitVec.ofNat 64 (n % 128 + 256 * f + 1024 * (rem % 64))

/-- The first register read whose fixed-latency result is not readable yet (R43). Which one STALLSHORT reports where
several are short the spec does not say, but for the halves of a pair: the model's choice is the first in the order of
the instruction's `Pre.reads` (DESIGN CHOICE, log 57). -/
def shortReg (clk : Nat) (board : List Producer) : List Reg → Option (Reg × Nat)
  | [] => none
  | r :: rest =>
    let n := remaining clk board r
    if 0 < n then some (r, n) else shortReg clk board rest

/-- The token whose call marks vector register `n` pending (R248), lowest first. -/
def Wave.pendingBy (x : Wave) (n : Nat) : Option Nat :=
  (List.range 8).find? (fun i =>
    let t := mapGet Token.idle x.k i
    decide (t.dreg ≤ n) && decide (n < t.dreg + t.dcount))

/-- The tokens that mark one of these registers pending. -/
def Wave.pendingTokens (x : Wave) (rs : List Reg) : List Nat :=
  rs.filterMap (fun r => match r with | .v n => x.pendingBy n | _ => Option.none)

/-- The lowest of some numbers. -/
def lowestOf : List Nat → Option Nat
  | [] => none
  | n :: r => some (r.foldl min n)

/-- What tokens make of an instruction (R240, R248 to R250). -/
inductive TokenStop where
  | free
  | held
  /-- The failure of this token is delivered. -/
  | deliver (n : Nat)
  deriving DecidableEq, Repr

/-- A pending token that the instruction names holds it; a recorded failure is delivered, the lowest token's first; and a
pending register holds. A handler's instruction on a failed call's register proceeds once the token has resolved. -/
def Wave.tokenStop (x : Wave) (p : Pre) : TokenStop :=
  if !p.holds then .free else
  let tok := fun n => mapGet Token.idle x.k n
  let marks := x.pendingTokens (p.reads ++ p.writes)
  let named := match p.token with
    | some n => if (tok n).failmask ≠ 0 then [n] else []
    | Option.none => []
  let pendingNamed : Bool := match p.token with
    | some n => (tok n).pending
    | Option.none => false
  let failed := named ++ (if x.csr.handler then [] else marks.filter (fun n => !(tok n).pending))
  if pendingNamed then .held
  else match lowestOf failed with
    | some n => .deliver n
    | Option.none => if marks.any (fun n => (tok n).pending) then .held else .free

/-- TRAPARG of a failed call (R250). -/
def weightArg (k : Nat) (t : Token) : Dword :=
  BitVec.ofNat 64 (t.failmask.toNat % 2 ^ 32 + 2 ^ 32 * (t.id % 2 ^ 20) + 2 ^ 52 * t.subcode + 2 ^ 56 * k +
    (if t.failmask.toNat < 2 ^ 32 then 0 else 2 ^ 59))

/-- Delivers a failure (R250): the failure and every pending mark of the call are cleared, and the trap is taken. -/
def State.deliver (s : State) (w k n : Nat) (pc : Dword) : State :=
  let t := s.readK w n
  let s := s.modWave w (fun x => x.modToken n (fun _ => Token.idle))
  s.raiseTrap w k { cause := if t.unc then causeUncorr else causeWeight, pc, arg := weightArg n t }

/-- The earliest clk at which split `k` issues after an instruction with stall count `S` issued at this clk (R40). -/
def State.nextAfter (s : State) (w k S : Nat) : Nat :=
  if S = 0 then (s.wave w).board.foldl (fun n q => if q.split = k then max n q.ready else n) (s.clk + 1) else s.clk + S

/-- The same of the stall count in a word. -/
def State.nextIssue (s : State) (w k : Nat) (S : Stall) : Nat := s.nextAfter w k S.toNat

/-- A port that has issued nothing: no split has the number 5. -/
def noIssue : Nat × Nat × Bool := (0, 5, false)

/-- The number of an issue port: that of a wave's core and slot (R11). -/
def Wave.port (x : Wave) : Nat := 8 * x.cluster + 2 * x.core + x.slot % 2

/-- A token that an instruction writes has no error any more (R301); the writes of other registers end theirs. -/
def tokenErrors (writes : List Reg) (bs : List (Reg × Mask)) : List (Reg × Mask) :=
  bs.filter (fun e => match e.1 with
    | .k _ => !(writes.contains e.1)
    | _ => true)

/-- A port has issued an instruction of split or context `k` of a wave (R40, R95). -/
def State.portTaken (s : State) (port w k : Nat) (slow yields : Bool) : State :=
  { s with ports := mapSet 0 s.ports port (s.clk + (if slow then 2 else 1)),
           lastIssue := mapSet noIssue s.lastIssue port (w, k, yields) }

/-- The same, for an instruction that does not retire: the wave has issued. -/
def State.tookPort (s : State) (w k : Nat) : State :=
  (s.modWave w (fun x => { x with readySince := s.clk, starving := false })).portTaken (s.wave w).port w k false false

/-- An instruction issues and traps at its issue, or has another effect with which it does not retire. -/
def State.issued (s : State) (f : Focus) : State := s.tookPort f.wave f.split

/-- An instruction retires (R40, R95): the stall count, the port, and the token whose error it has overwritten. -/
def State.retire (s : State) (f : Focus) (S : Stall) (p : Pre) : State :=
  let next := s.nextIssue f.wave f.split S
  (s.modWave f.wave (fun x =>
    { x.modSplit f.split (fun q => { q with next := max q.next next, wait := .none }) with
      readySince := s.clk, starving := false, badRegs := tokenErrors p.writes x.badRegs })).portTaken
    (s.wave f.wave).port f.wave f.split p.slow p.yields

/-- The PC of a split or context. -/
def State.setPc (s : State) (f : Focus) (pc : Dword) : State := s.modSplit f.wave f.split (fun q => { q with pc })

/-- A run-ahead ends (R299). -/
def State.stopAhead (s : State) (w : Nat) : State :=
  s.modWave w (fun x => { x with ra := x.ra.map (fun r => { r with stopped := true }) })

/-- Poison of a result lane: a poisoned source lane, or any poison of a source without lanes (R299). -/
def poisonOf (ps : List (Reg × Mask)) (p : Pre) (L : Nat) : Bool :=
  p.reads.any (fun r =>
    let m := maskAt ps r
    match r with
    | .v _ | .p _ | .exec _ => (p.fromLanes r L).any (fun j => m.getLsbD j)
    | _ => m ≠ 0)

/-- Poison of a result without lanes. -/
def poisonScalar (ps : List (Reg × Mask)) (p : Pre) : Bool :=
  p.reads.any (fun r =>
    let m := maskAt ps r
    match r with
    | .v _ => if p.oneLane then (p.fromLanes r 0).any (fun j => m.getLsbD j) else m ≠ 0
    | _ => m ≠ 0)

/-- The lanes or bits of a destination that an instruction writes. -/
def Pre.written (p : Pre) (act : Mask) : Reg → Mask
  | .v _ => p.dstLanes.getD act
  | .p _ | .exec _ => p.dstLanes.getD (BitVec.allOnes 64)
  | _ => BitVec.allOnes 64

/-- Poison after an instruction that executed: each destination takes it from its sources. -/
def State.spreadPoison (s : State) (w : Nat) (act : Mask) (p : Pre) : State :=
  s.modWave w (fun x => { x with ra := x.ra.map (fun r =>
    { r with
      insns := r.insns + 1,
      poison := p.writes.foldl (fun ps d =>
        setMask ps d (p.written act d)
          (match d with
            | .v _ | .p _ | .exec _ => Mask.ofFn (poisonOf r.poison p)
            | _ => if poisonScalar r.poison p then BitVec.allOnes 64 else 0)) r.poison }) })

/-- Poison after a suppressed instruction (R299). -/
def State.poisonAll (s : State) (w : Nat) (act : Mask) (p : Pre) : State :=
  s.modWave w (fun x => { x with ra := x.ra.map (fun r =>
    { r with
      insns := r.insns + 1,
      poison := p.writes.foldl (fun ps d => setMask ps d (p.written act d) (BitVec.allOnes 64)) r.poison }) })

/-- A trap condition of R49, items 5 to 8: the cause and TRAPARG of the first that an instruction meets. -/
def earlyTrap (s : State) (f : Focus) (p : Pre) : Option (Nat × Dword) :=
  let x := s.wave f.wave
  if p.priv && !x.csr.handler && !x.csr.priv then some (causePriv, BitVec.ofNat 64 p.privArg)
  else if p.lanes && guardBad (s.readMode f.wave) then some (causeIllegal, 0)
  else if (match p.types with | none => false | some ts => !(ts.contains (modeType (s.readMode f.wave)))) then
    some (causeIllegal, 0)
  else if !p.ok then some (causeIllopnd, 0)
  else match (if x.csr.wavectl.getLsbD 0 then shortReg s.clk x.board p.reads else none) with
    | some (r, n) => some (causeStallshort, stallArg r n)
    | none => none

/-- A write of EXEC reads the split table: it stores value ∧ ARM (R87). -/
def Pre.forArm (p : Pre) : List Reg :=
  if p.writes.any (fun r => match r with | .exec _ => true | _ => false) then [.splits] else []

/-- A register with an uncorrectable error is read: TRAPARG of its UNCORR (R301). -/
def badRead (x : Wave) (p : Pre) : Option Dword :=
  ((p.reads ++ p.forArm).find? (fun r => maskAt x.badRegs r ≠ 0)).map (fun r => stallArg r 0 ||| (1#64 <<< 60))

/-- A failed operation whose trap is due before this instruction (R132). -/
def dueUnc (x : Wave) (p : Pre) : Option UncRec :=
  x.uncs.find? (fun u => u.regs.any (fun r => p.reads.contains r) || (p.paths.contains u.path && decide (p.keep ≤ u.later + u.ahead)))

/-- A held instruction: the split tries again at the next clk, and until then it is not ready (R95). -/
def State.held (s : State) (f : Focus) : State := s.holdSplit f.wave f.split

/-- The run-ahead of a wave has reached one of its limits, or an event ends it (R299). -/
def RunAhead.over (r : RunAhead) (preempt : Bool) : Bool :=
  decide (64 ≤ r.insns) || decide (16 ≤ r.pages.length) || preempt || r.outcome ≠ 0

/-- An instruction issued during the run-ahead of its wave (R299). -/
def issueAhead (S : Stall) (p : Pre) (body : Focus → State → Res) (f : Focus) (r : RunAhead) (s : State) : State :=
  let x := s.wave f.wave
  if r.stopped || f.split ≠ r.split then s.held f
  else if r.over x.preempt || (earlyTrap s f p).isSome || (badRead x p).isSome || (dueUnc x p).isSome ||
      x.tokenStop p ≠ .free || !p.ahead || p.raStop.any (fun q => maskAt r.poison q ≠ 0) then
    s.stopAhead f.wave
  else
    let act := s.active f.wave f.split
    match p.ra with
    | .stop => s.stopAhead f.wave
    | .suppress => ((s.poisonAll f.wave act p).setPc f f.next).retire f S p
    | .exec =>
      (match body f s with
        | .done s' => ((s'.spreadPoison f.wave act p).setPc f f.next).retire f S p
        | .jump s' => (s'.spreadPoison f.wave act p).retire f S p
        | _ => s.stopAhead f.wave)
    | .own =>
      (match body f s with
        | .done s' => ((s'.modWave f.wave (fun x =>
            { x with ra := x.ra.map (fun r => { r with insns := r.insns + 1 }) })).setPc f f.next).retire f S p
        | _ => s.stopAhead f.wave)

/-- What an instruction's answer makes of the state (R40, R49, R155, R280). -/
def State.settleRes (s : State) (f : Focus) (S : Stall) (p : Pre) : Res → State
  | .done s' => (s'.setPc f f.next).retire f S p
  | .jump s' => s'.retire f S p
  | .trap c a => (s.issued f).raiseTrap f.wave f.split { cause := c, pc := f.pc, arg := a }
  | .raise c pc a => (s.issued f).raiseTrap f.wave f.split { cause := c, pc, arg := a }
  | .hold => s.held f
  | .wait s' => (s'.retire f S p).modSplit f.wave f.split (fun q => { q with wait := .home })
  | .xlate ahead bad acc scope va d =>
    if s.mergeWaits f.wave va then s.held f else (s.issued f).pageFault f.wave f.split ahead bad acc scope va f.next d
  | .quit s' => s'

/-- What stops an instruction before it executes (R49, items 5 to 8, and R132, R248, R301), or nothing. -/
def preStop (s : State) (f : Focus) (p : Pre) : Option State :=
  let x := s.wave f.wave
  match earlyTrap s f p with
  | some (c, a) => some ((s.issued f).raiseTrap f.wave f.split { cause := c, pc := f.pc, arg := a })
  | none =>
    match badRead x p with
    | some a => some ((s.issued f).raiseTrap f.wave f.split { cause := causeUncorr, pc := f.pc, arg := a })
    | none =>
      match dueUnc x p with
      | some u =>
        some (((s.issued f).modWave f.wave (fun x => { x with uncs := x.uncs.erase u })).raiseTrap f.wave f.split
          { cause := u.cause, pc := f.pc, arg := u.arg })
      | none =>
        match x.tokenStop p with
        | .free => none
        | .held => some (s.held f)
        | .deliver n => some ((s.issued f).deliver f.wave f.split n f.pc)

/-- Issues an instruction with stall count `S`: the checks of R49 in order, the holds of R248, then its effect. -/
def issue (S : Stall) (pre : Focus → State → Pre) (body : Focus → State → Res) (s : State) :
    Host.Outcome State Fault Refusal :=
  match s.focus with
  | none => .fault .noContext
  | some f =>
    let p := pre f s
    match (s.wave f.wave).ra with
    | some r => .next (issueAhead S p body f r s)
    | none =>
      match preStop s f p with
      | some s' => .next s'
      | none => .next (s.settleRes f S p (body f s))

/-- A holding instruction of split `k` completes (R155): the split goes on at the next instruction as R40 says of S. The next
address and S are those of the held operation. -/
def State.release (s : State) (w k : Nat) (next : Dword) (S : Nat) : State :=
  s.modSplit w k (fun q => { q with pc := next, wait := .none, next := s.nextAfter w k S })

end Sys2Proof.Machine
end

