-- ==== Sys2Proof/Machine/Flags.lean ====
section
/-! DEFINITION. The sticky flags of vector instructions and the FPEXC trap (R68, R69). -/

namespace Sys2Proof.Machine

/-- The union of the flags that lanes raised: pairs of a lane and its flags. -/
def unionFlags (fl : List (Nat × Nat)) : Nat := fl.foldl (fun m e => m ||| e.2) 0

/-- WAVECTL.FPEN: the enabled flags (R69, R285). -/
def Wave.fpen (x : Wave) : Nat := (x.csr.wavectl.extractLsb' 8 6).toNat

/-- TRAPARG of FPEXC where a lane raised an enabled flag (R69): the union of the flags, and the lowest such lane. -/
def fpTrap (x : Wave) (fl : List (Nat × Nat)) : Option Dword :=
  match fl.find? (fun e => e.2 &&& x.fpen ≠ 0) with
  | none => none
  | some e => some (BitVec.ofNat 64 (unionFlags fl + 256 * e.1))

/-- The flags of the ACTIVE lanes are ORed into FPSTAT (R68). -/
def State.raiseFlags (s : State) (w : Nat) (fl : List (Nat × Nat)) : State :=
  s.modWave w (fun x => { x with csr := { x.csr with
    fpstat := x.csr.fpstat ||| BitVec.ofNat 32 (unionFlags fl) } })

/-- A vector instruction's end (R68, R69): FPEXC with no effect, or its results `s'` and the flags. -/
def withFlags (s s' : State) (w : Nat) (fl : List (Nat × Nat)) : Res :=
  match fpTrap (s.wave w) fl with
  | some a => .trap causeFpexc a
  | none => .done (s'.raiseFlags w fl)

end Sys2Proof.Machine
end

