-- ==== Sys2Proof/Machine/Fetch.lean ====
section
/-! DEFINITION. The choice of the split that a port issues (R95), and the fetch of its instruction (R26, R28, R49). -/

namespace Sys2Proof.Machine

/-! ### Fetch -/

/-- What fetching an instruction finds. -/
inductive Fetched where
  /-- An instruction of this many words. -/
  | ok (i : Instr) (n : Nat)
  /-- ILLEGAL: a reserved field or value, or a later word that may not be executed. -/
  | illegal
  /-- PROT of the first word. -/
  | prot
  /-- A word's page does not translate: whether of a bad entry, and the word's address. -/
  | miss (bad : Bool) (va : Dword)
  /-- A word lies in an uncorrectable sector: its address (R301). -/
  | unc (va : Dword)
  deriving DecidableEq, Repr

/-- The instruction word at a physical address, as the cluster reads it. -/
def State.codeWord (s : State) (c pa : Nat) : Word := BitVec.ofNat 32 (leNat (s.readBy c pa 4))

/-- Fetches an instruction word by word (R26), `ws` being the words found so far. -/
def fetchFrom (s : State) (sp : Space) (c : Nat) (pc : Dword) : Nat → List Word → Fetched
  | 0, _ => .illegal
  | n + 1, ws =>
    let va := pc + BitVec.ofNat 64 (4 * ws.length)
    match checkVa s sp .fetch 4 va with
    | .miss bad => .miss bad va
    | .trap _ => if ws.isEmpty then .prot else .illegal
    | .ok pa =>
      let ws' := ws ++ [s.codeWord c pa]
      if s.badAt pa 4 then .unc va
      else match decodeWords ws' with
        | .ok (i, _) => .ok i ws'.length
        | .error .truncated => fetchFrom s sp c pc n ws'
        | .error .reserved => .illegal

/-- Fetches the instruction of split or context `k` of a wave. -/
def State.fetch (s : State) (w k : Nat) : Fetched :=
  fetchFrom s (s.space w) (s.wave w).cluster ((s.wave w).split k).pc 3 []

/-! ### The choice of a split (R95) -/

/-- The wave is starving at a clk (R95): a split of it that is not held has been ready for 512 clk since the wave issued. -/
def Wave.starves (x : Wave) (t : Nat) : Bool :=
  x.starving || (List.range 5).any (fun k =>
    x.canIssue k && !(x.split k).held && decide (max x.readySince (x.split k).readyClk + 512 ≤ t))

/-- The splits and contexts of a port that issue from their ready clk on. -/
def State.candidates (s : State) (port : Nat) : List (Nat × Nat) :=
  s.waves.flatMap (fun e =>
    if e.2.port = port then ((List.range 5).filter (fun k => e.2.canIssue k)).map (fun k => (e.1, k)) else [])

/-- The earliest clk, not before now, at which the port is free and one of these issues. -/
def State.readyAt (s : State) (port : Nat) (cs : List (Nat × Nat)) : Nat :=
  match cs.map (fun c => ((s.wave c.1).split c.2).readyClk) with
  | [] => s.clk
  | n :: r => max (max s.clk (mapGet 0 s.ports port)) (r.foldl min n)

/-- One comes before another: the older wave; in a wave, the lower index. Waves of one age go by their numbers. -/
def State.olderThan (s : State) (a b : Nat × Nat) : Bool :=
  let x := (s.wave a.1).age
  let y := (s.wave b.1).age
  decide (x < y) || (x = y && (decide (a.1 < b.1) || (a.1 = b.1 && decide (a.2 < b.2))))

/-- The first by age of some splits. -/
def State.oldest (s : State) : List (Nat × Nat) → Option (Nat × Nat)
  | [] => none
  | c :: r => some (r.foldl (fun b d => if s.olderThan d b then d else b) c)

/-- The split a port chooses at a clk among ready ones (R95). -/
def State.choose (s : State) (port t : Nat) (rs : List (Nat × Nat)) : Option (Nat × Nat) :=
  let prio := fun (c : Nat × Nat) => (s.wave c.1).csr.prio
  let top := rs.foldl (fun n c => min n (prio c)) 4
  match s.oldest (rs.filter (fun c => (s.wave c.1).starves t)) with
  | some c => some c
  | none =>
    let (lw, lk, yielded) := mapGet noIssue s.lastIssue port
    if !yielded && rs.contains (lw, lk) && prio (lw, lk) = top then
      some (lw, lk)
    else s.oldest (rs.filter (fun c => prio c = top))

/-- The clk at which a port issues next, and the splits and contexts that may issue then. -/
def State.dueAt (s : State) (port : Nat) : Nat × List (Nat × Nat) :=
  let cs := s.candidates port
  let t := s.readyAt port cs
  (t, cs.filter (fun c => decide (((s.wave c.1).split c.2).readyClk ≤ t)))

/-- The split or context that a port issues next, and the clk at which it does. -/
def State.pick (s : State) (port : Nat) : Option (Nat × Nat × Nat) :=
  let (t, cs) := s.dueAt port
  (s.choose port t cs).map (fun c => (c.1, c.2, t))

/-- Split or context `k` of wave `w` is tried at clk `t`: a sleep that is over has ended. -/
def State.tryAt (s : State) (w k t : Nat) : State :=
  { s.modSplit w k (fun p => { p.woken t with held := false }) with clk := t }

/-- The state in which split or context `k` of wave `w` issues an instruction of `n` words at clk `t`. -/
def State.focusOn (s : State) (w k t n : Nat) : State :=
  let pc := ((s.wave w).split k).pc
  { s.tryAt w k t with focus := some { wave := w, split := k, pc, next := pc + BitVec.ofNat 64 (4 * n) } }

/-- What a fetch that finds no instruction does (R28, R49); it ends a run-ahead (R299). Of a word in an uncorrectable sector R301
gives no report; the model raises UNCORR at the instruction, in the form of path LD (DESIGN CHOICE, log 81). -/
def State.fetchStop (s : State) (w k : Nat) (r : Fetched) : State :=
  let pc := ((s.wave w).split k).pc
  if (s.wave w).ra.isSome then s.stopAhead w
  else match r with
    | .ok _ _ => s
    | .illegal => (s.tookPort w k).raiseTrap w k { cause := causeIllegal, pc, arg := 0 }
    | .prot => (s.tookPort w k).raiseTrap w k { cause := causeProt, pc, arg := pc }
    | .miss bad va => s.waitPage w k bad (accessBits .fetch) 0xFF va
    | .unc va => (s.tookPort w k).raiseTrap w k { cause := causeUncorr, pc, arg := uncArg va.toNat 0 }

end Sys2Proof.Machine
end

