-- ==== Sys2Proof/Machine/Flow.lean ====
section
/-! DEFINITION. The flow class (R86 to R103): branches, the divergence stack, joins, exits, sleep, and the exchange of
register blocks. LAUNCH is in Launch.lean. -/

namespace Sys2Proof.Machine

/-! ### Splits -/

/-- Split `by` sets the EXEC of split `k`, readable at the next clk; older results to it stay on their way (R40, R43). -/
def State.putExec (s : State) (w by' k : Nat) (m : Mask) : State :=
  (s.produce w by' 1 (.exec k) (BitVec.allOnes 64) [] ((s.wave w).split k).exec).modSplit w k (fun p => { p with exec := m })

/-- Goes to an address: the instruction sets the PC of its split. -/
def goTo (f : Focus) (s : State) (pc : Dword) : Res := .jump (s.setPc f pc)

/-- A DIVSTACK trap (R90). -/
def divstack (sub : Nat) : Res := .trap causeDivstack (BitVec.ofNat 64 sub)

/-- A branch target (R29, R30): the next instruction plus four times a signed offset. -/
def target {n : Nat} (f : Focus) (o : BitVec n) : Dword := f.next + 4 * o.signExtend 64

/-- The position and entry of the topmost J of split `k`'s stack, searched from position `d - 1` down. -/
def State.topJ (s : State) (w k : Nat) : Nat → Option (Nat × Entry)
  | 0 => none
  | d + 1 => if (s.stackAt w k d).isJ then some (d, s.stackAt w k d) else s.topJ w k d

/-- The LINK that a new split receives for the topmost J of split `k` (R91). -/
def State.linkFor (s : State) (w k : Nat) : Option Entry :=
  (s.topJ w k ((s.wave w).split k).depth).map (fun (pos, e) =>
    if e.kind = 3 then mkEntry 3 e.mask e.target e.homeSplit e.homeDepth else mkEntry 3 e.mask e.target k pos)

/-- The lowest FREE split of a wave. -/
def Wave.freeSplit (x : Wave) : Option Nat := (List.range 4).find? (fun k => (x.split k).state = 0)

/-- A branch divides its split (R91): the arm `p1`, `m1` stays, and `p2`, `m2` goes to a new split or a P entry. -/
def State.divide (s : State) (f : Focus) (S : Stall) (p1 : Dword) (m1 : Mask) (p2 : Dword) (m2 : Mask) : Res :=
  match (s.wave f.wave).freeSplit with
  | some n =>
    let link := s.linkFor f.wave f.split
    let q : Split := { Split.free with
      pc := p2, own := m2, exec := m2, state := 1, next := s.nextIssue f.wave f.split S,
      depth := if link.isSome then 1 else 0,
      stack := match link with
        | some e => [(0, e)]
        | none => [] }
    .jump ((((s.modWave f.wave (fun x => { x with splits := x.splits.set n q })).putExec f.wave f.split n m2).modSplit f.wave f.split
      (fun p => { p with own := p.own &&& ~~~ m2, pc := p1 })).putExec f.wave f.split f.split m1)
  | none =>
    match s.pushEntry f.wave f.split (mkEntry 2 m2 p2 0 0) with
    | .error sub => divstack sub
    | .ok s' => .jump ((s'.modSplit f.wave f.split (fun p => { p with pc := p1 })).putExec f.wave f.split f.split m1)

/-- A split holds a LINK to the instance at position `pos` of split `h` (R89). An entry whose spill page cannot be read counts
as none, which the spec leaves open (DESIGN CHOICE, log 62). -/
def State.hasLink (s : State) (w h pos k : Nat) : Bool :=
  let p := (s.wave w).split k
  p.state ≠ 0 && (List.range p.depth).any (fun i =>
    let e := s.stackAt w k i
    e.kind = 3 && e.homeSplit = h && e.homeDepth = pos)

/-- The instance at position `pos` of split `h` completes now (R92). -/
def State.joinReady (s : State) (w h pos : Nat) : Bool :=
  let home := (s.wave w).split h
  let top := fun k => (s.topEntry w k).getD Entry.zero
  home.state = 2 && home.depth = pos + 1 && (top h).kind = 1 &&
    ((List.range 4).filter (s.hasLink w h pos)).all (fun k =>
      ((s.wave w).split k).state = 2 && (top k).kind = 3 && (top k).homeSplit = h && (top k).homeDepth = pos)

/-- Split `k` arrives at the J entry `e` on top of its stack, and its instance completes where it can (R92, R93). -/
def State.arriveJoin (s : State) (f : Focus) (S : Stall) (e : Entry) : Res :=
  let w := f.wave
  let h := if e.kind = 3 then e.homeSplit else f.split
  let pos := if e.kind = 3 then e.homeDepth else ((s.wave w).split f.split).depth - 1
  let s := s.modSplit w f.split (fun p => { p with state := 2, pc := f.next })
  if !(s.joinReady w h pos) then .jump s
  else
    let links := (List.range 4).filter (s.hasLink w h pos)
    let mask := ((s.topEntry w h).getD Entry.zero).mask
    let own := links.foldl (fun m k => m ||| ((s.wave w).split k).own) ((s.wave w).split h).own
    let next := s.nextIssue w f.split S
    match s.popEntry w h with
    | .error sub => divstack sub
    | .ok s' => .jump ((s'.modWave w (fun x =>
        let x := links.foldl (fun x k => { x with splits := x.splits.set k Split.free }) x
        x.modSplit h (fun p => { p with own, state := 1, pc := e.target + 4, next := max p.next next }))).putExec w f.split h
          (mask &&& own))

/-- Takes the P entry `e` on top: pops it and runs its arm (R92). -/
def State.runP (s : State) (f : Focus) (e : Entry) : Res :=
  match s.popEntry f.wave f.split with
  | .error sub => divstack sub
  | .ok s' => .jump ((s'.modSplit f.wave f.split (fun p => { p with pc := e.target })).putExec f.wave f.split f.split e.mask)

/-- ILLEGAL in handler mode (R280), else what follows. -/
def notInHandler (f : Focus) (s : State) (r : Res) : Res :=
  if (s.wave f.wave).csr.handler then .trap causeIllegal 0 else r

/-! ### The branches (R91, R98, R99) -/

/-- The condition of a BRA, before NEG: p[cond − 8] (R29). -/
def condPred (c : BitVec 4) : Nat := c.toNat - 8

/-- A BRA with a condition divides its split. -/
def State.divides (s : State) (f : Focus) (c : BitVec 4) (n : BitVec 1) : Bool :=
  let p := s.readP f.wave (condPred c)
  let C := if n = 1 then ~~~ p else p
  let E := s.readExec f.wave f.split
  decide (E &&& C ≠ 0) && decide (E &&& ~~~ C ≠ 0)

/-- BRA (R91). -/
def execBra (c : BitVec 4) (n h : BitVec 1) (o : BitVec 15) (S : Stall) : State → Host.Outcome State Fault Refusal :=
  issue S
    (fun f s => { reads := if c = 0 then [] else [.p (condPred c), .exec f.split] ++ (if s.divides f c n then [.splits] else []),
                  raStop := if c = 0 then [] else [.p (condPred c), .exec f.split] })
    (fun f s =>
      if c = 0 then goTo f s (target f o)
      else
        let p := s.readP f.wave (condPred c)
        let C := if n = 1 then ~~~ p else p
        let E := s.readExec f.wave f.split
        let T := E &&& C
        let F := E &&& ~~~ C
        if T = 0 then .done s
        else if F = 0 then goTo f s (target f o)
        else if (s.wave f.wave).ra.isSome then .hold
        else notInHandler f s
          (if h = 0 then s.divide f S (target f o) T f.next F else s.divide f S f.next F (target f o) T))

/-- BRAZ: branches where a = 0 (R98). -/
def execBraz (d : Code) (o : BitVec 14) (S : Stall) (lit : Option Word) : State → Host.Outcome State Fault Refusal :=
  issue S (fun f _ => { ok := srcOk false d, reads := srcRegs f.split d, raStop := srcRegs f.split d })
    (fun f s => if s.readSrc f.wave f.split lit d = 0 then goTo f s (target f o) else .done s)

/-- BRANZ: branches where a ≠ 0 (R98). -/
def execBranz (d : Code) (o : BitVec 14) (S : Stall) (lit : Option Word) : State → Host.Outcome State Fault Refusal :=
  issue S (fun f _ => { ok := srcOk false d, reads := srcRegs f.split d, raStop := srcRegs f.split d })
    (fun f s => if s.readSrc f.wave f.split lit d = 0 then .done s else goTo f s (target f o))

/-- JOIN (R92). -/
def execJoin (S : Stall) : State → Host.Outcome State Fault Refusal :=
  issue S (fun _ _ => { reads := [.splits], ra := .stop })
    (fun f s => notInHandler f s
      (match s.topEntry f.wave f.split with
        | none => .done s
        | some e =>
          if e.isP then s.runP f e
          else if e.target ≠ f.pc then divstack 2
          else s.arriveJoin f S e))

/-- SETJ (R91). -/
def execSetj (o : BitVec 15) (S : Stall) : State → Host.Outcome State Fault Refusal :=
  issue S (fun f _ => { reads := [.exec f.split, .splits] })
    (fun f s => notInHandler f s
      (match s.pushEntry f.wave f.split (mkEntry 1 (s.readExec f.wave f.split) (target f o) 0 0) with
        | .error sub => divstack sub
        | .ok s' => .done s'))

/-- CALL: the link is written to s94:s95 (R99). -/
def execCall (o : BitVec 15) (S : Stall) : State → Host.Outcome State Fault Refusal :=
  issue S (fun _ _ => { writes := [.s 94, .s 95] })
    (fun f s => goTo f ((s.writeS f.wave f.split 1 94 (Dword.lo f.next)).writeS f.wave f.split 1 95
      (Dword.hi f.next)) (target f o))

/-- The A codes of RET and JMPI (R99). -/
def jumpOk (a : Code) : Bool := decide (a.toNat < 95) && a.toNat % 2 = 0

/-- Goes to a computed address: MISALIGN, or the jump, whose next instruction issues 4 clk later or more (R99). -/
def jumpTo (f : Focus) (s : State) (t : Dword) : Res :=
  if t.extractLsb' 0 2 ≠ 0 then .trap causeMisalign t
  else goTo f (s.modSplit f.wave f.split (fun p => { p with next := s.clk + 4 })) t

/-- RET (R99). -/
def execRet (a : Code) (S : Stall) (lit : Option Word) : State → Host.Outcome State Fault Refusal :=
  issue S (fun f _ => { ok := jumpOk a, reads := pairRegs f.split a, ra := .stop })
    (fun f s => jumpTo f s (s.readPair f.wave f.split lit a))

/-- JMPI: to a + 4 × zext(b, 64) (R99). -/
def execJmpi (a b : Code) (S : Stall) (lit : Option Word) : State → Host.Outcome State Fault Refusal :=
  issue S (fun f _ => { ok := jumpOk a && srcOk false b && litOnce [a, b],
                        reads := pairRegs f.split a ++ srcRegs f.split b, ra := .stop })
    (fun f s => jumpTo f s (s.readPair f.wave f.split lit a +
      4 * (s.readSrc f.wave f.split lit b).setWidth 64))

/-! ### MODE, EXIT, and waiting (R100, R101, R103) -/

/-- SETMODE (R30, R38). -/
def execSetmode (i : BitVec 21) (S : Stall) : State → Host.Outcome State Fault Refusal :=
  issue S (fun _ _ => { writes := [.mode] })
    (fun f s => if modeBad (i.setWidth 32) then .trap causeIllegal 0 else .done (s.writeMode f.wave f.split 1 (i.setWidth 32)))

/-- Lanes that execute EXIT leave every clause of which they are members, in ascending slot order (R167). -/
def Wave.exitLeaves (x : Wave) (k : Nat) (act : Mask) : List Nat → Wave
  | [] => x
  | j :: r =>
    let m := mapGet Memb.empty x.memb j
    (if m.handle ≠ 0 ∧ m.mask &&& act ≠ 0 then x.addHop (leaveHop k m.handle (m.mask &&& act)) else x).exitLeaves k act r

/-- The split becomes FREE; the wave ends where it was the last (R100). -/
def State.freeSplit (s : State) (w k : Nat) : State :=
  let s := s.modWave w (fun x => { x with splits := x.splits.set k Split.free })
  if (s.wave w).ended then s.endWave w else s

/-- EXIT (R100). -/
def execExit (S : Stall) : State → Host.Outcome State Fault Refusal :=
  issue S (fun f _ => { reads := [.exec f.split, .splits], ra := .stop })
    (fun f s => notInHandler f s
      (let E := s.readExec f.wave f.split
        if E = 0 then .done s
        else
          let s := (s.modWave f.wave (fun x =>
            (x.exitLeaves f.split E (List.range 8)).modSplit f.split
              (fun p => { p with own := p.own &&& ~~~ E }))).putExec f.wave f.split f.split 0
          if s.arm f.wave f.split ≠ 0 then .done s
          else match s.topEntry f.wave f.split with
            | none => .jump (s.freeSplit f.wave f.split)
            | some e => if e.isP then s.runP f e else s.arriveJoin f S e))

/-- YIELD (R101). -/
def execYield (S : Stall) : State → Host.Outcome State Fault Refusal :=
  issue S (fun _ _ => { ra := .stop, yields := true }) (fun _ s => .done s)

/-- SLEEP (R101): the split sleeps until WAKE, which falls by one each clk, is zero. WAKE holds min(c, 2^20) − 1 in the clk of the
issue, and is zero that many clk later; the spec leaves open whether it falls from that clk or the next (DESIGN CHOICE, log 72). -/
def execSleep (a : Code) (S : Stall) (lit : Option Word) : State → Host.Outcome State Fault Refusal :=
  issue S (fun f s => { ok := srcOk false a, reads := srcRegs f.split a, ra := .stop,
                        yields := s.readSrc f.wave f.split lit a = 0 })
    (fun f s => notInHandler f s
      (let c := (s.readSrc f.wave f.split lit a).toNat
        if c = 0 then .done s
        else
          let n := min c 1048576 - 1
          .done (s.modSplit f.wave f.split (fun p => { p with state := 3, wake := n, wakeAt := s.clk + n }))))

/-- NOP (R103). -/
def execNop (S : Stall) : State → Host.Outcome State Fault Refusal :=
  issue S (fun _ _ => {}) (fun _ s => .done s)

/-! ### REGGIVE and REGCLAIM (R102) -/

/-- TRAPARG of REGCLAIM: the subcode and n. An n of 256 or more does not fit the field: its low 8 bits stand there (DESIGN
CHOICE, log 63). -/
def regArg (sub n : Nat) : Dword := BitVec.ofNat 64 (sub + 256 * (n % 256))

/-- Some load, engine result or NCALL token targets a vector register from `lo` up. -/
def Wave.targetsFrom (x : Wave) (lo : Nat) : Bool :=
  x.flight.any (fun a => a.dests.any (fun r => match r with
    | .v n => decide (lo ≤ n)
    | _ => false)) ||
  (List.range 8).any (fun i =>
    let t := mapGet Token.idle x.k i
    t.pending && decide (0 < t.dcount) && decide (lo < t.dreg + t.dcount))

/-- The resident waves of a gang on a core. -/
def State.gangOn (s : State) (g core : Nat) : List Nat :=
  (s.waves.filter (fun e => e.2.gang = g && e.2.core = core && e.2.life = .resident)).map Prod.fst

/-- The waves of a gang placed on a core that have not started: they hold their first blocks already (R19, R272). -/
def State.unstarted (s : State) (g core : Nat) : Nat :=
  let y := s.gang g
  ((List.range y.seats.length).filter (fun i =>
    (y.seats.getD i (0, 0)).1 = core && !(mapKeys y.ids).contains i && !y.released.contains i)).length

/-- The blocks of a gang's reservation on a core that no wave holds (R102). -/
def State.pool (s : State) (g core : Nat) : Nat :=
  mapGet 0 (s.gang g).quota core - (s.gangOn g core).foldl (fun n w => n + (s.wave w).blocks) 0 -
    s.unstarted g core * (s.gang g).vregs

/-- A wave's vector registers from block `b` up are given back. -/
def Wave.dropBlocks (x : Wave) (b : Nat) : Wave :=
  { x with blocks := b, v := x.v.filter (fun e => decide (e.1 < 64 * 8 * b)) }

/-- A wave receives `n` blocks, whose registers read zero; a run-ahead's checkpoint has them so too. -/
def Wave.addBlocks (x : Wave) (n : Nat) : Wave :=
  let zero := fun (v : Map Word) => v.filter (fun e => decide (e.1 < 512 * x.blocks))
  { x with blocks := x.blocks + n, v := zero x.v,
           ra := x.ra.map (fun r => { r with cp := { r.cp with v := zero r.cp.v } }) }

/-- REGGIVE (R102). One that waits reads its operand at each try, which the spec leaves open (DESIGN CHOICE, log 61). -/
def execReggive (a : Code) (S : Stall) (lit : Option Word) : State → Host.Outcome State Fault Refusal :=
  issue S (fun f _ => { ok := srcOk false a, reads := srcRegs f.split a, ra := .stop })
    (fun f s => notInHandler f s
      (let n := (s.readSrc f.wave f.split lit a).toNat
        let x := s.wave f.wave
        if n = 0 then .done s
        else if x.blocks ≤ n then .trap causeRegclaim (regArg 1 n)
        else if x.targetsFrom (8 * (x.blocks - n)) then .hold
        else .done (s.modWave f.wave (fun x => x.dropBlocks (x.blocks - n)))))

/-- A REGCLAIM of the gang's waves on a core waits that is older than order `o`. -/
def State.olderClaim (s : State) (g core o : Nat) : Bool :=
  (s.gangOn g core).any (fun w => (List.range 4).any (fun k =>
    match ((s.wave w).split k).claim with
    | some (_, o', _) => decide (o' < o)
    | none => false))

/-- REGCLAIM (R102): at once where the pool holds the blocks and no older request waits; else the split waits in CLAIM. -/
def execRegclaim (a : Code) (S : Stall) (lit : Option Word) : State → Host.Outcome State Fault Refusal :=
  issue S (fun f _ => { ok := srcOk false a, reads := srcRegs f.split a, ra := .stop })
    (fun f s => notInHandler f s
      (let n := (s.readSrc f.wave f.split lit a).toNat
        let x := s.wave f.wave
        let others := ((s.gangOn x.gang x.core).filter (fun w => w ≠ f.wave)).length + s.unstarted x.gang x.core
        if n = 0 then .done s
        else if 16 < x.blocks + n ∨ mapGet 0 (s.gang x.gang).quota x.core < x.blocks + n + others then
          .trap causeRegclaim (regArg 2 n)
        else if n ≤ s.pool x.gang x.core ∧ s.olderClaim x.gang x.core s.orders = false then
          .done (s.modWave f.wave (fun x => x.addBlocks n))
        else
          .jump { s.modSplit f.wave f.split (fun p =>
            { p with state := 4, claim := some (n, s.orders, f.next, S.toNat) }) with orders := s.orders + 1 }))

end Sys2Proof.Machine
end

