-- ==== Sys2Proof/Machine/Scalar.lean ====
section
/-! DEFINITION. The scalar class (R77 to R85): integer arithmetic, logic, shifts, bit fields, compares, pair arithmetic
and predicate logic on the uniform datapath, with latency 1. -/

namespace Sys2Proof.Machine

/-! ### Shapes (R79) -/

/-- What a scalar instruction states: legal codes, registers read, the register written. -/
def scalarPre (d : Code) (ok : Bool) (srcs : List Code) (reads : Nat → List Reg) : Focus → State → Pre :=
  fun f _ => { ok := dstOk d && ok && litOnce srcs, reads := reads f.split, writes := srcRegs f.split d }

/-- Writes a 32-bit scalar result with latency 1, unless it would be a write that MODE refuses (R38, R41). -/
def scalarDone (f : Focus) (s : State) (d : Code) (x : Word) : Res :=
  if dstBad d x then .trap causeIllegal 0 else .done (s.writeDst f.wave f.split 1 d x)

/-- A 32-bit operation of two sources. -/
def scalar2 (g : Word → Word → Word) (d a b : Code) (S : Stall) (lit : Option Word) :
    State → Host.Outcome State Fault Refusal :=
  issue S (scalarPre d (srcOk false a && srcOk false b) [a, b] (fun k => srcRegs k a ++ srcRegs k b))
    (fun f s => scalarDone f s d (g (s.readSrc f.wave f.split lit a) (s.readSrc f.wave f.split lit b)))

/-- A 32-bit operation of two sources and the old destination (R9, R80, R81). -/
def scalar3 (g : Word → Word → Word → Word) (d a b : Code) (S : Stall) (lit : Option Word) :
    State → Host.Outcome State Fault Refusal :=
  issue S (scalarPre d (srcOk false a && srcOk false b) [a, b]
      (fun k => srcRegs k d ++ srcRegs k a ++ srcRegs k b))
    (fun f s => scalarDone f s d (g (s.readSrc f.wave f.split lit d) (s.readSrc f.wave f.split lit a)
      (s.readSrc f.wave f.split lit b)))

/-- A 64-bit operation of two pairs (R83). -/
def pair2 (g : Dword → Dword → Dword) (d a b : Code) (S : Stall) (lit : Option Word) :
    State → Host.Outcome State Fault Refusal :=
  issue S (fun f _ => { ok := pairDstOk d && pairSrcOk false a && pairSrcOk false b && litOnce [a, b],
                        reads := pairRegs f.split a ++ pairRegs f.split b, writes := pairRegs f.split d })
    (fun f s => .done (s.writePair f.wave f.split 1 d
      (g (s.readPair f.wave f.split lit a) (s.readPair f.wave f.split lit b))))

/-- A shift of a pair by a 32-bit count (R83). -/
def pairShift (g : Dword → Nat → Dword) (d a b : Code) (S : Stall) (lit : Option Word) :
    State → Host.Outcome State Fault Refusal :=
  issue S (fun f _ => { ok := pairDstOk d && pairSrcOk false a && srcOk false b && litOnce [a, b],
                        reads := pairRegs f.split a ++ srcRegs f.split b, writes := pairRegs f.split d })
    (fun f s => .done (s.writePair f.wave f.split 1 d
      (g (s.readPair f.wave f.split lit a) (s.readSrc f.wave f.split lit b).toNat)))

/-- An operation of two predicates (R84). -/
def pred2 (g : Mask → Mask → Mask) (d a b : Code) (S : Stall) : State → Host.Outcome State Fault Refusal :=
  issue S (fun f _ => { ok := predDstOk d && predSrcOk a && predSrcOk b,
                        reads := predRegs f.split a ++ predRegs f.split b, writes := predRegs f.split d })
    (fun f s => .done (s.writePred f.wave f.split 1 d
      (g (s.readPred f.wave f.split a) (s.readPred f.wave f.split b))))

/-! ### Values -/

/-- 1 for true, 0 for false. -/
def bit32 (b : Bool) : Word := if b then 1 else 0

/-- A shift left; a count of 32 or more leaves zero bits (R80). -/
def shl32 (a b : Word) : Word := if 32 ≤ b.toNat then 0 else a <<< b.toNat

/-- A shift right with zero fill (R80). -/
def shr32 (a b : Word) : Word := if 32 ≤ b.toNat then 0 else a >>> b.toNat

/-- A shift right filled with bit 31 (R80). -/
def sar32 (a b : Word) : Word :=
  if 32 ≤ b.toNat then (if a.getLsbD 31 then 0xFFFFFFFF#32 else 0) else a.sshiftRight b.toNat

/-- The field's offset and mask from a control value (R81). -/
def fieldOff (c : Word) : Nat := (c.extractLsb' 0 5).toNat

/-- WIDTH of a control value; 32 and more act as 32 (R81). -/
def fieldWidth (c : Word) : Nat := min (c.extractLsb' 8 6).toNat 32

/-- The mask of a field's width. -/
def fieldMask (n : Nat) : Word := BitVec.ofNat 32 (2 ^ n - 1)

/-- SBFE (R81). -/
def bfe32 (a c : Word) : Word :=
  let n := fieldWidth c
  let x := (a >>> fieldOff c) &&& fieldMask n
  if c.getLsbD 16 && decide (0 < n) && x.getLsbD (n - 1) then x ||| ~~~ (fieldMask n) else x

/-- SBFI (R81): the field of `a` put into `d`. -/
def bfi32 (d a c : Word) : Word :=
  let m := fieldMask (fieldWidth c) <<< fieldOff c
  (d &&& ~~~ m) ||| ((a <<< fieldOff c) &&& m)

/-- The number of 1 bits. -/
def popc {n : Nat} (x : BitVec n) : Nat := ((List.range n).filter (fun i => x.getLsbD i)).length

/-- The number of leading zeros. -/
def clz {n : Nat} (x : BitVec n) : Nat := ((List.range n).takeWhile (fun i => !(x.getLsbD (n - 1 - i)))).length

/-- The number of trailing zeros. -/
def ctz {n : Nat} (x : BitVec n) : Nat := ((List.range n).takeWhile (fun i => !(x.getLsbD i))).length

/-- The bits in reverse order. -/
def brev32 (x : Word) : Word := x.reverse

/-- The bytes in reverse order. -/
def bswap32 (x : Word) : Word :=
  x.extractLsb' 0 8 ++ x.extractLsb' 8 8 ++ x.extractLsb' 16 8 ++ x.extractLsb' 24 8

/-- |a| modulo 2^32. -/
def abs32 (a : Word) : Word := if a.getLsbD 31 then 0 - a else a

/-- The sub-functions of SUN on a 32-bit value (R82). -/
def sunVal (fn : Nat) (a : Word) : Word :=
  match fn with
  | 0 => ~~~ a
  | 1 => 0 - a
  | 2 => abs32 a
  | 3 => BitVec.ofNat 32 (popc a)
  | 4 => BitVec.ofNat 32 (clz a)
  | 5 => BitVec.ofNat 32 (ctz a)
  | 6 => brev32 a
  | 7 => (a.extractLsb' 0 8).signExtend 32
  | 8 => (a.extractLsb' 0 16).signExtend 32
  | 9 => (a.extractLsb' 0 8).setWidth 32
  | 10 => (a.extractLsb' 0 16).setWidth 32
  | _ => bswap32 a

/-! ### The instructions (R80 to R84) -/

/-- SADD: d := (a + b)[31:0] (R80). -/
def execSadd (d a b : Code) (S : Stall) (lit : Option Word) := scalar2 (· + ·) d a b S lit

/-- SSUB: d := (a − b)[31:0] (R80). -/
def execSsub (d a b : Code) (S : Stall) (lit : Option Word) := scalar2 (· - ·) d a b S lit

/-- SMUL: d := (a × b)[31:0] (R80). -/
def execSmul (d a b : Code) (S : Stall) (lit : Option Word) := scalar2 (· * ·) d a b S lit

/-- SMULHU: the high half of the unsigned product (R80). -/
def execSmulhu (d a b : Code) (S : Stall) (lit : Option Word) :=
  scalar2 (fun x y => Dword.hi (x.setWidth 64 * y.setWidth 64)) d a b S lit

/-- SAND (R80). -/
def execSand (d a b : Code) (S : Stall) (lit : Option Word) := scalar2 (· &&& ·) d a b S lit

/-- SOR (R80). -/
def execSor (d a b : Code) (S : Stall) (lit : Option Word) := scalar2 (· ||| ·) d a b S lit

/-- SXOR (R80). -/
def execSxor (d a b : Code) (S : Stall) (lit : Option Word) := scalar2 (· ^^^ ·) d a b S lit

/-- SANDN: a ∧ ¬b (R80). -/
def execSandn (d a b : Code) (S : Stall) (lit : Option Word) := scalar2 (fun x y => x &&& ~~~ y) d a b S lit

/-- SSHL (R80). -/
def execSshl (d a b : Code) (S : Stall) (lit : Option Word) := scalar2 shl32 d a b S lit

/-- SSHR (R80). -/
def execSshr (d a b : Code) (S : Stall) (lit : Option Word) := scalar2 shr32 d a b S lit

/-- SSAR (R80). -/
def execSsar (d a b : Code) (S : Stall) (lit : Option Word) := scalar2 sar32 d a b S lit

/-- SMIN: the lesser as I32 (R80). -/
def execSmin (d a b : Code) (S : Stall) (lit : Option Word) :=
  scalar2 (fun x y => if x.slt y then x else y) d a b S lit

/-- SMAX: the greater as I32 (R80). -/
def execSmax (d a b : Code) (S : Stall) (lit : Option Word) :=
  scalar2 (fun x y => if x.slt y then y else x) d a b S lit

/-- SMINU: the lesser as N32 (R80). -/
def execSminu (d a b : Code) (S : Stall) (lit : Option Word) :=
  scalar2 (fun x y => if x.ult y then x else y) d a b S lit

/-- SMAXU: the greater as N32 (R80). -/
def execSmaxu (d a b : Code) (S : Stall) (lit : Option Word) :=
  scalar2 (fun x y => if x.ult y then y else x) d a b S lit

/-- SEQ (R80). -/
def execSeq (d a b : Code) (S : Stall) (lit : Option Word) := scalar2 (fun x y => bit32 (x = y)) d a b S lit

/-- SLT: as I32 (R80). -/
def execSlt (d a b : Code) (S : Stall) (lit : Option Word) := scalar2 (fun x y => bit32 (x.slt y)) d a b S lit

/-- SLTU: as N32 (R80). -/
def execSltu (d a b : Code) (S : Stall) (lit : Option Word) := scalar2 (fun x y => bit32 (x.ult y)) d a b S lit

/-- SSEL: d := (d ≠ 0) ? a : b (R80). -/
def execSsel (d a b : Code) (S : Stall) (lit : Option Word) :=
  scalar3 (fun o x y => if o ≠ 0 then x else y) d a b S lit

/-- SMOV: d := a (R80). -/
def execSmov (d a : Code) (S : Stall) (lit : Option Word) : State → Host.Outcome State Fault Refusal :=
  issue S (scalarPre d (srcOk false a) [a] (fun k => srcRegs k a))
    (fun f s => scalarDone f s d (s.readSrc f.wave f.split lit a))

/-- SUN: the sub-function in B; POPC64 and CLZ64 read a pair (R82). -/
def execSun (d a fn : Code) (S : Stall) (lit : Option Word) : State → Host.Outcome State Fault Refusal :=
  if fn.toNat = 11 ∨ fn.toNat = 12 then
    issue S (scalarPre d (pairSrcOk false a) [a] (fun k => pairRegs k a))
      (fun f s =>
        let x := s.readPair f.wave f.split lit a
        scalarDone f s d (BitVec.ofNat 32 (if fn.toNat = 11 then popc x else clz x)))
  else
    issue S (scalarPre d (srcOk false a) [a] (fun k => srcRegs k a))
      (fun f s => scalarDone f s d (sunVal fn.toNat (s.readSrc f.wave f.split lit a)))

/-- SADD64 (R83). -/
def execSadd64 (d a b : Code) (S : Stall) (lit : Option Word) := pair2 (· + ·) d a b S lit

/-- SSUB64 (R83). -/
def execSsub64 (d a b : Code) (S : Stall) (lit : Option Word) := pair2 (· - ·) d a b S lit

/-- SSHL64: a count of 64 or more gives 0 (R83). -/
def execSshl64 (d a b : Code) (S : Stall) (lit : Option Word) :=
  pairShift (fun x n => if 64 ≤ n then 0 else x <<< n) d a b S lit

/-- SSHR64: zero-filled; a count of 64 or more gives 0 (R83). -/
def execSshr64 (d a b : Code) (S : Stall) (lit : Option Word) :=
  pairShift (fun x n => if 64 ≤ n then 0 else x >>> n) d a b S lit

/-- SMUL64 (R83). -/
def execSmul64 (d a b : Code) (S : Stall) (lit : Option Word) := pair2 (· * ·) d a b S lit

/-- SBFE (R81). -/
def execSbfe (d a b : Code) (S : Stall) (lit : Option Word) := scalar2 bfe32 d a b S lit

/-- SBFI, which also reads its destination (R81). -/
def execSbfi (d a b : Code) (S : Stall) (lit : Option Word) := scalar3 bfi32 d a b S lit

/-- PAND (R84). -/
def execPand (d a b : Code) (S : Stall) := pred2 (· &&& ·) d a b S

/-- POR (R84). -/
def execPor (d a b : Code) (S : Stall) := pred2 (· ||| ·) d a b S

/-- PXOR (R84). -/
def execPxor (d a b : Code) (S : Stall) := pred2 (· ^^^ ·) d a b S

/-- PANDN: a ∧ ¬b (R84). -/
def execPandn (d a b : Code) (S : Stall) := pred2 (fun x y => x &&& ~~~ y) d a b S

end Sys2Proof.Machine
end

