-- ==== Sys2Proof/Machine/Vector.lean ====
section
/-! DEFINITION. The vector classes (R104 to R123): lane arithmetic, compares, conversions, cross-lane moves, prefixes and
dot products. Each instruction has a form whose B (or A) is a vector register and one whose B (or A) is a scalar. -/

namespace Sys2Proof.Machine

/-! ### Types and shapes (R106) -/

/-- ARITH of R106. -/
def arithTypes : List Nat := [0, 1, 2, 3, 4, 5, 6, 7, 8, 9, 10, 11]

/-- INT of R106. -/
def intTypes : List Nat := [0, 1, 2, 3, 8, 9, 10, 11]

/-- The result of a lane: its bits and the flags it raised. -/
abbrev LaneRes := Nat × Nat

/-- Applies an operation of elements to a lane of a TYPE (R59). -/
def byElems (t : Nat) (g : Nat → Nat → Nat → LaneRes) (a b d : Nat) : LaneRes :=
  let w := tyWidth t
  let n := tyElems t
  let rs := (List.range n).map (fun j =>
    g (a / 2 ^ (w * j) % 2 ^ w) (b / 2 ^ (w * j) % 2 ^ w) (d / 2 ^ (w * j) % 2 ^ w))
  (packElems w (rs.map Prod.fst), rs.foldl (fun m r => m ||| r.2) 0)

/-- The results of the lanes of a mask, by lane. -/
def laneResults (m : Mask) (g : Nat → LaneRes) : List (Nat × LaneRes) := (Mask.lanes m).map (fun L => (L, g L))

/-- Ends a vector instruction that writes `n` registers from `d` (R68, R69, R105). -/
def vectorDone (f : Focus) (s : State) (lat n : Nat) (d : Code) (m : Mask) (rs : List (Nat × LaneRes)) : Res :=
  if m = 0 then .done s
  else withFlags s (s.writeVn f.wave f.split lat n d m (fun L => (mapGet (0, 0) rs L).1)) f.wave
    (rs.map (fun r => (r.1, r.2.2)))

/-- What a vector instruction of a TYPE `t` states: it accepts `types`, reads A, B and perhaps D, and writes D. -/
def vectorPre (t : State → Focus → Nat) (types : Option (List Nat)) (slow : Bool) (readD : Bool) (d : Code)
    (srcs : List VSrc) : Focus → State → Pre :=
  fun f s =>
    let x := s.wave f.wave
    let t := t s f
    let n := tyRegs t
    { lanes := true, types, ok := vOk x d n && srcs.all (fun v => v.ok x t n) && litOnce (srcs.flatMap VSrc.code),
      reads := (if readD then vRegs d n else []) ++ srcs.flatMap (fun v => v.regs f.split t n) ++
        s.activeRegs f.wave f.split,
      writes := vRegs d n, slow := slow && t = 5 }

/-- The TYPE of MODE. -/
def typeOf (s : State) (f : Focus) : Nat := modeType (s.readMode f.wave)

/-- The 32-bit integer context of instructions independent of type (R104). -/
def noType (_ : State) (_ : Focus) : Nat := 0

/-- A vector operation of A, B and the old D by lanes, with the given latency. -/
def vector3 (t : State → Focus → Nat) (types : Option (List Nat)) (slow readD : Bool) (lat : Nat → Nat)
    (g : FEnv → Nat → Nat → Nat → Nat → LaneRes) (d : Code) (a b : VSrc) (S : Stall) (lit : Option Word) :
    State → Host.Outcome State Fault Refusal :=
  issue S (vectorPre t types slow readD d [a, b])
    (fun f s =>
      let ty := t s f
      let env := modeEnv (s.readMode f.wave)
      let m := s.active f.wave f.split
      vectorDone f s (lat ty) (tyRegs ty) d m (laneResults m (fun L =>
        g env ty (s.readVSrc f.wave f.split lit ty a L) (s.readVSrc f.wave f.split lit ty b L)
          (if readD then s.readVn f.wave (tyRegs ty) d L else 0))))

/-- Latency 5 for F64 arithmetic, else 3 (R41). -/
def arithLat (t : Nat) : Nat := if t = 5 then 5 else 3

/-- Lane arithmetic by elements of MODE.TYPE. -/
def vectorArith (readD : Bool) (g : FEnv → Nat → Nat → Nat → Nat → LaneRes) (d : Code) (a b : VSrc) (S : Stall)
    (lit : Option Word) : State → Host.Outcome State Fault Refusal :=
  vector3 typeOf (some arithTypes) true readD arithLat (fun env t => byElems t (g env t)) d a b S lit

/-- An operation on 32-bit registers, independent of type, that raises no flag. -/
def vectorBits (readD : Bool) (g : Word → Word → Word → Word) (d : Code) (a b : VSrc) (S : Stall) (lit : Option Word) :
    State → Host.Outcome State Fault Refusal :=
  vector3 noType none false readD (fun _ => 3)
    (fun _ _ x y z => ((g (BitVec.ofNat 32 x) (BitVec.ofNat 32 y) (BitVec.ofNat 32 z)).toNat, 0)) d a b S lit

/-! ### Elements (R108 to R111) -/

/-- An integer result of a TYPE from the exact value (R60). -/
def intElem (env : FEnv) (t : Nat) (v : Int) : LaneRes := (intResult (tySigned t) (tyWidth t) env.sat v, 0)

/-- An element's value as an integer of its TYPE. -/
def elemInt (t x : Nat) : Int := intVal (tySigned t) (tyWidth t) x

/-- a + b. -/
def addElem (env : FEnv) (t a b _d : Nat) : LaneRes :=
  match tyFmt t with
  | some f => fAdd f env a b
  | none => intElem env t (elemInt t a + elemInt t b)

/-- a − b. -/
def subElem (env : FEnv) (t a b _d : Nat) : LaneRes :=
  match tyFmt t with
  | some f => fSub f env a b
  | none => intElem env t (elemInt t a - elemInt t b)

/-- a × b. -/
def mulElem (env : FEnv) (t a b _d : Nat) : LaneRes :=
  match tyFmt t with
  | some f => fMul f env a b
  | none => intElem env t (elemInt t a * elemInt t b)

/-- a × b + d, rounded once. -/
def fmaElem (env : FEnv) (t a b d : Nat) : LaneRes :=
  match tyFmt t with
  | some f => fFma f env false a b d
  | none => intElem env t (elemInt t a * elemInt t b + elemInt t d)

/-- d − a × b, rounded once. -/
def fnmaElem (env : FEnv) (t a b d : Nat) : LaneRes :=
  match tyFmt t with
  | some f => fFma f env true a b d
  | none => intElem env t (elemInt t d - elemInt t a * elemInt t b)

/-- The lesser or the greater of two elements (R109). -/
def pickElem (greater : Bool) (env : FEnv) (t a b _d : Nat) : LaneRes :=
  match tyFmt t with
  | some f =>
    let x := (flushIn f env a).1
    let y := (flushIn f env b).1
    (if greater then maxImg f x y else minImg f x y, (readNum f env a).2 ||| (readNum f env b).2)
  | none =>
    let less := decide (elemInt t a < elemInt t b)
    (if less = greater then b else a, 0)

/-- VCLAMP: the greater of a and b, then the lesser of that and the old d (R109). -/
def clampElem (env : FEnv) (t a b d : Nat) : LaneRes :=
  let r := pickElem true env t a b 0
  let q := pickElem false env t r.1 d 0
  (q.1, r.2 ||| q.2)

/-- The count of a shift: the element as unsigned, bits 31:0 of a 64-bit one (R111). -/
def shiftCount (t b : Nat) : Nat := if tyWidth t = 64 then b % 2 ^ 32 else b

/-- VSHL on an element (R111). -/
def shlElem (_env : FEnv) (t a b _d : Nat) : LaneRes :=
  let w := tyWidth t
  (if w ≤ shiftCount t b then 0 else a * 2 ^ shiftCount t b % 2 ^ w, 0)

/-- VSHR on an element (R111). -/
def shrElem (_env : FEnv) (t a b _d : Nat) : LaneRes :=
  let w := tyWidth t
  (intImg w (elemInt t a / 2 ^ min (shiftCount t b) w), 0)

/-- VMULH: the high half of the exact product (R110). -/
def mulhElem (_env : FEnv) (t a b _d : Nat) : LaneRes := (intImg 32 (elemInt t a * elemInt t b / 2 ^ 32), 0)

/-! ### Compares and class tests (R113, R114) -/

/-- The registers and codes of a compare, which writes the bits of ACTIVE in p0 to p7 or EXEC (R35, R113). -/
def comparePre (types : List Nat) (d : Code) (a b : VSrc) (bOk : Wave → Nat → Bool) (bRegs : Nat → Nat → List Reg) :
    Focus → State → Pre :=
  fun f s =>
    let x := s.wave f.wave
    let t := typeOf s f
    let n := tyRegs t
    { lanes := true, types := some types,
      ok := decide (d.toNat < 9) && a.ok x t n && bOk x t && litOnce (a.code ++ b.code),
      reads := a.regs f.split t n ++ bRegs f.split t ++ s.activeRegs f.wave f.split,
      writes := predRegs f.split d, slow := t = 5, dstLanes := some (s.active f.wave f.split) }

/-- Writes the bits `m` of a compare's destination; EXEC takes value ∧ ARM (R87, R113). -/
def State.writeCompare (s : State) (w k : Nat) (d : Code) (m v : Mask) : State :=
  if d.toNat < 8 then s.writePBits w k 3 d.toNat m v
  else s.writeExec w k 3 m ((((s.wave w).split k).exec &&& ~~~ m) ||| (v &&& m))

/-- Ends a compare. -/
def compareDone (f : Focus) (s : State) (d : Code) (m : Mask) (rs : List (Nat × Bool × Nat)) : Res :=
  if m = 0 then .done s
  else withFlags s (s.writeCompare f.wave f.split d m (Mask.ofFn (fun L => (mapGet (false, 0) rs L).1))) f.wave
    (rs.map (fun r => (r.1, r.2.2)))

/-- The types of the compares (R106). -/
def compareTypes : List Nat := [0, 1, 2, 3, 4, 5]

/-- A compare: the test of the order of two values (−1, 0, 1), and its result where one is a NaN (R113). -/
def compare (test : Int → Bool) (ifNan : Bool) (d : Code) (a b : VSrc) (S : Stall) (lit : Option Word) :
    State → Host.Outcome State Fault Refusal :=
  issue S (comparePre compareTypes d a b (fun x t => b.ok x t (tyRegs t)) (fun k t => b.regs k t (tyRegs t)))
    (fun f s =>
      let t := typeOf s f
      let env := modeEnv (s.readMode f.wave)
      let m := s.active f.wave f.split
      compareDone f s d m ((Mask.lanes m).map (fun L =>
        let x := s.readVSrc f.wave f.split lit t a L
        let y := s.readVSrc f.wave f.split lit t b L
        match tyFmt t with
        | some fm =>
          let (p, fp) := readNum fm env x
          let (q, fq) := readNum fm env y
          (L, if p.isNan || q.isNan then ifNan else test (cmpNum p q), fp ||| fq)
        | none =>
          let i := elemInt t x
          let j := elemInt t y
          (L, test (if i < j then -1 else if i = j then 0 else 1), 0))))

/-- The class of a value: the bit of VCLASS (R114). -/
def classOf (f : Fmt) (x : Nat) : Nat :=
  match decodeNum f x with
  | .nan true => 0
  | .nan false => 1
  | .inf n => if n then 2 else 9
  | .fin n m _ =>
    if m = 0 then (if n then 5 else 6)
    else if isDenormal f x then (if n then 4 else 7)
    else if n then 3 else 8

/-- VCLASS: B is one 32-bit set; of a pair in class 1 the low register holds it, and of a 64-bit scalar its low bits. -/
def classTest (d : Code) (a b : VSrc) (S : Stall) (lit : Option Word) : State → Host.Outcome State Fault Refusal :=
  issue S (comparePre [4, 5] d a b (fun x t => b.ok x t (tyRegs t)) (fun k t => b.regs k t (tyRegs t)))
    (fun f s =>
      let t := typeOf s f
      let fm := (tyFmt t).getD fmtF32
      let m := s.active f.wave f.split
      compareDone f s d m ((Mask.lanes m).map (fun L =>
        (L, (s.readVSrc f.wave f.split lit t b L).testBit (classOf fm (s.readVSrc f.wave f.split lit t a L)), 0))))

/-! ### VUN (R116) -/

/-- The types of a function of VUN; none for the functions of 32-bit registers. -/
def vunTypes (fn : Nat) : Option (List Nat) :=
  match fn with
  | 0 | 1 => some arithTypes
  | 3 | 4 | 5 => some [4, 5, 6, 7]
  | 6 | 7 | 8 | 9 | 21 => some [4, 6, 7]
  | 10 | 11 | 12 | 13 | 14 => some [4, 5, 6, 7]
  | 22 | 23 => some [4, 5]
  | _ => none

/-- The latency of a function of VUN (R41). -/
def vunLat (fn : Nat) : Nat := if (3 ≤ fn ∧ fn < 10) ∨ fn = 21 then 7 else 3

/-- A float negated or made positive (R116). -/
def signElem (f : Fmt) (env : FEnv) (abs : Bool) (x : Nat) : LaneRes :=
  let (n, fl) := readNum f env x
  if n.isNan then (f.nanImg, fl)
  else
    let y := (flushIn f env x).1
    (withSign f (!abs && decide (y < f.signBit)) (y % f.signBit), fl)

/-- The integral value in a direction: RM code `rm` (R116). -/
def roundIntElem (f : Fmt) (env : FEnv) (rm x : Nat) : LaneRes :=
  let (n, fl) := readNum f env x
  match n with
  | .nan _ => (f.nanImg, fl)
  | .inf s => (withSign f s f.infImg, fl)
  | .fin s m e =>
    let k := if e < 0 then (roundAt rm s m (2 ^ (-e).toNat) 0).1 else m * 2 ^ e.toNat
    ((roundFin f envRNE s k 0).1, fl)

/-- FRACT: a − FLOOR(a), rounded RDN (R116). -/
def fractElem (f : Fmt) (env : FEnv) (x : Nat) : LaneRes :=
  let (n, fl) := readNum f env x
  match n with
  | .nan _ => (f.nanImg, fl)
  | .inf _ => (f.nanImg, fl ||| flagIO)
  | .fin s m e =>
    let q := 2 ^ (-e).toNat
    let r := if 0 ≤ e then 0 else if s then (q - m % q) % q else m % q
    let (y, fr) := roundFin f { env with rm := 3 } false r e
    (y, fl ||| fr)

/-- FREXPM, or FREXPE for `expo` (R116). -/
def frexpElem (f : Fmt) (env : FEnv) (expo : Bool) (x : Nat) : LaneRes :=
  let (n, fl) := readNum f env x
  match n with
  | .nan _ => (if expo then 0 else f.nanImg, fl)
  | .inf s => (if expo then 0 else withSign f s f.infImg, fl)
  | .fin s m e =>
    if m = 0 then (if expo then 0 else withSign f s 0, fl)
    else
      let b : Int := Nat.log2 m + 1
      (if expo then intImg (1 + f.ew + f.fw) (e + b) else (roundFin f envRNE s m (-b)).1, fl)

/-- The number of a function among the F32 functions of Float.lean. -/
def unaryNo (fn : Nat) : Nat := if fn = 21 then 7 else fn - 3

/-- A function of R71 on an element: F16 and BF16 go through F32, and SAT acts on the element's own format (R65); EXP2's
overflow is +∞ whatever SAT holds (R72). EXP2 of F16 or BF16 below the format's least denormal is rounded as R71 rounds, where
R72 gives +0 (DESIGN CHOICE, log 71). -/
def funElem (f : Fmt) (env : FEnv) (fn x : Nat) : LaneRes :=
  let (n, fl) := readNum f env x
  if f = fmtF64 then
    let r := match fn with
      | 3 => rcpNum f env n
      | 4 => rsqNum f env n
      | _ => sqrtNum f env n
    (r.1, fl ||| r.2)
  else
    let r := unaryF32 (unaryNo fn) (if f = fmtF32 then env else { env with sat := false }) n
    if f = fmtF32 then (r.1, fl ||| r.2)
    else
      let q := cvtFloat fmtF32 f { env with rm := 0, sat := env.sat && (fn ≠ 6 || n = .inf false) } r.1
      (q.1, fl ||| r.2 ||| (if fn = 5 then q.2 else (quietNX q).2))

/-- A function of VUN on an element of its TYPE. -/
def vunElem (fn : Nat) (env : FEnv) (t a _b _d : Nat) : LaneRes :=
  match tyFmt t with
  | none => intElem env t (if fn = 0 then -(elemInt t a) else (elemInt t a).natAbs)
  | some f =>
    if fn = 0 then signElem f env false a
    else if fn = 1 then signElem f env true a
    else if fn < 10 ∨ fn = 21 then funElem f env fn a
    else if fn = 10 then roundIntElem f env 3 a
    else if fn = 11 then roundIntElem f env 2 a
    else if fn = 12 then roundIntElem f env 1 a
    else if fn = 13 then roundIntElem f env env.rm a
    else if fn = 14 then fractElem f env a
    else frexpElem f env (fn = 23) a

/-- The sub-function of SUN that a function of VUN on registers equals (R116). -/
def vunSun (fn : Nat) : Nat := if fn = 2 then 0 else fn - 12

/-- VUN. -/
def vun (d : Code) (a : VSrc) (fn : Nat) (S : Stall) (lit : Option Word) : State → Host.Outcome State Fault Refusal :=
  if fn = 26 ∨ fn = 27 then
    issue S (vectorPre noType none false false d [])
      (fun f s =>
        let m := s.active f.wave f.split
        vectorDone f s 3 1 d m (laneResults m (fun L => (if fn = 26 then L else L / 4, 0))))
  else match vunTypes fn with
    | some ts =>
      issue S (vectorPre typeOf (some ts) true false d [a])
        (fun f s =>
          let t := typeOf s f
          let env := modeEnv (s.readMode f.wave)
          let m := s.active f.wave f.split
          vectorDone f s (vunLat fn) (tyRegs t) d m (laneResults m (fun L =>
            byElems t (vunElem fn env t) (s.readVSrc f.wave f.split lit t a L) 0 0)))
    | none =>
      issue S (vectorPre noType none false false d [a])
        (fun f s =>
          let m := s.active f.wave f.split
          vectorDone f s 3 1 d m (laneResults m (fun L =>
            ((sunVal (vunSun fn) (BitVec.ofNat 32 (s.readVSrc f.wave f.split lit 0 a L))).toNat, 0))))

/-! ### VCVT (R117) -/

/-- Converts an element (R70). -/
def cvtElem (env : FEnv) (src dst x : Nat) : LaneRes :=
  match tyFmt src, tyFmt dst with
  | some f, some g => cvtFloat f g env x
  | some f, none => cvtFloatInt f (tySigned dst) (tyWidth dst) env x
  | none, some g => cvtIntFloat g env (elemInt src x)
  | none, none => (intResult (tySigned dst) (tyWidth dst) env.sat (elemInt src x), 0)

/-- Elements that a lane of VCVT converts. -/
def cvtCount (src dst : Nat) : Nat := max (tyElems src) (tyElems dst)

/-- Registers that N elements of a TYPE occupy. -/
def cvtRegs (n t : Nat) : Nat := max 1 (n * tyWidth t / 32)

/-- The source elements of a lane. -/
def State.cvtSource (s : State) (w k : Nat) (lit : Option Word) (src n : Nat) (a : VSrc) (L : Nat) : List Nat :=
  match a with
  | .vec c => unpackElems (tyWidth src) n (s.readVn w (cvtRegs n src) c L)
  | .scl c =>
    let es := unpackElems (tyWidth src) (tyElems src) (s.readTyped w k lit src c)
    (List.range n).map (fun i => es.getD (i % tyElems src) 0)

/-- VCVT. -/
def vcvt (d : Code) (a : VSrc) (src : Nat) (S : Stall) (lit : Option Word) : State → Host.Outcome State Fault Refusal :=
  issue S
    (fun f s =>
      let x := s.wave f.wave
      let dst := typeOf s f
      let n := cvtCount src dst
      { lanes := true, types := some (List.range 14),
        ok := vOk x d (cvtRegs n dst) && a.ok x src (cvtRegs n src) && litOnce a.code,
        reads := (match a with
          | .vec c => vRegs c (cvtRegs n src)
          | .scl _ => a.regs f.split src 1) ++ s.activeRegs f.wave f.split,
        writes := vRegs d (cvtRegs n dst), slow := dst = 5 || src = 5 })
    (fun f s =>
      let dst := typeOf s f
      let n := cvtCount src dst
      let env := modeEnv (s.readMode f.wave)
      let m := s.active f.wave f.split
      vectorDone f s 3 (cvtRegs n dst) d m (laneResults m (fun L =>
        let rs := (s.cvtSource f.wave f.split lit src n a L).map (cvtElem env src dst)
        (packElems (tyWidth dst) (rs.map Prod.fst), rs.foldl (fun m r => m ||| r.2) 0))))

/-! ### Moves and cross-lane instructions (R115, R118 to R122) -/

/-- VSEL: every lane of EXEC; the guard chooses (R115). -/
def vsel (d : Code) (a b : VSrc) (S : Stall) (lit : Option Word) : State → Host.Outcome State Fault Refusal :=
  issue S
    (fun f s => { vectorPre noType none false false d [a, b] f s with
      dstLanes := some (s.readExec f.wave f.split) })
    (fun f s =>
      let g := s.guardMask f.wave
      let m := s.readExec f.wave f.split
      vectorDone f s 3 1 d m (laneResults m (fun L =>
        (s.readVSrc f.wave f.split lit 0 (if g.getLsbD L then a else b) L, 0))))

/-- VMOV (R115). -/
def vmov (d : Code) (a : VSrc) (S : Stall) (lit : Option Word) : State → Host.Outcome State Fault Refusal :=
  issue S (vectorPre noType none false false d [a])
    (fun f s =>
      let m := s.active f.wave f.split
      vectorDone f s 3 1 d m (laneResults m (fun L => (s.readVSrc f.wave f.split lit 0 a L, 0))))

/-- The two source lanes of a pattern of VQUAD for lane L: the value taken, or the minuend and the subtrahend (R119). -/
def quadLanes (pat L : Nat) : Nat × Nat :=
  let q := L / 4 * 4
  match pat with
  | 0 => (Nat.xor L 1, 0)
  | 1 => (Nat.xor L 2, 0)
  | 2 => (Nat.xor L 3, 0)
  | 8 => (L / 2 * 2 + 1, L / 2 * 2)
  | 9 => (q + 2 + L % 2, q + L % 2)
  | 10 => (q + 1, q)
  | 11 => (q + 2, q)
  | n => (q + (n - 4), 0)

/-- VQUAD (R119). -/
def vquad (d : Code) (a : VSrc) (pat : Nat) (S : Stall) (lit : Option Word) :
    State → Host.Outcome State Fault Refusal :=
  if pat < 8 then
    issue S
      (fun f s => { vectorPre noType none false false d [a] f s with
        fromLanes := fun r L => match r with
          | .v _ => [(quadLanes pat L).1]
          | _ => [L] })
      (fun f s =>
        let m := s.active f.wave f.split
        vectorDone f s 5 1 d m (laneResults m (fun L =>
          (s.readVSrc f.wave f.split lit 0 a (quadLanes pat L).1, 0))))
  else
    issue S
      (fun f s => { vectorPre typeOf (some [4, 6, 7]) false false d [a] f s with
        fromLanes := fun r L => match r with
          | .v _ => [(quadLanes pat L).1, (quadLanes pat L).2]
          | _ => [L] })
      (fun f s =>
        let t := typeOf s f
        let env := modeEnv (s.readMode f.wave)
        let m := s.active f.wave f.split
        vectorDone f s 5 1 d m (laneResults m (fun L =>
          byElems t (subElem env t) (s.readVSrc f.wave f.split lit t a (quadLanes pat L).1)
            (s.readVSrc f.wave f.split lit t a (quadLanes pat L).2) 0)))

/-- VSHUF (R120). -/
def vshuf (d a : Code) (b : VSrc) (S : Stall) (lit : Option Word) : State → Host.Outcome State Fault Refusal :=
  issue S
    (fun f s => { vectorPre noType none false false d [.vec a, b] f s with
      fromLanes := fun r L =>
        let i := s.readVSrc f.wave f.split lit 0 b L % 64
        if r = .v a.toNat then (if b = .vec a then [i, L] else [i]) else [L] })
    (fun f s =>
      let m := s.active f.wave f.split
      vectorDone f s 5 1 d m (laneResults m (fun L =>
        ((s.readV f.wave a.toNat (s.readVSrc f.wave f.split lit 0 b L % 64)).toNat, 0))))

/-- A lane's value goes to a scalar (R121). -/
def laneToScalar (d a : Code) (srcs : List Code) (lane : Focus → State → Nat) (S : Stall) :
    State → Host.Outcome State Fault Refusal :=
  issue S
    (fun f s => { lanes := true, ok := dstOk d && vOk (s.wave f.wave) a 1 && srcs.all (srcOk false) && litOnce srcs,
                  reads := vRegs a 1 ++ srcs.flatMap (srcRegs f.split) ++ s.activeRegs f.wave f.split,
                  writes := srcRegs f.split d, oneLane := true, fromLanes := fun _ _ => [lane f s] })
    (fun f s =>
      if s.active f.wave f.split = 0 then .done s
      else
        let x := s.readV f.wave a.toNat (lane f s)
        if dstBad d x then .trap causeIllegal 0 else .done (s.writeDst f.wave f.split 5 d x))

/-- A step of VPFX (R122). -/
def prefixStep (fn : Nat) (env : FEnv) (t acc x : Nat) : LaneRes :=
  byElems t (fun p q r => match fn with
    | 0 => addElem env t p q r
    | 1 => pickElem true env t p q r
    | _ => pickElem false env t p q r) acc x 0

/-- What the first lane of VPFX takes: its element as an input of arithmetic (R66, R67), a NaN as the canonical one. -/
def prefixFirst (env : FEnv) (t x : Nat) : LaneRes :=
  match tyFmt t with
  | some f =>
    let (n, fl) := readNum f env x
    (if n.isNan then f.nanImg else (flushIn f env x).1, fl)
  | none => (x, 0)

/-- The prefixes over lanes in order, from an accumulated value on. -/
def prefixes (fn : Nat) (env : FEnv) (t : Nat) (val : Nat → Nat) : Option Nat → List Nat → List (Nat × LaneRes)
  | _, [] => []
  | none, L :: r =>
    let x := prefixFirst env t (val L)
    (L, x) :: prefixes fn env t val (some x.1) r
  | some acc, L :: r =>
    let x := prefixStep fn env t acc (val L)
    (L, x) :: prefixes fn env t val (some x.1) r

/-- VPFX (R122). -/
def vpfx (d : Code) (a : VSrc) (fn : Nat) (S : Stall) (lit : Option Word) : State → Host.Outcome State Fault Refusal :=
  issue S
    (fun f s => { vectorPre typeOf (some [0, 1, 2, 3, 4]) false false d [a] f s with
      fromLanes := fun r L => match r with
        | .v _ => (Mask.lanes (s.active f.wave f.split)).filter (fun j => decide (j ≤ L))
        | _ => [L] })
    (fun f s =>
      let t := typeOf s f
      let env := modeEnv (s.readMode f.wave)
      let m := s.active f.wave f.split
      vectorDone f s 5 (tyRegs t) d m
        (prefixes fn env t (fun L => s.readVSrc f.wave f.split lit t a L) none (Mask.lanes m)))

/-! ### VDOT2 (R123) -/

/-- A term of an exact sum: an infinity, or a signed magnitude and its exponent; a NaN where the sum is one. -/
def dotTerm (a b : Num) : Num × Nat :=
  match a, b with
  | .nan _, _ => (.nan false, 0)
  | _, .nan _ => (.nan false, 0)
  | .fin na ma ea, .fin nb mb eb => (.fin (na ^^ nb) (ma * mb) (ea + eb), 0)
  | .inf na, .fin nb m _ => if m = 0 then (.nan false, flagIO) else (.inf (na ^^ nb), 0)
  | .fin na m _, .inf nb => if m = 0 then (.nan false, flagIO) else (.inf (na ^^ nb), 0)
  | .inf na, .inf nb => (.inf (na ^^ nb), 0)

/-- The exact sum of terms, rounded once to F32; infinities of both signs are invalid (R67, R123). Where a quiet NaN stands
beside infinities of both signs the spec does not say whether IO is raised: the NaN decides, and none is (DESIGN CHOICE,
log 60). -/
def sumTerms (env : FEnv) (ts : List Num) : LaneRes :=
  if ts.any Num.isNan then (fmtF32.nanImg, 0)
  else
    let pos := ts.contains (.inf false)
    let neg := ts.contains (.inf true)
    if pos && neg then (fmtF32.nanImg, flagIO)
    else if pos || neg then (infResult fmtF32 env neg, 0)
    else
      let q := ts.foldl (fun q x => match x with
        | .fin _ _ e => min q e
        | _ => q) 0
      let sum := ts.foldl (fun (v : Int) x => match x with
        | .fin n m e => v + inUnits n m e q
        | _ => v) 0
      if sum = 0 then
        let zeros := ts.all (fun x => match x with
          | .fin _ m _ => m = 0
          | _ => false)
        let signs := ts.map Num.neg
        (withSign fmtF32 (if zeros && signs.all (fun b => b) then true
          else if zeros && signs.all (fun b => !b) then false else env.rm = 3) 0, 0)
      else roundFin fmtF32 env (decide (sum < 0)) sum.natAbs q

/-- A lane of VDOT2. -/
def dotLane (env : FEnv) (t a b d : Nat) : LaneRes :=
  let w := tyWidth t
  let n := tyElems t
  match tyFmt t with
  | some f =>
    let xs := (unpackElems w n a).map (readNum f env)
    let ys := (unpackElems w n b).map (readNum f env)
    let (z, fz) := readNum fmtF32 env d
    let ts := (xs.zip ys).map (fun p => dotTerm p.1.1 p.2.1)
    let fl := (xs ++ ys).foldl (fun m x => m ||| x.2) fz
    let (r, fr) := sumTerms env (ts.map Prod.fst ++ [z])
    (r, ts.foldl (fun m x => m ||| x.2) (fl ||| fr))
  | none =>
    let ps := ((unpackElems w n a).zip (unpackElems w n b)).map (fun p => elemInt t p.1 * elemInt t p.2)
    (intResult (tySigned t) 32 env.sat (ps.foldl (· + ·) (intVal (tySigned t) 32 d)), 0)

/-- VDOT2 (R123). -/
def vdot2 (d a : Code) (b : VSrc) (S : Stall) (lit : Option Word) : State → Host.Outcome State Fault Refusal :=
  vector3 typeOf (some [6, 7, 8, 9, 10, 11, 12, 13]) false true (fun _ => 3) dotLane d (.vec a) b S lit

/-! ### The instructions (R106) -/

/-- VADD with a vector B (R108). -/
def execVaddVV (d a b : Code) (S : Stall) :=
  vectorArith false addElem d (.vec a) (.vec b) S none

/-- VADD with a scalar B (R108). -/
def execVaddVS (d a b : Code) (S : Stall) (lit : Option Word) :=
  vectorArith false addElem d (.vec a) (.scl b) S lit

/-- VSUB with a vector B (R108). -/
def execVsubVV (d a b : Code) (S : Stall) :=
  vectorArith false subElem d (.vec a) (.vec b) S none

/-- VSUB with a scalar B (R108). -/
def execVsubVS (d a b : Code) (S : Stall) (lit : Option Word) :=
  vectorArith false subElem d (.vec a) (.scl b) S lit

/-- VMUL with a vector B (R108). -/
def execVmulVV (d a b : Code) (S : Stall) :=
  vectorArith false mulElem d (.vec a) (.vec b) S none

/-- VMUL with a scalar B (R108). -/
def execVmulVS (d a b : Code) (S : Stall) (lit : Option Word) :=
  vectorArith false mulElem d (.vec a) (.scl b) S lit

/-- VFMA with a vector B (R108). -/
def execVfmaVV (d a b : Code) (S : Stall) :=
  vectorArith true fmaElem d (.vec a) (.vec b) S none

/-- VFMA with a scalar B (R108). -/
def execVfmaVS (d a b : Code) (S : Stall) (lit : Option Word) :=
  vectorArith true fmaElem d (.vec a) (.scl b) S lit

/-- VFNMA with a vector B (R108). -/
def execVfnmaVV (d a b : Code) (S : Stall) :=
  vectorArith true fnmaElem d (.vec a) (.vec b) S none

/-- VFNMA with a scalar B (R108). -/
def execVfnmaVS (d a b : Code) (S : Stall) (lit : Option Word) :=
  vectorArith true fnmaElem d (.vec a) (.scl b) S lit

/-- VMIN with a vector B (R109). -/
def execVminVV (d a b : Code) (S : Stall) :=
  vectorArith false (pickElem false) d (.vec a) (.vec b) S none

/-- VMIN with a scalar B (R109). -/
def execVminVS (d a b : Code) (S : Stall) (lit : Option Word) :=
  vectorArith false (pickElem false) d (.vec a) (.scl b) S lit

/-- VMAX with a vector B (R109). -/
def execVmaxVV (d a b : Code) (S : Stall) :=
  vectorArith false (pickElem true) d (.vec a) (.vec b) S none

/-- VMAX with a scalar B (R109). -/
def execVmaxVS (d a b : Code) (S : Stall) (lit : Option Word) :=
  vectorArith false (pickElem true) d (.vec a) (.scl b) S lit

/-- VCLAMP with a vector B (R109). -/
def execVclampVV (d a b : Code) (S : Stall) :=
  vectorArith true clampElem d (.vec a) (.vec b) S none

/-- VCLAMP with a scalar B (R109). -/
def execVclampVS (d a b : Code) (S : Stall) (lit : Option Word) :=
  vectorArith true clampElem d (.vec a) (.scl b) S lit

/-- VAND with a vector B (R111). -/
def execVandVV (d a b : Code) (S : Stall) :=
  vectorBits false (fun x y _ => x &&& y) d (.vec a) (.vec b) S none

/-- VAND with a scalar B (R111). -/
def execVandVS (d a b : Code) (S : Stall) (lit : Option Word) :=
  vectorBits false (fun x y _ => x &&& y) d (.vec a) (.scl b) S lit

/-- VOR with a vector B (R111). -/
def execVorVV (d a b : Code) (S : Stall) :=
  vectorBits false (fun x y _ => x ||| y) d (.vec a) (.vec b) S none

/-- VOR with a scalar B (R111). -/
def execVorVS (d a b : Code) (S : Stall) (lit : Option Word) :=
  vectorBits false (fun x y _ => x ||| y) d (.vec a) (.scl b) S lit

/-- VXOR with a vector B (R111). -/
def execVxorVV (d a b : Code) (S : Stall) :=
  vectorBits false (fun x y _ => x ^^^ y) d (.vec a) (.vec b) S none

/-- VXOR with a scalar B (R111). -/
def execVxorVS (d a b : Code) (S : Stall) (lit : Option Word) :=
  vectorBits false (fun x y _ => x ^^^ y) d (.vec a) (.scl b) S lit

/-- VSHL with a vector B (R111). -/
def execVshlVV (d a b : Code) (S : Stall) :=
  vector3 typeOf (some intTypes) false false (fun _ => 3) (fun env t => byElems t (shlElem env t))
    d (.vec a) (.vec b) S none

/-- VSHL with a scalar B (R111). -/
def execVshlVS (d a b : Code) (S : Stall) (lit : Option Word) :=
  vector3 typeOf (some intTypes) false false (fun _ => 3) (fun env t => byElems t (shlElem env t))
    d (.vec a) (.scl b) S lit

/-- VSHR with a vector B (R111). -/
def execVshrVV (d a b : Code) (S : Stall) :=
  vector3 typeOf (some intTypes) false false (fun _ => 3) (fun env t => byElems t (shrElem env t))
    d (.vec a) (.vec b) S none

/-- VSHR with a scalar B (R111). -/
def execVshrVS (d a b : Code) (S : Stall) (lit : Option Word) :=
  vector3 typeOf (some intTypes) false false (fun _ => 3) (fun env t => byElems t (shrElem env t))
    d (.vec a) (.scl b) S lit

/-- VMULH with a vector B (R110). -/
def execVmulhVV (d a b : Code) (S : Stall) :=
  vector3 typeOf (some [0, 1]) false false (fun _ => 3) (fun env t => byElems t (mulhElem env t))
    d (.vec a) (.vec b) S none

/-- VMULH with a scalar B (R110). -/
def execVmulhVS (d a b : Code) (S : Stall) (lit : Option Word) :=
  vector3 typeOf (some [0, 1]) false false (fun _ => 3) (fun env t => byElems t (mulhElem env t))
    d (.vec a) (.scl b) S lit

/-- VCEQ with a vector B (R113). -/
def execVceqVV (d a b : Code) (S : Stall) :=
  compare (fun c => c = 0) false d (.vec a) (.vec b) S none

/-- VCEQ with a scalar B (R113). -/
def execVceqVS (d a b : Code) (S : Stall) (lit : Option Word) :=
  compare (fun c => c = 0) false d (.vec a) (.scl b) S lit

/-- VCLT with a vector B (R113). -/
def execVcltVV (d a b : Code) (S : Stall) :=
  compare (fun c => c = -1) false d (.vec a) (.vec b) S none

/-- VCLT with a scalar B (R113). -/
def execVcltVS (d a b : Code) (S : Stall) (lit : Option Word) :=
  compare (fun c => c = -1) false d (.vec a) (.scl b) S lit

/-- VCLE with a vector B (R113). -/
def execVcleVV (d a b : Code) (S : Stall) :=
  compare (fun c => c ≠ 1) false d (.vec a) (.vec b) S none

/-- VCLE with a scalar B (R113). -/
def execVcleVS (d a b : Code) (S : Stall) (lit : Option Word) :=
  compare (fun c => c ≠ 1) false d (.vec a) (.scl b) S lit

/-- VCNE with a vector B (R113). -/
def execVcneVV (d a b : Code) (S : Stall) :=
  compare (fun c => c ≠ 0) true d (.vec a) (.vec b) S none

/-- VCNE with a scalar B (R113). -/
def execVcneVS (d a b : Code) (S : Stall) (lit : Option Word) :=
  compare (fun c => c ≠ 0) true d (.vec a) (.scl b) S lit

/-- VCLASS with a vector B (R114). -/
def execVclassVV (d a b : Code) (S : Stall) :=
  classTest d (.vec a) (.vec b) S none

/-- VCLASS with a scalar B (R114). -/
def execVclassVS (d a b : Code) (S : Stall) (lit : Option Word) :=
  classTest d (.vec a) (.scl b) S lit

/-- VSEL with a vector B (R115). -/
def execVselVV (d a b : Code) (S : Stall) :=
  vsel d (.vec a) (.vec b) S none

/-- VSEL with a scalar B (R115). -/
def execVselVS (d a b : Code) (S : Stall) (lit : Option Word) :=
  vsel d (.vec a) (.scl b) S lit

/-- VBFE with a vector B (R112). -/
def execVbfeVV (d a b : Code) (S : Stall) :=
  vectorBits false (fun x c _ => bfe32 x c) d (.vec a) (.vec b) S none

/-- VBFE with a scalar B (R112). -/
def execVbfeVS (d a b : Code) (S : Stall) (lit : Option Word) :=
  vectorBits false (fun x c _ => bfe32 x c) d (.vec a) (.scl b) S lit

/-- VBFI with a vector B (R112). -/
def execVbfiVV (d a b : Code) (S : Stall) :=
  vectorBits true (fun x c o => bfi32 o x c) d (.vec a) (.vec b) S none

/-- VBFI with a scalar B (R112). -/
def execVbfiVS (d a b : Code) (S : Stall) (lit : Option Word) :=
  vectorBits true (fun x c o => bfi32 o x c) d (.vec a) (.scl b) S lit

/-- VSHUF with a vector B (R120). -/
def execVshufVV (d a b : Code) (S : Stall) :=
  vshuf d a (.vec b) S none

/-- VSHUF with a scalar B (R120). -/
def execVshufVS (d a b : Code) (S : Stall) (lit : Option Word) :=
  vshuf d a (.scl b) S lit

/-- VDOT2 with a vector B (R123). -/
def execVdot2VV (d a b : Code) (S : Stall) :=
  vdot2 d a (.vec b) S none

/-- VDOT2 with a scalar B (R123). -/
def execVdot2VS (d a b : Code) (S : Stall) (lit : Option Word) :=
  vdot2 d a (.scl b) S lit

/-- VUN of a vector A (R116). -/
def execVunVV (d a fn : Code) (S : Stall) :=
  vun d (.vec a) fn.toNat S none

/-- VUN of a scalar A (R116). -/
def execVunVS (d a fn : Code) (S : Stall) (lit : Option Word) :=
  vun d (.scl a) fn.toNat S lit

/-- VCVT of a vector A (R117). -/
def execVcvtVV (d a t : Code) (S : Stall) :=
  vcvt d (.vec a) t.toNat S none

/-- VCVT of a scalar A (R117). -/
def execVcvtVS (d a t : Code) (S : Stall) (lit : Option Word) :=
  vcvt d (.scl a) t.toNat S lit

/-- VQUAD of a vector A (R119). -/
def execVquadVV (d a pat : Code) (S : Stall) :=
  vquad d (.vec a) pat.toNat S none

/-- VQUAD of a scalar A (R119). -/
def execVquadVS (d a pat : Code) (S : Stall) (lit : Option Word) :=
  vquad d (.scl a) pat.toNat S lit

/-- VPFX of a vector A (R122). -/
def execVpfxVV (d a fn : Code) (S : Stall) :=
  vpfx d (.vec a) fn.toNat S none

/-- VPFX of a scalar A (R122). -/
def execVpfxVS (d a fn : Code) (S : Stall) (lit : Option Word) :=
  vpfx d (.scl a) fn.toNat S lit

/-- VMOV of a vector A (R115). -/
def execVmovVV (d a : Code) (S : Stall) := vmov d (.vec a) S none

/-- VMOV of a scalar B (R115). -/
def execVmovVS (d b : Code) (S : Stall) (lit : Option Word) := vmov d (.scl b) S lit

/-- VRFIRST (R121). -/
def execVrfirst (d a : Code) (S : Stall) :=
  laneToScalar d a [] (fun f s => Mask.lowest (s.active f.wave f.split)) S

/-- VRLANE (R121). -/
def execVrlane (d a b : Code) (S : Stall) (lit : Option Word) :=
  laneToScalar d a [b] (fun f s => (s.readSrc f.wave f.split lit b).toNat % 64) S

/-- VWLANE: the lane is written even outside ACTIVE (R121). -/
def execVwlane (d a b : Code) (S : Stall) (lit : Option Word) : State → Host.Outcome State Fault Refusal :=
  issue S
    (fun f s => { lanes := true,
                  ok := vOk (s.wave f.wave) d 1 && srcOk false a && srcOk false b && litOnce [a, b],
                  reads := srcRegs f.split a ++ srcRegs f.split b ++ s.activeRegs f.wave f.split,
                  writes := vRegs d 1,
                  dstLanes := some (if s.active f.wave f.split = 0 then 0
                    else Mask.one ((s.readSrc f.wave f.split lit b).toNat % 64)) })
    (fun f s =>
      if s.active f.wave f.split = 0 then .done s
      else .done (s.writeVn f.wave f.split 5 1 d (Mask.one ((s.readSrc f.wave f.split lit b).toNat % 64))
        (fun _ => (s.readSrc f.wave f.split lit a).toNat)))

end Sys2Proof.Machine
end

