-- ==== Sys2Proof/Machine/Memory.lean ====
section
/-! DEFINITION. The memory class (R124 to R140) at issue: addresses, their checks, and the operations that go on their way.
FETCH is in Texture.lean; how operations are performed is in Perform.lean. -/

namespace Sys2Proof.Machine

/-! ### Sizes and elements (R127, R129) -/

/-- Bytes of a size code: N8, I8, N16, I16, B32, B64, B128 (R127). -/
def sizeBytes (z : Nat) : Nat :=
  match z with
  | 0 | 1 => 1
  | 2 | 3 => 2
  | 4 => 4
  | 5 => 8
  | _ => 16

/-- A size code sign-extends (R129). -/
def sizeSigned (z : Nat) : Bool := z = 1 || z = 3

/-- Registers of an access of `n` bytes. -/
def sizeRegs (n : Nat) : Nat := if n ≤ 4 then 1 else n / 4

/-- The elementary accesses of a lane (R129): one of at most 8 bytes, or two halves of 8. -/
def elementary (lane va pa n reg : Nat) (sgn : Bool) (data : List Byte) (target : Nat) : List Acc :=
  if n ≤ 8 then [{ lane, va, pa, size := n, reg, sgn, data, cmp := [], target }]
  else (List.range (n / 8)).map (fun i =>
    { lane, va := va + 8 * i, pa := pa + 8 * i, size := 8, reg := reg + 2 * i, sgn, data := (data.drop (8 * i)).take 8,
      cmp := [], target := target + 8 * i })

/-- Of stores to one address, the highest lane's stands (R129): earlier accesses to the same place are dropped. -/
def lastAtEach (key : Acc → Nat) : List Acc → List Acc
  | [] => []
  | a :: r => if r.any (fun b => key b = key a) then lastAtEach key r else a :: lastAtEach key r

/-! ### Checks of lanes (R128) -/

/-- An address by lane, ascending. -/
abbrev LaneAddrs := List (Nat × Dword)

/-- Items 1 and 2 for global addresses: the trap of the lowest lane that fails the first item any lane fails. -/
def globalForm (size : Nat) (as : LaneAddrs) : Option (Nat × Dword) :=
  match as.find? (fun a => !(canonical a.2)) with
  | some a => some (causeProt, a.2)
  | none => (as.find? (fun a => a.2.toNat % size ≠ 0)).map (fun a => (causeMisalign, a.2))

/-- Item 3: the lanes whose page does not translate, with whether its entry is bad. -/
def missing (s : State) (sp : Space) (as : LaneAddrs) : List (Nat × Dword × Bool) :=
  as.filterMap (fun a => match translate s sp a.2 with
    | .ok _ _ => none
    | .miss => some (a.1, a.2, false)
    | .bad => some (a.1, a.2, true))

/-- The physical addresses of the lanes that translate, with whether the access is permitted. -/
def physical (s : State) (sp : Space) (acc : Access) (as : LaneAddrs) : List (Nat × Dword × Nat × Bool) :=
  as.filterMap (fun a => match translate s sp a.2 with
    | .ok pa pte => some (a.1, a.2, pa, permitted s sp acc pa pte)
    | _ => none)

/-- Item 4: the lowest lane that may not access its page. -/
def forbidden (ps : List (Nat × Dword × Nat × Bool)) : Option Dword :=
  (ps.find? (fun p => !p.2.2.2)).map (fun p => p.2.1)

/-- Item 2 for scratch offsets: MISALIGN before SCRATCH, of the lowest lane that fails either. -/
def scratchForm (size limit : Nat) (os : List (Nat × Nat)) : Option (Nat × Dword) :=
  (os.find? (fun o => o.2 % size ≠ 0 || decide (limit < o.2 + size))).map (fun o =>
    (if o.2 % size ≠ 0 then causeMisalign else causeScratch, BitVec.ofNat 64 o.2))

/-- SCRSIZE in bytes, as a wave's accesses use it. -/
def Wave.scrLimit (x : Wave) : Nat := x.csr.scrsize.toNat

/-! ### Operations on their way (R130) -/

/-- Puts an operation on its path: the counter rises. -/
def Wave.launchFlight (x : Wave) (a : Flight) : Wave :=
  { x.raiseCounter a.path with
    flight := x.flight ++ [{ a with seq := x.seq, after := x.fenceSeq }], seq := x.seq + 1 }

/-- The state with an operation put on its path. -/
def State.launchFlight (s : State) (w : Nat) (a : Flight) : State := s.modWave w (fun x => x.launchFlight a)

/-- An operation of memory as issued. -/
def memFlight (f : Focus) (path : Nat) (kind : FlightKind) (scratch : Bool) (accs : List Acc) (dests : List Reg)
    (act : Mask) : Flight :=
  { seq := 0, path, kind, scratch, accs, begun := false, after := 0, killed := [], raKilled := [], op := .nop 0,
    split := f.split, dests, act, vals := [], lanesLeft := 0, page := none, refused := false,
    lines := [] }

/-- A path counter at its limit holds the instruction (R130). -/
def pathFull (x : Wave) (path : Nat) : Bool := decide (63 ≤ x.counter path)

/-! ### Run-ahead (R299) -/

/-- A run-ahead finds a faulting page: it is counted once, up to the sixteenth, and its merge entry is made where it is
absent. -/
def State.addPage (s : State) (w : Nat) (acc : Access) (va : Dword) (bad : Bool) : State :=
  let x := s.wave w
  let page := pageOf va
  let sec := sectionOf x.cluster
  match x.ra with
  | none => s
  | some r =>
    if r.pages.contains page || decide (16 ≤ r.pages.length) then s
    else
      let fresh := !(s.hasMerge sec r.asid page) && !(s.mergeFull sec)
      let s := s.addMerge sec bad fresh (waveRec x true (accessBits acc) 0xFF va [page])
      s.modWave w (fun x => { x with ra := some { r with
        pages := r.pages ++ [page], created := if fresh && !bad then r.created ++ [page] else r.created } })

/-- Sets or clears the poison of lanes of registers. -/
def State.setPoison (s : State) (w : Nat) (rs : List Reg) (lanes p : Mask) : State :=
  s.modWave w (fun x => { x with ra := x.ra.map (fun r =>
    { r with poison := rs.foldl (fun ps d => setMask ps d lanes p) r.poison }) })

/-- The poisoned lanes of a wave's registers: of a scalar, all lanes or none. -/
def Wave.poisonOn (x : Wave) (rs : List Reg) : Mask :=
  match x.ra with
  | Option.none => 0
  | some r => rs.foldl (fun m d => m ||| maskAt r.poison d) 0

/-- The lanes that a run-ahead does not access: a register of their addresses, their EXEC bit or their guard bit is poisoned. -/
def State.skipped (s : State) (f : Focus) (rs : List Reg) : Mask :=
  (s.wave f.wave).poisonOn (rs ++ s.activeRegs f.wave f.split)

/-- The mask of the lanes of a list. -/
def lanesOf {α : Type} (ls : List (Nat × α)) : Mask := ls.foldl (fun m a => m ||| Mask.one a.1) 0

/-- A memory instruction on global pages at issue: its access, its address registers, the registers it writes, and the
operation it becomes from the lanes' physical addresses. A store or an atomic performs nothing in run-ahead. -/
structure GlobalOp where
  acc : Access
  size : Nat
  addrs : LaneAddrs
  addrRegs : List Reg
  dests : List Reg
  /-- A load, which executes in run-ahead. -/
  loads : Bool
  path : Nat
  scope : Nat := 0xFF
  /-- A further check between items 2 and 3 (R134). -/
  extra : LaneAddrs → Option (Nat × Dword) := fun _ => none
  /-- It is performed only where every address translates: a scalar instruction. -/
  whole : Bool := false
  /-- Its addresses are those of lanes of ACTIVE. -/
  byLane : Bool := true
  /-- The operation for the lanes that are performed: lane, address, physical address. -/
  make : List (Nat × Dword × Nat) → Flight

/-- Issues a global operation of the lanes `act` outside run-ahead (R128). -/
def issueGlobal (f : Focus) (s : State) (act : Mask) (g : GlobalOp) : Res :=
  let sp := s.space f.wave
  match globalForm g.size g.addrs with
  | some (c, a) => .trap c a
  | none =>
    match g.extra g.addrs with
    | some (c, a) => .trap c a
    | none =>
      match missing s sp g.addrs with
      | (_, va, bad) :: _ => .xlate true bad (accessBits g.acc) g.scope va (g.dests.map (fun r => (r, act)))
      | [] =>
        let ps := physical s sp g.acc g.addrs
        match forbidden ps with
        | some a => .trap causeProt a
        | none => .done (s.launchFlight f.wave (g.make (ps.map (fun p => (p.1, p.2.1, p.2.2.1)))))

/-- The same during run-ahead (R299): faulting pages are added, poisoned lanes are skipped, and loads are performed. -/
def aheadGlobal (f : Focus) (s : State) (act : Mask) (g : GlobalOp) : Res :=
  let sp := s.space f.wave
  let x := s.wave f.wave
  let skip := if g.byLane then s.skipped f g.addrRegs else x.poisonOn g.addrRegs
  let as := g.addrs.filter (fun a => !(skip.getLsbD a.1))
  match globalForm g.size as, g.extra as with
  | some (c, a), _ => .trap c a
  | none, some (c, a) => .trap c a
  | none, none =>
    let ms := missing s sp as
    let ps := physical s sp g.acc as
    match forbidden ps with
    | some a => .trap causeProt a
    | none =>
      let s := ms.foldl (fun s m => s.addPage f.wave g.acc m.2.1 m.2.2) s
      let live := if g.whole then (if ps.length = g.addrs.length then BitVec.allOnes 64 else 0) else lanesOf ps
      if g.loads then
        let s := s.setPoison f.wave g.dests act (act &&& ~~~ live)
        if live = 0 then .done s
        else .done (s.launchFlight f.wave (g.make (ps.map (fun p => (p.1, p.2.1, p.2.2.1)))))
      else .done (s.setPoison f.wave g.dests act act)

/-- Issues a global operation: an empty set of lanes does nothing, and a full path holds. -/
def runGlobal (f : Focus) (s : State) (act : Mask) (g : GlobalOp) : Res :=
  if g.addrs.isEmpty then .done s
  else if pathFull (s.wave f.wave) g.path && (g.loads || (s.wave f.wave).ra.isNone) then .hold
  else if (s.wave f.wave).ra.isSome then aheadGlobal f s act g
  else issueGlobal f s act g

/-! ### Addresses (R127, R133) -/

/-- The base pair s(2n):s(2n+1). -/
def baseRegs (n : BitVec 4) : List Reg := [.s (2 * n.toNat), .s (2 * n.toNat + 1)]

/-- The value of the base pair. -/
def State.readBase (s : State) (w : Nat) (n : BitVec 4) : Dword :=
  Dword.ofWords (s.readS w (2 * n.toNat)) (s.readS w (2 * n.toNat + 1))

/-- The addresses of LDG and its like: base plus zero-extended offsets (R133). -/
def State.baseAddrs (s : State) (w : Nat) (act : Mask) (a : Code) (n : BitVec 4) : LaneAddrs :=
  let b := s.readBase w n
  (Mask.lanes act).map (fun L => (L, b + (s.readV w a.toNat L).setWidth 64))

/-- The addresses of LDGA and STGA (R133). -/
def State.pairAddrs (s : State) (w : Nat) (act : Mask) (a : Code) : LaneAddrs :=
  (Mask.lanes act).map (fun L => (L, BitVec.ofNat 64 (s.readVn w 2 a L)))

/-- The register of a scratch base; 15 reads zero (R127). -/
def scratchBaseRegs (m : BitVec 4) : List Reg := if m = 15 then [] else [.s m.toNat]

/-- The scratch offsets of LDS and its like (R133). -/
def State.scratchAddrs (s : State) (w : Nat) (act : Mask) (a : Code) (m : BitVec 4) : List (Nat × Nat) :=
  let b := if m = 15 then 0 else s.readS w m.toNat
  (Mask.lanes act).map (fun L => (L, (s.readV w a.toNat L + b).toNat))

/-- The bytes of `n` that lane `L` stores from registers at `d` (R129). -/
def State.storeBytes (s : State) (w n : Nat) (d : Code) (L : Nat) : List Byte :=
  leBytes n (s.readVn w (sizeRegs n) d L)

/-! ### Loads and stores (R133) -/

/-- What a lane memory instruction states: registers of data and addresses. -/
def memPre (dReads dWrites : Bool) (d : Code) (k : Nat) (ok : Wave → Bool) (addrRegs : List Reg) : Focus → State → Pre :=
  fun f s =>
    let x := s.wave f.wave
    { lanes := true, ok := vOk x d k && ok x,
      reads := (if dReads then vRegs d k else []) ++ addrRegs ++ s.activeRegs f.wave f.split,
      writes := if dWrites then vRegs d k else [], ra := .own }

/-- A global load of a size to D. -/
def loadOp (f : Focus) (act : Mask) (d : Code) (z : Nat) (addrs : LaneAddrs) (addrRegs : List Reg) : GlobalOp :=
  let n := sizeBytes z
  { acc := .read, size := n, addrs, addrRegs, dests := vRegs d (sizeRegs n), loads := true, path := 0,
    make := fun ps => memFlight f 0 .load false
      (ps.flatMap (fun p => elementary p.1 p.2.1.toNat p.2.2 n d.toNat (sizeSigned z) [] 0))
      (vRegs d (sizeRegs n)) act }

/-- A global store of a size from D. -/
def storeOp (f : Focus) (s : State) (act : Mask) (d : Code) (z : Nat) (addrs : LaneAddrs) (addrRegs : List Reg) :
    GlobalOp :=
  let n := sizeBytes z
  { acc := .write, size := n, addrs, addrRegs, dests := [], loads := false, path := 1,
    make := fun ps => memFlight f 1 .store false
      (lastAtEach Acc.pa (ps.flatMap (fun p =>
        elementary p.1 p.2.1.toNat p.2.2 n 0 false (s.storeBytes f.wave n d p.1) 0))) [] act }

/-- LDG (R133). -/
def execLdg (d a : Code) (z : BitVec 3) (n : BitVec 4) (S : Stall) : State → Host.Outcome State Fault Refusal :=
  issue S (memPre false true d (sizeRegs (sizeBytes z.toNat)) (fun x => vOk x a 1) (vRegs a 1 ++ baseRegs n))
    (fun f s =>
      let act := s.active f.wave f.split
      runGlobal f s act (loadOp f act d z.toNat (s.baseAddrs f.wave act a n) (vRegs a 1 ++ baseRegs n)))

/-- STG (R133). -/
def execStg (d a : Code) (z : BitVec 3) (n : BitVec 4) (S : Stall) : State → Host.Outcome State Fault Refusal :=
  issue S (memPre true false d (sizeRegs (sizeBytes z.toNat)) (fun x => vOk x a 1) (vRegs a 1 ++ baseRegs n))
    (fun f s =>
      let act := s.live f.wave f.split
      runGlobal f s act (storeOp f s act d z.toNat (s.baseAddrs f.wave act a n) (vRegs a 1 ++ baseRegs n)))

/-- LDGA (R133). -/
def execLdga (d a : Code) (z : BitVec 3) (S : Stall) : State → Host.Outcome State Fault Refusal :=
  issue S (memPre false true d (sizeRegs (sizeBytes z.toNat)) (fun x => vOk x a 2) (vRegs a 2))
    (fun f s =>
      let act := s.active f.wave f.split
      runGlobal f s act (loadOp f act d z.toNat (s.pairAddrs f.wave act a) (vRegs a 2)))

/-- STGA (R133). -/
def execStga (d a : Code) (z : BitVec 3) (S : Stall) : State → Host.Outcome State Fault Refusal :=
  issue S (memPre true false d (sizeRegs (sizeBytes z.toNat)) (fun x => vOk x a 2) (vRegs a 2))
    (fun f s =>
      let act := s.live f.wave f.split
      runGlobal f s act (storeOp f s act d z.toNat (s.pairAddrs f.wave act a) (vRegs a 2)))

/-- LDS (R133). In run-ahead a lane with a poisoned offset is skipped and its destination poisoned. -/
def execLds (d a : Code) (z : BitVec 3) (m : BitVec 4) (S : Stall) : State → Host.Outcome State Fault Refusal :=
  let n := sizeBytes z.toNat
  issue S (memPre false true d (sizeRegs n) (fun x => vOk x a 1) (vRegs a 1 ++ scratchBaseRegs m))
    (fun f s =>
      let act := s.active f.wave f.split
      let skip := s.skipped f (vRegs a 1 ++ scratchBaseRegs m)
      let os := (s.scratchAddrs f.wave act a m).filter (fun o => !(skip.getLsbD o.1))
      let s' := s.setPoison f.wave (vRegs d (sizeRegs n)) act (act &&& skip)
      if act = 0 then .done s
      else if pathFull (s.wave f.wave) 2 then .hold
      else match scratchForm n (s.wave f.wave).scrLimit os with
        | some (c, t) => .trap c t
        | none =>
          if os.isEmpty then .done s'
          else .done (s'.launchFlight f.wave (memFlight f 2 .load true
            (os.flatMap (fun o => elementary o.1 0 o.2 n d.toNat (sizeSigned z.toNat) [] 0))
            (vRegs d (sizeRegs n)) act)))

/-- STS (R133). -/
def execSts (d a : Code) (z : BitVec 3) (m : BitVec 4) (S : Stall) : State → Host.Outcome State Fault Refusal :=
  let n := sizeBytes z.toNat
  issue S (memPre true false d (sizeRegs n) (fun x => vOk x a 1) (vRegs a 1 ++ scratchBaseRegs m))
    (fun f s =>
      let act := s.live f.wave f.split
      let skip := s.skipped f (vRegs a 1 ++ scratchBaseRegs m)
      let os := (s.scratchAddrs f.wave act a m).filter (fun o => !(skip.getLsbD o.1))
      let ahead := (s.wave f.wave).ra.isSome
      if act = 0 then .done s
      else if pathFull (s.wave f.wave) 1 && !ahead then .hold
      else match scratchForm n (s.wave f.wave).scrLimit os with
        | some (c, t) => .trap c t
        | none =>
          if ahead then .done s
          else .done (s.launchFlight f.wave (memFlight f 1 .store true
            (lastAtEach Acc.pa (os.flatMap (fun o =>
              elementary o.1 0 o.2 n 0 false (s.storeBytes f.wave n d o.1) 0))) [] act)))

/-- LDGS (R134): the scratch targets are checked after the alignment of the global addresses. -/
def execLdgs (d a : Code) (z : BitVec 3) (n : BitVec 4) (S : Stall) : State → Host.Outcome State Fault Refusal :=
  let size := sizeBytes z.toNat
  issue S (memPre true false d 1 (fun x => vOk x a 1) (vRegs a 1 ++ baseRegs n))
    (fun f s =>
      let act := s.live f.wave f.split
      let as := s.baseAddrs f.wave act a n
      let tgt := fun L => (s.readV f.wave d.toNat L).toNat
      let limit := (s.wave f.wave).scrLimit
      let unknown := (s.wave f.wave).poisonOn (vRegs d 1)
      let fails := fun (p : Nat × Dword) =>
        p.2.toNat % size ≠ 0 || (!(unknown.getLsbD p.1) && (tgt p.1 % size ≠ 0 || decide (limit < tgt p.1 + size)))
      let item2 := fun (as : LaneAddrs) => (as.find? fails).map (fun p =>
        if p.2.toNat % size ≠ 0 then (causeMisalign, p.2)
        else (if tgt p.1 % size ≠ 0 then causeMisalign else causeScratch, BitVec.ofNat 64 (tgt p.1)))
      runGlobal f s act
        { acc := .read, size := 1, addrs := as, addrRegs := vRegs a 1 ++ baseRegs n, dests := [], loads := false,
          path := 7, extra := item2,
          make := fun ps => memFlight f 7 .gs false
            (lastAtEach Acc.target (ps.flatMap (fun p =>
              elementary p.1 p.2.1.toNat p.2.2 size 0 false [] (tgt p.1)))) [] act })

/-! ### Atomics (R136, R137) -/

/-- The accesses of an atomic: each lane's address with its operand and compare value. -/
def State.atomAccs (s : State) (w k : Nat) (d cmp : Code) (ps : List (Nat × Nat × Nat)) : List Acc :=
  ps.map (fun p =>
    { lane := p.1, va := p.2.1, pa := p.2.2, size := 4 * k, reg := d.toNat, sgn := false,
      data := leBytes (4 * k) (s.readVn w k d p.1), cmp := leBytes (4 * k) (s.readVn w k cmp p.1), target := 0 })

/-- What an atomic states. -/
def atomPre (d a cmp : Code) (kind : BitVec 4) (w64 ret : BitVec 1) (addrRegs : List Reg) : Focus → State → Pre :=
  fun f s =>
    let x := s.wave f.wave
    let k := if w64 = 1 then 2 else 1
    let cas := kind = 10
    { lanes := true, ok := vOk x d k && vOk x a 1 && (!cas || vOk x cmp k),
      reads := vRegs d k ++ (if cas then vRegs cmp k else []) ++ addrRegs ++ s.activeRegs f.wave f.split,
      writes := if ret = 1 then vRegs d k else [], ra := .own }

/-- ATOMG (R136 to R138). -/
def execAtomg (d a : Code) (n kind : BitVec 4) (scope : BitVec 3) (w64 ret : BitVec 1) (cmp : BitVec 7) (S : Stall) :
    State → Host.Outcome State Fault Refusal :=
  let k := if w64 = 1 then 2 else 1
  issue S (atomPre d a cmp kind w64 ret (vRegs a 1 ++ baseRegs n))
    (fun f s =>
      let act := s.live f.wave f.split
      let dests := if ret = 1 then vRegs d k else []
      let path := if ret = 1 then 0 else 1
      runGlobal f s act
        { acc := .readWrite, size := 4 * k, addrs := s.baseAddrs f.wave act a n, addrRegs := vRegs a 1 ++ baseRegs n,
          dests, loads := false, path, scope := scope.toNat,
          make := fun ps => memFlight f path (.atom kind.toNat (4 * k) (ret = 1)) false
            (s.atomAccs f.wave k d cmp (ps.map (fun p => (p.1, p.2.1.toNat, p.2.2)))) dests act })

/-- ATOMS (R136 to R138). -/
def execAtoms (d a : Code) (m kind : BitVec 4) (_scope : BitVec 3) (w64 ret : BitVec 1) (cmp : BitVec 7) (S : Stall) :
    State → Host.Outcome State Fault Refusal :=
  let k := if w64 = 1 then 2 else 1
  issue S (atomPre d a cmp kind w64 ret (vRegs a 1 ++ scratchBaseRegs m))
    (fun f s =>
      let act := s.live f.wave f.split
      let dests := if ret = 1 then vRegs d k else []
      let path := if ret = 1 then 2 else 1
      let ahead := (s.wave f.wave).ra.isSome
      let skip := s.skipped f (vRegs a 1 ++ scratchBaseRegs m)
      let os := (s.scratchAddrs f.wave act a m).filter (fun o => !(skip.getLsbD o.1))
      if act = 0 then .done s
      else if pathFull (s.wave f.wave) path && !ahead then .hold
      else match scratchForm (4 * k) (s.wave f.wave).scrLimit os with
        | some (c, t) => .trap c t
        | none =>
          if ahead then .done (s.setPoison f.wave dests act act)
          else .done (s.launchFlight f.wave (memFlight f path (.atom kind.toNat (4 * k) (ret = 1)) true
            (s.atomAccs f.wave k d cmp (os.map (fun o => (o.1, 0, o.2)))) dests act)))

/-! ### SLD and SST (R135) -/

/-- Registers of a size of SLD and SST. -/
def scalarCount (size : BitVec 3) : Nat := 2 ^ size.toNat

/-- D of SLD and SST: s0 to s95, aligned to min(c, 2), all within s95 (R135). -/
def scalarDOk (d : Code) (c : Nat) : Bool := decide (d.toNat + c ≤ 96) && d.toNat % min c 2 = 0

/-- The registers s(d) to s(d + c − 1). -/
def sRegs (d : Code) (c : Nat) : List Reg := (List.range c).map (fun i => .s (d.toNat + i))

/-- The address of SLD and SST (R135). -/
def State.scalarAddr (s : State) (w k : Nat) (lit : Option Word) (a b : Code) (off : BitVec 24) : Dword :=
  s.readPair w k lit a + (s.readSrc w k lit b).setWidth 64 + off.signExtend 64

/-- The addresses of the pieces of an access of `c` words: each lies in one page. -/
def scalarPieces (va : Dword) (c : Nat) : LaneAddrs :=
  (List.range (max 1 (c / 4))).map (fun i => (0, va + BitVec.ofNat 64 (16 * i)))

/-- The elementary accesses of SLD and SST from the pieces' physical addresses: a word, or aligned pairs of words. -/
def scalarAccs (c d : Nat) (data : List Byte) (ps : List (Nat × Dword × Nat)) : List Acc :=
  ((List.range ps.length).zip ps).flatMap (fun e =>
    elementary 0 e.2.2.1.toNat e.2.2.2 (min (4 * c) 16) (d + 4 * e.1) false ((data.drop (16 * e.1)).take 16) 0)

/-- What SLD and SST state. -/
def scalarMemPre (load : Bool) (d a b : Code) (c : Nat) : Focus → State → Pre :=
  fun f _ =>
    { ok := scalarDOk d c && pairSrcOk false a && srcOk false b && litOnce [a, b],
      reads := pairRegs f.split a ++ srcRegs f.split b ++ (if load then [] else sRegs d c),
      writes := if load then sRegs d c else [], ra := .own }

/-- SLD (R135). -/
def execSld (d a b : Code) (size : BitVec 3) (off : BitVec 24) (S : Stall) (lit : Option Word) :
    State → Host.Outcome State Fault Refusal :=
  let c := scalarCount size
  issue S (scalarMemPre true d a b c)
    (fun f s =>
      let va := s.scalarAddr f.wave f.split lit a b off
      let all : Mask := BitVec.allOnes 64
      runGlobal f s all
        { acc := .read, size := min (4 * c) 16, addrs := scalarPieces va c,
          addrRegs := pairRegs f.split a ++ srcRegs f.split b, dests := sRegs d c, loads := true, path := 0, whole := true, byLane := false,
          make := fun ps => memFlight f 0 .sload false (scalarAccs c d.toNat [] ps) (sRegs d c) all })

/-- SST (R135). -/
def execSst (d a b : Code) (size : BitVec 3) (off : BitVec 24) (S : Stall) (lit : Option Word) :
    State → Host.Outcome State Fault Refusal :=
  let c := scalarCount size
  issue S (scalarMemPre false d a b c)
    (fun f s =>
      let va := s.scalarAddr f.wave f.split lit a b off
      let data := (List.range c).flatMap (fun i => leBytes 4 (s.readS f.wave (d.toNat + i)).toNat)
      runGlobal f s (BitVec.allOnes 64)
        { acc := .write, size := min (4 * c) 16, addrs := scalarPieces va c,
          addrRegs := pairRegs f.split a ++ srcRegs f.split b, dests := [], loads := false, path := 1, byLane := false,
          make := fun ps => memFlight f 1 .store false (scalarAccs c 0 data ps) [] 0 })

/-! ### PREF and CMAINT (R139, R140) -/

/-- PREF changes no register, counter or memory value, and raises no trap of its addresses (R139). Lines it brings
into a cache are shared copies, which the device keeps or drops at any time (R141). -/
def execPref (a : Code) (n : BitVec 4) (_level : BitVec 2) (_own : BitVec 1) (S : Stall) :
    State → Host.Outcome State Fault Refusal :=
  issue S
    (fun f s => { lanes := true, ok := vOk (s.wave f.wave) a 1,
                  reads := vRegs a 1 ++ baseRegs n ++ s.activeRegs f.wave f.split })
    (fun _ s => .done s)

/-- The first address of each page of a range, beginning with the base. -/
def rangePages (base : Dword) (len : Nat) : LaneAddrs :=
  let first := 65536 - base.toNat % 65536
  (List.range (1 + (len - 1 + 65536 - first) / 65536)).map (fun i =>
    (0, if i = 0 then base else base + BitVec.ofNat 64 (first + 65536 * (i - 1))))

/-- The lines of a range, from the physical addresses of its pages. -/
def rangeLines (base : Dword) (len : Nat) (data : List Byte) (ps : List (Nat × Dword × Nat)) : List Acc :=
  ps.flatMap (fun p =>
    let off := (p.2.1 - base).toNat
    let n := min (65536 - p.2.1.toNat % 65536) (len - off)
    (List.range (n / 128)).map (fun i =>
      { lane := 0, va := p.2.1.toNat + 128 * i, pa := p.2.2 + 128 * i, size := 128, reg := 0, sgn := false, data,
        cmp := [], target := 0 }))

/-- CMAINT (R140). -/
def execCmaint (a b : Code) (op : BitVec 4) (S : Stall) (lit : Option Word) :
    State → Host.Outcome State Fault Refusal :=
  issue S
    (fun f _ => { priv := op = 3, ok := pairSrcOk false a && srcOk false b && litOnce [a, b],
                  reads := pairRegs f.split a ++ srcRegs f.split b, ra := .own })
    (fun f s =>
      let base := s.readPair f.wave f.split lit a
      let len := (s.readSrc f.wave f.split lit b).toNat
      if base.toNat % 128 ≠ 0 ∨ len % 128 ≠ 0 ∨ 0x100000 < len then .trap causeMisalign base
      else if len = 0 then .done s
      else
        let zero := op = 2
        runGlobal f s 0
          { acc := if zero then .write else .read, size := 1, addrs := rangePages base len,
            addrRegs := pairRegs f.split a ++ srcRegs f.split b, dests := [], loads := false, path := 1, byLane := false,
            make := fun ps => memFlight f 1 (if zero then .store else .maint op.toNat) false
              (rangeLines base len (if zero then List.replicate 128 0 else []) ps) [] 0 })

end Sys2Proof.Machine
end

