-- ==== Sys2Proof/Machine/Perform.lean ====
section
/-! DEFINITION. How operations in flight are performed (R129 to R132, R137, R141 to R143, R147, R150): the order they keep,
their effect, landing in registers, and the fall of path counters. -/

namespace Sys2Proof.Machine

/-! ### Scratch (R126) -/

/-- `n` bytes of a gang's scratch window. -/
def State.scrRead (s : State) (g off n : Nat) : List Byte :=
  (List.range n).map (fun i => mapGet 0 (s.gang g).scratch (off + i))

/-- A scratch window with bytes written. -/
def scrPut (m : Map Byte) : Nat → List Byte → Map Byte
  | _, [] => m
  | off, b :: r => scrPut (mapSet 0 m off b) (off + 1) r

/-- Writes bytes to a gang's scratch window; sectors that it wholly covers lose their uncorrectable mark (R301). -/
def State.scrWrite (s : State) (g off : Nat) (bs : List Byte) : State :=
  { s.modGang g (fun x => { x with scratch := scrPut x.scratch off bs }) with
    badScratch := s.badScratch.filter (fun e =>
      !(e.1 = g && decide (off ≤ 64 * e.2) && decide (64 * e.2 + 64 ≤ off + bs.length))) }

/-- The first uncorrectable sector of a gang's scratch window in a range: its offset (R301). -/
def State.scrBad (s : State) (g off n : Nat) : Option Nat :=
  (s.badScratch.find? (fun e => e.1 = g && decide (64 * e.2 < off + n) && decide (off < 64 * e.2 + 64))).map
    (fun e => 64 * e.2)

/-! ### Landing in registers (R42, R131, R299) -/

/-- A wave's maps of vector and scalar registers with one element written. -/
def putElem (v s : Map Word) (r : Reg) (lane : Nat) (x : Word) : Map Word × Map Word :=
  match r with
  | .v n => (mapSet 0 v (64 * n + lane) x, s)
  | .s n => (v, mapSet 0 s n x)
  | _ => (v, s)

/-- Results of fixed latency that stand in some lanes of a register are on their way no more. -/
def trimBoard (r : Reg) (lanes : Mask) (b : List Producer) : List Producer :=
  (b.map (fun p => if p.reg = r then { p with lanes := p.lanes &&& ~~~ lanes } else p)).filter
    (fun p => p.lanes ≠ 0)

/-- An element of an operation's result arrives: it is written unless a later instruction has written the register, and
in a run-ahead also to the checkpoint where the operation was issued before the fault. -/
def Wave.land (x : Wave) (a : Flight) (r : Reg) (lane : Nat) (val : Word) : Wave :=
  let bit : Mask := match r with
    | .v _ => Mask.one lane
    | _ => BitVec.allOnes 64
  let before := match x.ra with
    | some q => decide (a.seq < q.fromSeq)
    | Option.none => false
  let dead := maskAt a.killed r &&& bit ≠ 0
  let x := if before && !dead then
      { x with ra := x.ra.map (fun q =>
          let (v, s) := putElem q.cp.v q.cp.s r lane val
          { q with cp := { q.cp with v, s, badRegs := dropBad r bit q.cp.badRegs } }) }
    else x
  if dead || maskAt a.raKilled r &&& bit ≠ 0 then x
  else
    let (v, s) := putElem x.v x.s r lane val
    let (old, new) := (x.flight.filter (fun b => decide (b.seq < a.seq)),
      x.flight.filter (fun b => !(decide (b.seq < a.seq))))
    { x with v, s, board := trimBoard r bit x.board, badRegs := dropBad r bit x.badRegs,
             flight := killLanes (x.ra.isSome && !before) r bit old ++ new }

/-- The words that bytes fill (R129): less than 4 bytes are extended. -/
def loadWords (n : Nat) (sgn : Bool) (bs : List Byte) : List Word :=
  if n < 4 then [BitVec.ofNat 32 (intImg 32 (intVal sgn (8 * n) (leNat bs)))]
  else (List.range (n / 4)).map (fun i => BitVec.ofNat 32 (leNat ((bs.drop (4 * i)).take 4)))

/-- The register of a kind of load. -/
def loadReg (kind : FlightKind) (n : Nat) : Reg :=
  match kind with
  | .sload => .s n
  | _ => .v n

/-- An access's words arrive in its lane's registers. -/
def Wave.landWords (x : Wave) (a : Flight) (c : Acc) (ws : List Word) : Wave :=
  ((List.range ws.length).zip ws).foldl (fun x e => x.land a (loadReg a.kind (c.reg + e.1)) c.lane e.2) x

/-! ### Order (R142, R143, R147, R150) -/

/-- Two accesses touch a common byte. -/
def Acc.overlaps (a b : Acc) : Bool := decide (a.pa < b.pa + b.size) && decide (b.pa < a.pa + a.size)

/-- The operation writes memory, or maintains its lines, by the write path (R141). -/
def FlightKind.writes : FlightKind → Bool
  | .store => true
  | .atom _ _ _ => true
  | .maint _ => true
  | _ => false

/-- A line lies in one of these places. -/
def lineIn (areas : List (Nat × Nat)) (line : Nat) : Bool :=
  areas.any (fun p => decide (p.1 < 128 * line + 128) && decide (128 * line < p.1 + p.2))

/-- A line is owned by a neighbour-list engine (R150, R356). -/
def State.nlOwned (s : State) (line : Nat) : Bool := s.nl.any (fun c => lineIn c.areas line)

/-- A line is owned by a copy engine or a neighbour-list engine (R150). -/
def State.copyOwned (s : State) (line : Nat) : Bool :=
  s.clusters.any (fun e => e.2.copyCmds.any (fun c => c.lines.contains line)) || s.nlOwned line

/-- The lines that an engine owns for an operation: all of its own, until its last lane is done (R14, R150). -/
def Flight.owned (a : Flight) : List Nat := if a.owns && a.lanesLeft ≠ 0 then a.lines else []

/-- The operation is a PIXEXP: its lines are the blend units' (R342). -/
def Flight.exports (a : Flight) : Bool :=
  match a.op with
  | .pixexp .. => true
  | _ => false

/-- A line is owned by a ray unit or, unless a unit of the raster path asks, by the blend units (R150, R323, R325, R342). -/
def State.unitOwned (s : State) (raster : Bool) (line : Nat) : Bool :=
  s.waves.any (fun e => e.2.flight.any (fun a => !(raster && a.exports) && a.owned.contains line))

/-- A line is owned by an engine, for one that is of the raster path or not: the blend units keep one another's order by
primitives, and their ownership holds none of the raster path (R150, log 37). -/
def State.ownedFor (s : State) (raster : Bool) (line : Nat) : Bool := s.copyOwned line || s.unitOwned raster line

/-- A line is owned by an engine (R150). -/
def State.lineOwned (s : State) (line : Nat) : Bool := s.ownedFor false line

/-- Something of the operation is not performed: an access, a lane's export on ST (R342), or reads of a FETCH. -/
def Flight.pending (a : Flight) : Bool :=
  a.accs.any (fun c => !c.fixed) || ((a.path = 1 || a.path = 3) && a.lanesLeft ≠ 0)

/-- An access waits for an earlier operation of its wave: a fence between them, or a common byte. -/
def waitsFor (a : Flight) (c : Acc) (b : Flight) : Bool :=
  decide (b.seq < a.seq) && b.pending &&
    (decide (b.seq < a.after) || (b.scratch = a.scratch && b.accs.any (fun d => d.overlaps c && !d.fixed)))

/-- A FENCE.H on its way: later accesses of the wave are performed after it returns (R148). -/
def HomeOp.isFence (h : HomeOp) : Bool :=
  match h.op with
  | .fenceH _ _ => true
  | _ => false

/-- An access may be performed now; one whose value is fixed may be finished. -/
def State.mayPerform (s : State) (w : Nat) (a : Flight) (c : Acc) : Bool :=
  let x := s.wave w
  c.fixed || !(x.flight.any (waitsFor a c)) && !(x.hops.any (fun h => h.isFence && decide (h.seq < a.seq))) &&
    (a.scratch || !(s.lineOwned (c.pa / 128)) ||
      (!a.kind.writes && !(mapGet [] (s.cluster x.cluster).copies (c.pa / 128)).isEmpty))

/-- An access of the wave, earlier than operation `n`, to a line is not performed, or may still follow (R150). -/
def Wave.earlierOn (x : Wave) (n line : Nat) : Bool :=
  x.flight.any (fun b => decide (b.seq < n) && !b.scratch && (b.more ||
    b.accs.any (fun c => !c.fixed && decide (c.pa < 128 * line + 128) && decide (128 * line < c.pa + c.size))))

/-- A load that a wave would now make at issue may be performed (R142, R147, R150). -/
def State.mayLoad (s : State) (w : Nat) (f : Focus) (pa n : Nat) : Bool :=
  let x := s.wave w
  s.mayPerform w { memFlight f 0 .sload false [] [] 0 with seq := x.seq, after := x.fenceSeq }
    { lane := 0, va := pa, pa, size := n, reg := 0, sgn := false, data := [], cmp := [], target := 0 }

/-! ### Uncorrectable data (R132, R301) -/

/-- Whether the accesses together write every byte of a sector. -/
def coversSector (cs : List Acc) (q : Nat) : Bool :=
  (List.range 64).all (fun i => cs.any (fun c => decide (c.pa ≤ 64 * q + i) && decide (64 * q + i < c.pa + c.size)))

/-- Whether the accesses together write every byte of a sector of scratch: of LDGS, their targets. -/
def coversScratch (kind : FlightKind) (cs : List Acc) (q : Nat) : Bool :=
  let off := fun (c : Acc) => if kind = .gs then c.target else c.pa
  (List.range 64).all (fun i => cs.any (fun c => decide (off c ≤ 64 * q + i) && decide (64 * q + i < off c + c.size)))

/-- The offset of the uncorrectable sector of scratch that an operation meets: one it reads, or one it would partly
overwrite. -/
def State.scratchBad (s : State) (w : Nat) (a : Flight) : Option Nat :=
  if s.badScratch.isEmpty then none
  else a.accs.findSome? (fun c =>
    let off := if a.kind = .gs then c.target else c.pa
    if !a.scratch && a.kind ≠ .gs then none
    else (s.badScratch.find? (fun e => e.1 = (s.wave w).gang && decide (64 * e.2 < off + c.size) &&
        decide (off < 64 * e.2 + 64) &&
        (if a.kind = .store || a.kind = .gs then !(coversScratch a.kind a.accs e.2) else true))).map (fun e => 64 * e.2))

/-- The virtual address of the uncorrectable sector that an operation not begun meets, or the offset of one in scratch: one it
reads, or one it would partly overwrite. -/
def State.flightBad (s : State) (w : Nat) (a : Flight) : Option Nat :=
  if a.begun then none
  else (s.scratchBad w a).or <| if a.scratch then none else a.accs.findSome? (fun c =>
    (s.badSectors.find? (fun q => decide (64 * q < c.pa + c.size) && decide (c.pa < 64 * q + 64) &&
      (match a.kind with
        | .store => !(coversSector a.accs q)
        | .maint _ => false
        | _ => true))).map (fun q => if 64 * q ≤ c.pa then c.va - (c.pa - 64 * q) else c.va + (64 * q - c.pa)))

/-! ### Performing one access -/

/-- f(KIND, old, v, c) of R137 in `n` bytes. -/
def atomVal (kind n old v c : Nat) : Nat :=
  let w := 8 * n
  let less := fun (sgn : Bool) => decide (intVal sgn w v < intVal sgn w old)
  match kind with
  | 0 => (old + v) % 2 ^ w
  | 1 => (old + 2 ^ w - v) % 2 ^ w
  | 2 => if less true then v else old
  | 3 => if less true then old else v
  | 4 => if less false then v else old
  | 5 => if less false then old else v
  | 6 => Nat.land old v
  | 7 => Nat.lor old v
  | 8 => Nat.xor old v
  | 9 => v
  | 10 => if old = c then v else old
  | 11 => (fAdd fmtF32 envRNE old v).1
  | 12 => minImg fmtF32 old v
  | 13 => maxImg fmtF32 old v
  | _ => if v ≤ old then 0 else old + 1

/-- The bytes an access reads: of scratch, of the cluster's copy or of memory. -/
def State.accRead (s : State) (w : Nat) (a : Flight) (c : Acc) : List Byte :=
  if a.scratch then s.scrRead (s.wave w).gang c.pa c.size else s.readBy (s.wave w).cluster c.pa c.size

/-- Bytes with their physical addresses, where none is held yet. -/
def shadowPut (m : Map Nat) (pa : Nat) (bs : List Byte) : Map Nat :=
  ((List.range bs.length).zip bs).foldl (fun m e =>
    if mapGet 0 m (pa + e.1) = 0 then mapSet 0 m (pa + e.1) (e.2.toNat + 1) else m) m

/-- The bytes that a FETCH finds: those of a later access that has passed it, as they were before (R142). -/
def Flight.finds (a : Flight) (pa : Nat) (bs : List Byte) : List Byte :=
  ((List.range bs.length).zip bs).map (fun e =>
    let v := mapGet 0 a.shadow (pa + e.1)
    if v = 0 then e.2 else BitVec.ofNat 8 (v - 1))

/-- Before an access of operation `seq` is performed, each earlier FETCH that may still come to read the same bytes has read
them: the wave's accesses to one byte keep their order (R142), those to others need not (R143, log 64). -/
def State.shade (s : State) (w seq pa n : Nat) : State :=
  if (s.wave w).flight.any (fun b => b.more && decide (b.seq < seq)) then
    let bs := s.readBy (s.wave w).cluster pa n
    s.modWave w (fun x => { x with flight := x.flight.map (fun b =>
      if b.more && decide (b.seq < seq) then { b with shadow := shadowPut b.shadow pa (b.finds pa bs) } else b) })
  else s

/-- Writes bytes at an access's place. -/
def State.accWrite (s : State) (w : Nat) (a : Flight) (c : Acc) (bs : List Byte) : State :=
  if a.scratch then s.scrWrite (s.wave w).gang c.pa bs else s.writeBy (s.wave w).cluster c.pa bs

/-- The words of a value that is fixed, each still to be written: to its register, or to scratch. -/
def Acc.words (c : Acc) (bs : List Byte) : List Acc :=
  (List.range (c.size / 4)).map (fun i =>
    { c with size := 4, reg := c.reg + i, data := (bs.drop (4 * i)).take 4, target := c.target + 4 * i, fixed := true })

/-- The operations of a wave with one changed. -/
def Wave.modFlight (x : Wave) (seq : Nat) (f : Flight → Flight) : Wave :=
  { x with flight := x.flight.map (fun a => if a.seq = seq then f a else a) }

/-- An atomic of one lane (R137): at the line's owned copy, which is memory. Of 8 bytes read, each half lands by itself. -/
def State.atomLane (s : State) (w : Nat) (a : Flight) (kind : Nat) (ret : Bool) (c : Acc) : State :=
  let old := if a.scratch then s.scrRead (s.wave w).gang c.pa c.size else s.readBytes c.pa c.size
  let new := leBytes c.size (atomVal kind c.size (leNat old) (leNat c.data) (leNat c.cmp))
  let s := s.accWrite w a c new
  if !ret then s
  else if c.size ≤ 4 then s.modWave w (fun x => x.landWords a c (loadWords c.size false old))
  else s.modWave w (fun x => x.modFlight a.seq (fun b => { b with accs := b.accs ++ c.words old }))

/-- A line is discarded from a cluster's cache, or by FLUSH from every cluster's (R140, R141). -/
def State.maintain (s : State) (c op line : Nat) : State :=
  if op = 3 then (mapKeys s.clusters).foldl (fun s k => s.dropCopies k (fun l => l = line)) s
  else if op = 1 then s.dropCopies c (fun l => l = line) else s

/-- The accesses performed together with one: of an atomic, those at its address (R137). -/
def Flight.together (a : Flight) (c : Acc) : List Acc :=
  match a.kind with
  | .atom _ _ _ => if c.fixed then [c] else a.accs.filter (fun d => !d.fixed && d.pa = c.pa)
  | _ => [c]

/-- The accesses that follow from one: what LDGS has read goes to scratch, and a load of 8 bytes to its registers, in units
of 4 bytes (R131, R152). -/
def Flight.next (a : Flight) (c : Acc) (bs : List Byte) : List Acc :=
  if c.fixed then []
  else match a.kind with
    | .gs => c.words bs
    | .load => if c.size ≤ 4 then [] else c.words bs
    | .sload => if c.size ≤ 4 then [] else c.words bs
    | _ => []

/-- The value of an attribute from its three vertices' words (R340): mode VERTEX takes that of vertex `k`, INTERP
interpolates with the lane's u and v. -/
def attrValue (interp : Bool) (k u v : Nat) (ws : List Nat) : Nat :=
  let a := fun (i : Nat) => ws.getD i 0
  if !interp then a k
  else
    let sub := fun (x y : Nat) => (fSub fmtF32 envRNE x y).1
    let fma := fun (x y z : Nat) => (fFma fmtF32 envRNE false x y z).1
    fma v (sub (a 2) (a 0)) (fma u (sub (a 1) (a 0)) (a 0))

/-- A word of ATTR comes: with the third of an attribute its value lands. `vals` holds the mode, the vertex, u and v of each
lane, and the words: 0, or one more than the word. -/
def Wave.attrWord (x : Wave) (a : Flight) (c : Acc) (word : Nat) : Wave :=
  let x := { x with flight := x.flight.map (fun b =>
    if b.seq = a.seq then { b with vals := b.vals.set c.target (word + 1) } else b) }
  let vals := a.vals.set c.target (word + 1)
  let n := (Mask.lanes a.act).length
  let i := ((Mask.lanes a.act).filter (fun L => decide (L < c.lane))).length
  let first := c.target - (c.target - (2 + 2 * n)) % 3
  let ws := (vals.drop first).take 3
  if ws.contains 0 then x
  else x.land a (.v c.reg) c.lane (BitVec.ofNat 32
    (attrValue (vals.getD 0 0 = 1) (vals.getD 1 0) (vals.getD (2 + 2 * i) 0) (vals.getD (3 + 2 * i) 0) (ws.map (· - 1))))

/-- The bytes that the fetch unit has read so far, with more of them (R346). -/
def gotPut (m : Map Nat) (va : Nat) (bs : List Byte) : Map Nat :=
  ((List.range bs.length).zip bs).foldl (fun m e => mapSet 0 m ((va + e.1) % 2 ^ 64) (e.2.toNat + 1)) m

/-- The effect of performing an access. -/
def State.doAcc (s : State) (w : Nat) (a : Flight) (c : Acc) : State :=
  let read := fun (s : State) => if c.size ≤ 4 then
      s.modWave w (fun x => x.landWords a c (loadWords c.size c.sgn (s.accRead w a c))) else s
  if c.fixed then
    (if a.kind = .gs then s.scrWrite (s.wave w).gang c.target c.data
      else s.modWave w (fun x => x.landWords a c (loadWords c.size false c.data)))
  else match a.kind with
    | .load => read s
    | .sload => read s
    | .store => s.accWrite w a c c.data
    | .atom kind _ ret => (a.together c).foldl (fun s d => s.atomLane w a kind ret d) s
    | .gs => s
    | .maint op => s.maintain (s.wave w).cluster op (c.pa / 128)
    | .attr => s.modWave w (fun x => x.attrWord a c (leNat (s.accRead w a c)))
    | .fetch =>
      let bs := a.finds c.pa (s.accRead w a c)
      s.modWave w (fun x => x.modFlight a.seq (fun b => { b with got := gotPut b.got c.va bs }))
    | .other => s

/-- Operation `seq` of a wave. -/
def Wave.findFlight (x : Wave) (seq : Nat) : Option Flight := x.flight.find? (fun a => a.seq = seq)

/-- A store that writes whole sectors clears their uncorrectable marks, and so does an LDGS in scratch (R301). -/
def State.clearCovered (s : State) (w : Nat) (a : Flight) : State :=
  let s := if a.kind = .store && !a.scratch then
      { s with badSectors := s.badSectors.filter (fun q => !(coversSector a.accs q)) } else s
  if (a.kind = .store && a.scratch) || a.kind = .gs then
    { s with badScratch := s.badScratch.filter (fun e => !(e.1 = (s.wave w).gang && coversScratch a.kind a.accs e.2)) }
  else s

/-- Performs an access of operation `seq`, where it may be performed. -/
def State.performAcc (s : State) (w seq : Nat) (c : Acc) : State :=
  match (s.wave w).findFlight seq with
  | none => s
  | some a =>
    if !(a.accs.contains c) || (s.flightBad w a).isSome || !(s.mayPerform w a c) then s
    else
      let s := if a.begun then s else s.clearCovered w a
      let s := if a.scratch || c.fixed then s else s.shade w seq c.pa c.size
      let bs := if c.fixed then [] else s.accRead w a c
      (s.doAcc w a c).modWave w (fun x => x.modFlight seq (fun b =>
        { b with accs := (b.accs.filter (fun d => !((a.together c).contains d))) ++ a.next c bs,
                 begun := b.begun || b.kind ≠ .fetch }))

/-! ### Completion (R130) -/

/-- The operation is done: nothing of it is left. -/
def Flight.finished (a : Flight) : Bool := a.accs.isEmpty && a.lanesLeft = 0

/-- The operations left after those that are complete in the order of their paths are gone, given the paths that an
earlier operation holds up, and the paths of the ones gone. -/
def settlePaths : List Nat → List Flight → List Flight × List Nat
  | _, [] => ([], [])
  | held, a :: r =>
    if a.finished && !(held.contains a.path) then
      let (k, d) := settlePaths held r
      (k, a.path :: d)
    else
      let (k, d) := settlePaths (a.path :: held) r
      (a :: k, d)

/-- The path counters of a wave fall for the operations that are complete. -/
def Wave.settleFlights (x : Wave) : Wave :=
  let (k, d) := settlePaths [] x.flight
  d.foldl (fun x p => x.setCounter p (x.counter p - 1)) { x with flight := k }

/-- The accesses that a step performs: those at the given places, or all. -/
def pickAccs (idx : List Nat) (cs : List Acc) : List Acc :=
  if idx.isEmpty then cs else idx.filterMap (fun i => cs[i]?)

/-- Performs accesses of operation `seq`. -/
def State.performSome (s : State) (w seq : Nat) (idx : List Nat) : State :=
  match (s.wave w).findFlight seq with
  | none => s
  | some a => (pickAccs idx a.accs).foldl (fun s c => s.performAcc w seq c) s

/-- The operation at a place of a path. -/
def Wave.onPath (x : Wave) (path place : Nat) : Option Flight := (x.flight.filter (fun a => a.path = path))[place]?

/-- Performs accesses of the operation at a place of a path; without a choice, all of it. -/
def State.performPath (s : State) (w path place : Nat) (idx : List Nat) : State :=
  match (s.wave w).onPath path place with
  | none => s
  | some a =>
    let s := s.performSome w a.seq idx
    let s := if idx.isEmpty then s.performSome w a.seq [] else s
    s.modWave w Wave.settleFlights

/-- An operation fails uncorrectably (R132): it writes nothing, counts as complete, and its trap is to come. -/
def State.failFlight (s : State) (w : Nat) (a : Flight) (cause : Nat) (arg : Dword) : State :=
  s.modWave w (fun x =>
    let ofAhead := fun (b : Flight) => match x.ra with
      | some q => decide (q.fromSeq ≤ b.seq)
      | Option.none => false
    let (after, before) := (x.flight.filter (fun b => b.path = a.path && decide (a.seq < b.seq))).partition ofAhead
    let x := x.modFlight a.seq (fun b => { b with accs := [], lanesLeft := 0 })
    Wave.settleFlights { x with
      uncs := if ofAhead a then x.uncs else x.uncs ++ [{
        path := a.path, regs := a.dests, cause, arg, later := before.length, ahead := after.length }] })

/-- LOAD_RETURN (R131, R142, R340): accesses of an operation on LD, SCR or GS are performed. Subject: wave, path, place on the
path, and the accesses performed (none given: all). -/
def execLoadReturn (s : State) : Host.Outcome State Fault Refusal :=
  .next (s.performPath (s.arg 0) (s.arg 1) (s.arg 2) (s.nums.drop 3))

/-- STORE_PERFORMED (R141, R143): accesses of an operation on ST are performed. Subject: wave, place on the path, and the
accesses performed (none given: all). -/
def execStorePerformed (s : State) : Host.Outcome State Fault Refusal :=
  .next (s.performPath (s.arg 0) 1 (s.arg 1) (s.nums.drop 2))

/-- MEM_UNCORR (R132): the operation at a place of a path, not FETCH, meets an uncorrectable sector. Subject: wave, path,
place. -/
def execMemUncorr (s : State) : Host.Outcome State Fault Refusal :=
  .next (match (s.wave (s.arg 0)).onPath (s.arg 1) (s.arg 2) with
    | none => s
    | some a =>
      match s.flightBad (s.arg 0) a with
      | some va => s.failFlight (s.arg 0) a causeUncorr (uncArg va a.path)
      | none => s)

/-- SHARED_COPY_DISCARD (R141): a cluster discards its shared copy of a line. Subject: cluster, line. -/
def execSharedCopyDiscard (s : State) : Host.Outcome State Fault Refusal :=
  .next (s.dropCopies (s.arg 0) (fun l => l = s.arg 1))

end Sys2Proof.Machine
end

