-- ==== Sys2Proof/Machine/Homeops.lean ====
section
/-! DEFINITION. Operations on their way to home slices (R155, R392): how they are sent, when they may act, their answers;
releases and acquires (R144 to R146); queue and ring headers (R176 to R180). -/

namespace Sys2Proof.Machine

/-! ### Operations on their way -/

/-- An operation of the issuing split on its way to a home: what it captured at issue. -/
def hopOf (f : Focus) (S : Stall) (op : Instr) (hnd : Dword) (act : Mask) (pa : Nat) (vals : List Nat)
    (holding : Bool) : HomeOp :=
  { seq := 0, split := f.split, op, hnd, act, arr := act, pa, vals := f.next.toNat :: S.toNat :: vals,
    arrived := none, reached := false, holding }

/-- Captured value `i` of an operation. -/
def HomeOp.val (h : HomeOp) (i : Nat) : Nat := h.vals.getD (i + 2) 0

/-- A wave has 16 non-holding operations outstanding (R155). -/
def Wave.hopsFull (x : Wave) : Bool := decide (16 ≤ (x.hops.filter (fun h => !h.holding)).length)

/-- Sends a holding operation: the split waits for its answer. -/
def sendHeld (f : Focus) (s : State) (h : HomeOp) : Res := .wait (s.modWave f.wave (fun x => x.addHop h))

/-- Sends a non-holding operation; a seventeenth holds at issue (R155). -/
def sendFree (f : Focus) (s : State) (h : HomeOp) : Res :=
  if (s.wave f.wave).hopsFull then .hold else .done (s.modWave f.wave (fun x => x.addHop h))

/-- The wave without operation `seq`. -/
def Wave.dropHop (x : Wave) (seq : Nat) : Wave := { x with hops := x.hops.filter (fun h => h.seq ≠ seq) }

/-- The wave with operation `seq` changed. -/
def Wave.modHop (x : Wave) (seq : Nat) (f : HomeOp → HomeOp) : Wave :=
  { x with hops := x.hops.map (fun h => if h.seq = seq then f h else h) }

/-- A holding operation is answered: its split goes on at the next instruction S clk later. -/
def State.answer (s : State) (w : Nat) (h : HomeOp) : State :=
  (s.modWave w (fun x => x.dropHop h.seq)).release w h.split (BitVec.ofNat 64 (h.vals.getD 0 0)) (h.vals.getD 1 1)

/-- A held operation is refused: its split takes the trap (R392). -/
def State.refuse (s : State) (w : Nat) (h : HomeOp) (cause : Nat) (arg : Dword) : State :=
  let pc := ((s.wave w).split h.split).pc
  ((s.modWave w (fun x => x.dropHop h.seq)).modSplit w h.split (fun p => { p with wait := .none })).raiseTrap w h.split
    { cause, pc, arg }

/-- An operation with an answer writes a scalar destination; a write that MODE refuses traps (R38). -/
def State.answerS (s : State) (w : Nat) (h : HomeOp) (d : Code) (x : Word) : State :=
  if dstBad d x then s.refuse w h causeIllegal 0 else (s.writeDst w h.split 1 d x).answer w h

/-- A non-holding operation is done. -/
def State.doneHop (s : State) (w : Nat) (h : HomeOp) : State := s.modWave w (fun x => x.dropHop h.seq)

/-- An operation of the ordered interlock (R341). -/
def HomeOp.isPix (h : HomeOp) : Bool :=
  match h.op with
  | .pixlock _ => true
  | .pixunlock _ => true
  | _ => false

/-- The key of the clause entry that an operation of a wave is on: CLOPEN's own, and that of the live entry that a handle
names. -/
def State.hopKey (s : State) (w : Nat) (h : HomeOp) : Option Word :=
  match h.op with
  | .clopen _ _ _ _ _ => some (BitVec.ofNat 32 (h.vals.getD 2 0))
  | _ => if s.clauseOf w h.hnd then some (s.clause (handleEntry h.hnd)).key else none

/-- Two operations of a wave are on one object: a clause by its handle or its key, the interlock, another by its place. -/
def State.sameObject (s : State) (w : Nat) (a b : HomeOp) : Bool :=
  (a.isPix && b.isPix) ||
  (handleType a.hnd = 1 && a.hnd = b.hnd) ||
  ((s.hopKey w a).isSome && s.hopKey w a = s.hopKey w b) ||
    (decide (2 ≤ handleType a.hnd) && decide (2 ≤ handleType b.hnd) && a.pa = b.pa)

/-- An operation may act: its wave's earlier operations on the object have reached the home (R155), and a holding one is
not answered during a run-ahead. -/
def State.hopReady (s : State) (w : Nat) (h : HomeOp) : Bool :=
  let x := s.wave w
  (!h.holding || x.ra.isNone) && x.life ≠ .none &&
    !(x.hops.any (fun b => decide (b.seq < h.seq) && !b.reached && s.sameObject w b h))

/-- The operation at a place among those on their way, where it may act. -/
def State.hopAt (s : State) (w i : Nat) : Option HomeOp :=
  match (s.wave w).hops[i]? with
  | none => none
  | some h => if s.hopReady w h then some h else none

/-! ### Bindings, releases and acquires (R144 to R146, R171) -/

/-- The bindings that the home slice holds now for an operation's object. -/
def State.bindingsNow (s : State) (h : HomeOp) : List Binding :=
  if handleType h.hnd = 1 then s.bindings.filter (fun b => !b.isAddr && b.obj = handleEntry h.hnd)
  else s.bindings.filter (fun b => b.isAddr && b.obj = h.pa)

/-- The bindings in force for an operation of a wave (R144): those that the home slice held when it reached it, of the wave's
address space and world. -/
def State.bindingsOf (s : State) (w : Nat) (h : HomeOp) : List Binding :=
  (h.binds.getD (s.bindingsNow h)).filter (fun b =>
    b.asid = (s.wave w).csr.asid && b.world = (s.wave w).csr.world)

/-- An operation waits at its home, with the bindings of its object as the home holds them (R144). -/
def State.waitHome (s : State) (w : Nat) (h : HomeOp) : State :=
  s.modWave w (fun x => x.modHop h.seq (fun q =>
    { q with reached := true, binds := q.binds.or (some (s.bindingsNow h)) }))

/-- A release may become visible: every earlier access of the wave to a bound range is performed (R145). -/
def State.released (s : State) (w : Nat) (h : HomeOp) : Bool :=
  let x := s.wave w
  let bs := s.bindingsOf w h
  !(x.flight.any (fun a => decide (a.seq < h.seq) && !a.scratch &&
    ((a.path = 3 && (a.accs.isEmpty || a.more) && a.pending && !bs.isEmpty) ||
      a.accs.any (fun c => !c.fixed && bs.any (fun b => b.covers (BitVec.ofNat 64 c.va) c.size)))))

/-- The physical ranges that a binding covers in an address space: page by page, where it translates. -/
def Binding.extents (s : State) (sp : Space) (b : Binding) : List (Nat × Nat) :=
  (rangePages b.base b.len).filterMap (fun p =>
    match translate s sp p.2 with
    | .ok pa _ =>
      let off := (p.2 - b.base).toNat
      some (pa, min (65536 - p.2.toNat % 65536) (b.len - off))
    | _ => none)

/-- An acquire (R146): at device and system scope the shared copies of the object's bound ranges in the wave's cluster
are discarded. -/
def State.acquire (s : State) (w : Nat) (h : HomeOp) : State :=
  let x := s.wave w
  if (s.cluster x.cluster).copies.isEmpty then s
  else
    let es := ((s.bindingsOf w h).filter (fun b => decide (3 ≤ b.scope))).flatMap
      (Binding.extents s (s.space w))
    s.dropCopies x.cluster (fun l => es.any (fun e => decide (128 * l < e.1 + e.2) && decide (e.1 < 128 * l + 128)))

/-! ### Objects of memory at their homes -/

/-- A home's write for a requester of cluster `c`, or for one of no cluster. -/
def State.homeWrite (s : State) (c : Option Nat) (pa : Nat) (bs : List Byte) : State :=
  match c with
  | some c => s.writeBy c pa bs
  | none => s.writeMem pa bs

/-- Checks an object's address at issue as a load and a store (R156); a translation fault is waited for. -/
def withObject (f : Focus) (s : State) (size : Nat) (va : Dword) (k : Nat → Res) : Res :=
  match checkVa s (s.space f.wave) .readWrite size va with
  | .trap c => .trap c va
  | .miss bad => .xlate false bad (accessBits .readWrite) 0xFF va []
  | .ok pa => k pa

/-- What touching a slot of an object at its home finds. -/
inductive Slot where
  | at (pa : Nat)
  /-- Its page does not translate: the operation waits and the page is asked for. -/
  | miss (bad : Bool)
  /-- The access is not permitted. -/
  | no
  deriving DecidableEq, Repr

/-- Touches `n` bytes at a slot's address. -/
def touchSlot (s : State) (sp : Space) (acc : Access) (n : Nat) (va : Dword) : Slot :=
  match checkVa s sp acc n va with
  | .ok pa => .at pa
  | .miss bad => .miss bad
  | .trap _ => .no

/-- Asks for the page of a slot that an operation of a wave does not find (R296). -/
def State.askPage (s : State) (w : Nat) (bad : Bool) (acc : Access) (va : Dword) : State :=
  let x := s.wave w
  s.mergeFault (sectionOf x.cluster) x.csr.asid (pageOf va) (waveRec x bad (accessBits acc) 0xFF va [pageOf va])

/-! ### Queue headers (R176, R177) -/

/-- A queue header as read; `sub` is the QUEUE subcode of its check, 0 where it is valid. -/
structure QHead where
  slotBase : Dword
  elog : Nat
  cap : Nat
  head : Nat
  tail : Nat
  prio : Nat
  watched : Bool
  sub : Nat
  deriving DecidableEq, Repr

/-- Reads a queue header (R176, R177). -/
def State.queueHead (s : State) (pa : Nat) : QHead :=
  let n := fun o k => s.readNat (pa + o) k
  let base := n 0 8
  let elog := n 8 4
  let cap := n 12 4
  let head := n 0x10 8
  let tail := n 0x18 8
  let flags := n 0x20 4
  let ok := decide (4 ≤ elog) && decide (elog ≤ 6) && decide (cap ≤ 24) && base % 2 ^ elog = 0 && decide (flags < 8) &&
    (s.readBytes (pa + 0x24) 92).all (fun b => b = 0)
  { slotBase := BitVec.ofNat 64 base, elog, cap, head, tail, prio := flags / 2 % 4, watched := flags % 2 = 1,
    sub := if !ok then 2 else if 2 ^ cap < (tail + 2 ^ 64 - head) % 2 ^ 64 then 4 else 0 }

/-- The address of entry `i` of a queue. -/
def QHead.slot (q : QHead) (i : Nat) : Dword := q.slotBase + BitVec.ofNat 64 (i % 2 ^ q.cap * 2 ^ q.elog)

/-- Entries that fit, and entries that may be popped (R178). -/
def QHead.room (q : QHead) : Nat := 2 ^ q.cap - (q.tail + 2 ^ 64 - q.head) % 2 ^ 64

def QHead.stock (q : QHead) : Nat := q.tail - q.head

/-- Touches the slots of entries `i` to `i + n - 1`: their places, or what keeps the operation from them. -/
def State.queueSlots (s : State) (sp : Space) (acc : Access) (q : QHead) (i : Nat) : Nat → Except (Dword × Slot) (List Nat)
  | 0 => .ok []
  | n + 1 =>
    match touchSlot s sp acc (2 ^ q.elog) (q.slot i) with
    | .at pa => (s.queueSlots sp acc q (i + 1) n).map (pa :: ·)
    | r => .error (q.slot i, r)

/-- Fills entries at these places and moves TAIL (R178). -/
def State.queuePut (s : State) (c : Option Nat) (pa : Nat) (q : QHead) (slots : List Nat) (es : List (List Byte)) : State :=
  ((slots.zip es).foldl (fun s e => s.homeWrite c e.1 e.2) s).homeWrite c (pa + 0x18) (leBytes 8 (q.tail + es.length))

/-! ### Ring headers (R179, R180) -/

/-- A ring header as read. -/
structure RHead where
  slotBase : Dword
  slotLog : Nat
  cnt : Nat
  resv : Nat
  fill : Nat
  rel : Nat
  valid : Bool
  statBase : Dword
  ok : Bool
  deriving DecidableEq, Repr

/-- Reads a ring header (R179). A slot count beyond 2^64 acts as 2^64, since an index has 64 bits. -/
def State.ringHead (s : State) (pa : Nat) : RHead :=
  let n := fun o k => s.readNat (pa + o) k
  let base := n 0 8
  let slotLog := n 8 4
  let cnt := n 12 4
  let resv := n 0x10 8
  let fill := n 0x18 8
  let rel := n 0x20 8
  let stat := n 0x38 8
  { slotBase := BitVec.ofNat 64 base, slotLog, cnt := min cnt 64, resv, fill, rel, valid := n 0x30 4 / 2 ^ 31 = 1,
    statBase := BitVec.ofNat 64 stat,
    ok := decide (4 ≤ slotLog) && decide (slotLog ≤ 16) && decide (cnt ≤ 16) && base % 2 ^ slotLog = 0 && stat % 4 = 0 &&
      decide (rel ≤ fill) && decide (fill ≤ resv) && decide (resv ≤ rel + 2 ^ cnt) }

/-- The address of slot `i`'s data, and of its status word. -/
def RHead.slot (r : RHead) (i : Nat) : Dword := r.slotBase + BitVec.ofNat 64 (i % 2 ^ r.cnt * 2 ^ r.slotLog)

def RHead.stat (r : RHead) (i : Nat) : Dword := r.statBase + BitVec.ofNat 64 (4 * (i % 2 ^ r.cnt))

/-- A slot's status word in a space: free where it cannot be read. -/
def State.ringStat (s : State) (sp : Space) (r : RHead) (i : Nat) : Word :=
  match touchSlot s sp .read 4 (r.stat i) with
  | .at pa => BitVec.ofNat 32 (s.readNat pa 4)
  | _ => (s.freeVal 700).lo

/-- FILL after it has advanced over the slots that are done (R180). -/
def State.fillFrom (s : State) (sp : Space) (r : RHead) : Nat → Nat → Nat
  | 0, i => i
  | n + 1, i =>
    if i < r.resv then
      match touchSlot s sp .read 4 (r.stat i) with
      | .at pa => if s.readNat pa 4 / 2 ^ 31 = 1 then s.fillFrom sp r n (i + 1) else i
      | _ => i
    else i

/-- An engine ends slot `i` of a ring with a status word (R180): the word, the fault's record, and FILL. A status word
whose page the engine does not reach is not written. -/
def State.ringEnd (s : State) (sp : Space) (pa i : Nat) (status : Word) : State :=
  let r := s.ringHead pa
  let s := match touchSlot s sp .write 4 (r.stat i) with
    | .at q => s.writeMem q (leBytes 4 status.toNat)
    | _ => s
  let s := if status.getLsbD 30 && !r.valid then
      ((s.writeMem (pa + 0x28) (leBytes 8 i)).writeMem (pa + 0x34) (leBytes 4 (status.toNat % 2 ^ 24))).writeMem
        (pa + 0x30) (leBytes 4 (2 ^ 31 + status.toNat / 2 ^ 24 % 64))
    else s
  s.writeMem (pa + 0x18) (leBytes 8 (s.fillFrom sp r (2 ^ min r.cnt 16) r.fill))

/-- A status word (R180): DONE, a fault's cause, UNITS. -/
def slotStatus (cause : Option Nat) (units : Nat) : Word :=
  BitVec.ofNat 32 (2 ^ 31 + (match cause with
    | some c => 2 ^ 30 + c % 64 * 2 ^ 24
    | none => 0) + units % 2 ^ 24)

end Sys2Proof.Machine
end

