-- ==== Sys2Proof/Machine/Sync.lean ====
section
/-! DEFINITION. The synchronisation class (R154 to R181): its instructions at issue, and their operations at home slices. NWAIT
is in Neural.lean. -/

namespace Sys2Proof.Machine

/-! ### At issue -/

/-- A CLAUSE trap. -/
def clauseTrap (sub : Nat) : Res := .trap causeClause (BitVec.ofNat 64 sub)

/-- What a clause instruction with a lane set states. -/
def clausePre (ok : Wave → Bool) (reads writes : List Reg) : Focus → State → Pre :=
  fun f s => { lanes := true, ok := ok (s.wave f.wave), reads := reads ++ s.activeRegs f.wave f.split, writes,
               ra := .suppress }

/-- The checks of a CLAUSE handle at issue (R156). -/
def withClause (h : Dword) (r : Res) : Res :=
  if handleType h ≠ 1 then clauseTrap 1 else if h.extractLsb' 32 28 ≠ 0 then clauseTrap 2 else r

/-- The wave's member lanes of a clause in program order: its slot, less the lanes whose leaves are on their way (R392). -/
def Wave.members (x : Wave) (h : Dword) : Mask :=
  let m := match x.findMemb h with
    | some j => (mapGet Memb.empty x.memb j).mask
    | Option.none => 0
  x.hops.foldl (fun m q => match q.op with
    | .clleave _ _ => if q.hnd = h then m &&& ~~~ q.act else m
    | _ => m) m

/-- A lane instruction on a clause: nothing without lanes, the checks, and the operation. -/
def clauseIssue (member : Bool) (f : Focus) (s : State) (a : Code) (k : Dword → Mask → Res) : Res :=
  let act := s.active f.wave f.split
  let h := s.readH f.wave a.toNat
  if act = 0 then .done s
  else withClause h
    (if member && act &&& ~~~ ((s.wave f.wave).members h) ≠ 0 then clauseTrap 5 else k h act)

/-- CLOPEN (R160). -/
def execClopen (d a b : Code) (S : Stall) (lit : Option Word) : State → Host.Outcome State Fault Refusal :=
  issue S
    (fun f _ => { ok := hOk d && srcOk false a && decide (b.toNat < 96),
                  reads := srcRegs f.split a ++ srcRegs f.split b, writes := hRegs d ++ srcRegs f.split b, ra := .suppress })
    (fun f s =>
      let key := s.readSrc f.wave f.split lit a
      let q := min (s.readS f.wave b.toNat).toNat 524288
      sendHeld f s (hopOf f S (.clopen d a b S lit) 0 0 0 [key.toNat, q] true))

/-- CLJOIN (R165): a join that would need a ninth slot traps; while a leave that may free one is on its way it holds. -/
def execCljoin (d a : Code) (S : Stall) : State → Host.Outcome State Fault Refusal :=
  issue S (fun f s => clausePre (fun _ => dstOk d && hOk a) (hRegs a) (srcRegs f.split d) f s)
    (fun f s => clauseIssue false f s a (fun h act =>
      let x := s.wave f.wave
      let used := ((List.range 8).map (fun j => (mapGet Memb.empty x.memb j).handle)).filter (fun h => h ≠ 0)
      let coming := (x.hops.filter (fun q => match q.op with
        | .cljoin _ _ _ => !(used.contains q.hnd)
        | _ => false)).map HomeOp.hnd
      let all := used ++ distinct coming
      if !(all.contains h) ∧ 8 ≤ all.length then
        (if x.hops.any (fun q => match q.op with
          | .clleave _ _ => true
          | _ => false) then .hold else clauseTrap 3)
      else sendHeld f s (hopOf f S (.cljoin d a S) h act 0 [] true)))

/-- CLLEAVE (R165). -/
def execClleave (a : Code) (S : Stall) : State → Host.Outcome State Fault Refusal :=
  issue S (clausePre (fun _ => hOk a) (hRegs a) [])
    (fun f s => clauseIssue false f s a (fun h act => sendFree f s (hopOf f S (.clleave a S) h act 0 [] false)))

/-- CLARRIVE (R165). -/
def execClarrive (a : Code) (S : Stall) : State → Host.Outcome State Fault Refusal :=
  issue S (clausePre (fun _ => hOk a) (hRegs a) [])
    (fun f s => clauseIssue true f s a (fun h act => sendFree f s (hopOf f S (.clarrive a S) h act 0 [] false)))

/-- The lanes that a blocking clause instruction is to make arrive: those without a standing arrival (R168). -/
def Wave.arriving (x : Wave) (h : Dword) (act : Mask) : Mask :=
  match x.findMemb h with
  | some j => act &&& ~~~ (mapGet Memb.empty x.memb j).waiting
  | Option.none => act

/-- Sends a blocking clause instruction. -/
def sendArrival (f : Focus) (s : State) (h : HomeOp) : Res :=
  sendHeld f s { h with arr := (s.wave f.wave).arriving h.hnd h.act }

/-- CLWAIT (R165). -/
def execClwait (d a : Code) (S : Stall) : State → Host.Outcome State Fault Refusal :=
  issue S (fun f s => clausePre (fun _ => dstOk d && hOk a) (hRegs a) (srcRegs f.split d) f s)
    (fun f s => clauseIssue true f s a (fun h act => sendArrival f s (hopOf f S (.clwait d a S) h act 0 [] true)))

/-- CLBAR (R165). -/
def execClbar (d a : Code) (S : Stall) : State → Host.Outcome State Fault Refusal :=
  issue S (fun f s => clausePre (fun _ => dstOk d && hOk a) (hRegs a) (srcRegs f.split d) f s)
    (fun f s => clauseIssue true f s a (fun h act => sendArrival f s (hopOf f S (.clbar d a S) h act 0 [] true)))

/-- An ST field of CLVOTE and CLRED (R166): s0 to s95, or none. -/
def stOk (st : Code) : Bool := decide (st.toNat < 96) || st = 127

/-- CLVOTE (R166): the contribution is the vote. -/
def execClvote (d a b : Code) (kind : BitVec 2) (st : BitVec 7) (S : Stall) : State → Host.Outcome State Fault Refusal :=
  issue S (fun f s => clausePre (fun _ => dstOk d && hOk a && predSrcOk b && stOk st) (hRegs a ++ predRegs f.split b)
      (srcRegs f.split d ++ srcRegs f.split st) f s)
    (fun f s => clauseIssue true f s a (fun h act =>
      let p := s.readPred f.wave f.split b
      sendArrival f s (hopOf f S (.clvote d a b kind st S) h act 0
        ((Mask.lanes act).map (fun L => if p.getLsbD L then 1 else 0)) true)))

/-- Registers of a value of a clause reduction. -/
def clauseRegs (ty : BitVec 2) : Nat := if ty.toNat < 2 then 1 else 2

/-- CLRED (R166): the contribution is the lane's value. -/
def execClred (d a b : Code) (op : BitVec 4) (ty : BitVec 2) (st : BitVec 7) (S : Stall) :
    State → Host.Outcome State Fault Refusal :=
  let n := clauseRegs ty
  issue S (fun f s => clausePre (fun x => vOk x d n && hOk a && vOk x b n && stOk st) (hRegs a ++ vRegs b n)
      (vRegs d n ++ srcRegs f.split st) f s)
    (fun f s => clauseIssue true f s a (fun h act =>
      sendArrival f s (hopOf f S (.clred d a b op ty st S) h act 0
        ((Mask.lanes act).map (fun L => s.readVn f.wave n b L)) true)))

/-- CLCLOSE (R161). -/
def execClclose (a : Code) (S : Stall) : State → Host.Outcome State Fault Refusal :=
  issue S (fun _ _ => { ok := hOk a, reads := hRegs a, ra := .suppress })
    (fun f s =>
      let h := s.readH f.wave a.toNat
      withClause h (sendHeld f s (hopOf f S (.clclose a S) h 0 0 [] true)))

/-- CLINFO (R170). -/
def execClinfo (d a b : Code) (S : Stall) (lit : Option Word) : State → Host.Outcome State Fault Refusal :=
  issue S (fun f _ => { ok := dstOk d && hOk a && srcOk false b, reads := hRegs a ++ srcRegs f.split b,
                        writes := srcRegs f.split d, ra := .suppress })
    (fun f s =>
      let h := s.readH f.wave a.toNat
      let sel := (s.readSrc f.wave f.split lit b).toNat
      withClause h
        (if 6 < sel then .trap causeIllegal 0
        else sendHeld f s (hopOf f S (.clinfo d a b S lit) h 0 0 [sel] true)))

/-- The objects that BIND accepts, and the address that one of memory must have (R156). Whether BIND checks what a queue's or
ring's header holds the spec leaves open: it does not (DESIGN CHOICE, log 77). -/
def withBound (f : Focus) (s : State) (h : Dword) (k : Nat → Res) : Res :=
  let va := handleAddr h
  match handleType h with
  | 1 => if h.extractLsb' 32 28 ≠ 0 then clauseTrap 2 else k 0
  | 2 => if va.toNat % 128 ≠ 0 then .trap causeRing 2 else withObject f s 1 va k
  | 3 => if va.toNat % 128 ≠ 0 then .trap causeQueue 2 else withObject f s 1 va k
  | 4 => withObject f s 8 va k
  | _ => clauseTrap 1

/-- BIND (R171). -/
def execBind (d a b : Code) (index : BitVec 4) (scope : BitVec 3) (clear : BitVec 1) (S : Stall) (lit : Option Word) :
    State → Host.Outcome State Fault Refusal :=
  issue S (fun f _ => { ok := hOk d && pairSrcOk false a && srcOk false b && litOnce [a, b],
                        reads := hRegs d ++ pairRegs f.split a ++ srcRegs f.split b, ra := .suppress })
    (fun f s =>
      let h := s.readH f.wave d.toNat
      let base := s.readPair f.wave f.split lit a
      let len := (s.readSrc f.wave f.split lit b).toNat
      withBound f s h (fun pa =>
        if clear = 0 ∧ (base.toNat % 128 ≠ 0 ∨ len % 128 ≠ 0 ∨ len < 128) then .trap causeMisalign base
        else sendHeld f s (hopOf f S (.bind d a b index scope clear S lit) h 0 pa [base.toNat, len] true)))

/-- A lock word's handle at issue (R156). -/
def withLock (f : Focus) (s : State) (h : Dword) (k : Nat → Res) : Res :=
  if handleType h ≠ 4 then clauseTrap 1 else withObject f s 8 (handleAddr h) k

/-- ACQ (R172). -/
def execAcq (d a b : Code) (S : Stall) (lit : Option Word) : State → Host.Outcome State Fault Refusal :=
  issue S (fun f _ => { ok := pairDstOk d && hOk a && pairSrcOk false b, reads := hRegs a ++ pairRegs f.split b,
                        writes := pairRegs f.split d, ra := .suppress })
    (fun f s =>
      let h := s.readH f.wave a.toNat
      withLock f s h (fun pa => sendHeld f s (hopOf f S (.acq d a b S lit) h 0 pa
        [(s.readPair f.wave f.split lit b).toNat] true)))

/-- REL (R172). -/
def execRel (a b : Code) (S : Stall) (lit : Option Word) : State → Host.Outcome State Fault Refusal :=
  issue S (fun f _ => { ok := hOk a && pairSrcOk false b, reads := hRegs a ++ pairRegs f.split b, ra := .suppress })
    (fun f s =>
      let h := s.readH f.wave a.toNat
      withLock f s h (fun pa => sendFree f s (hopOf f S (.rel a b S lit) h 0 pa
        [(s.readPair f.wave f.split lit b).toNat] false)))

/-! ### Gang barriers, WAITC and fences (R147, R148, R173 to R175) -/

/-- Every access of the wave before operation `seq` is performed (R149); what LDGS still brings to scratch, once it has
read it, is its engine's (R152). -/
def Wave.accessesDone (x : Wave) (seq : Nat) : Bool := x.flight.all (fun a => decide (seq ≤ a.seq) || !a.pending)

/-- The GARRIVEs at barrier `n` that are on their way (R155). -/
def Wave.garrives (x : Wave) (n : Nat) : Nat :=
  (x.hops.filter (fun h => match h.op with
    | .garrive m _ => m.toNat = n
    | _ => false)).length

/-- A wave's arrivals at barrier `n`, made or on their way, whose phases have not completed (R174). -/
def State.gangArrivals (s : State) (w n : Nat) : Nat :=
  let x := s.wave w
  (s.gang x.gang).arrivals n x.idx s.clk + x.garrives n

/-- The arrival that a GBAR at this address keeps (R174): the phase in which it counted. -/
def Wave.keptArrival (x : Wave) (f : Focus) (n : Nat) : Option Nat :=
  (x.gbars.find? (fun b => b.1 = f.split && b.2.1 = n && b.2.2.2 = f.pc)).map (fun b => b.2.2.1)

/-- The wave with the arrival that a GBAR keeps, or without it. -/
def Wave.keepArrival (x : Wave) (f : Focus) (n : Nat) (t : Option Nat) : Wave :=
  let rest := x.gbars.filter (fun b => !(b.1 = f.split && b.2.1 = n && b.2.2.2 = f.pc))
  { x with gbars := match t with
      | some t => (f.split, n, t, f.pc) :: rest
      | Option.none => rest }

/-- GBAR (R174): its arrival follows the wave's earlier accesses and its earlier arrivals at the barrier, and a third arrival
holds; it keeps the arrival while it waits, through traps and pre-emption. Its reissue is known by the split, the barrier and
the address. -/
def execGbar (n : BitVec 4) (S : Stall) : State → Host.Outcome State Fault Refusal :=
  issue S (fun _ _ => { ra := .suppress })
    (fun f s =>
      let x := s.wave f.wave
      let bar := (s.gang x.gang).barAt n.toNat s.clk
      match x.keptArrival f n.toNat with
      | some t =>
        if t < bar.phase then .done (s.modWave f.wave (fun x => x.keepArrival f n.toNat none)) else .hold
      | none =>
        if x.garrives n.toNat ≠ 0 || decide (2 ≤ s.gangArrivals f.wave n.toNat) || !(x.accessesDone x.seq) then .hold
        else .quit (((s.modGang x.gang (fun g => g.arriveBar n.toNat x.idx s.clk)).modWave f.wave (fun x =>
          x.keepArrival f n.toNat (some (bar.phase + s.gangArrivals f.wave n.toNat)))).held f))

/-- GARRIVE (R174): it is delivered when the wave's earlier accesses are performed (R149, R155); a third arrival holds. -/
def execGarrive (n : BitVec 4) (S : Stall) : State → Host.Outcome State Fault Refusal :=
  issue S (fun _ _ => { ra := .suppress })
    (fun f s =>
      if 2 ≤ s.gangArrivals f.wave n.toNat then .hold
      else sendFree f s (hopOf f S (.garrive n S) 0 0 0 [] false))

/-- The first GARRIVE on its way that may arrive: its wave, and its place. -/
def State.arrivable (s : State) : Option (Nat × Nat) :=
  s.waves.findSome? (fun e => ((List.range e.2.hops.length).find? (fun i =>
    match e.2.hops[i]? with
    | some h => (match h.op with
      | .garrive _ _ => e.2.ended || e.2.accessesDone h.seq
      | _ => false)
    | none => false)).map (fun i => (e.1, i)))

/-- A GARRIVE on its way arrives, unless its wave has ended. -/
def State.gangArrive (s : State) (w i : Nat) : State :=
  let x := s.wave w
  match x.hops[i]? with
  | some h =>
    (match h.op with
      | .garrive n _ =>
        if x.ended then s.doneHop w h
        else if !(x.accessesDone h.seq) then s
        else (s.modGang x.gang (fun g => g.arriveBar n.toNat x.idx s.clk)).doneHop w h
      | _ => s)
  | none => s

/-- GWAIT (R174). -/
def execGwait (n : BitVec 4) (S : Stall) : State → Host.Outcome State Fault Refusal :=
  issue S (fun _ _ => { ra := .suppress })
    (fun f s => if s.gangArrivals f.wave n.toNat = 0 then .done s else .hold)

/-- WAITC (R175). Whether a wait that holds reads its operand once or at each try the spec does not say: at each try (DESIGN
CHOICE, log 61). -/
def execWaitc (p : BitVec 3) (b : Code) (S : Stall) (lit : Option Word) : State → Host.Outcome State Fault Refusal :=
  issue S (fun f s => { ok := srcOk false b, reads := srcRegs f.split b, paths := [p.toNat],
                        keep := min (s.readSrc f.wave f.split lit b).toNat 63, ra := .suppress })
    (fun f s =>
      if (s.wave f.wave).counter p.toNat ≤ min (s.readSrc f.wave f.split lit b).toNat 63 then .done s else .hold)

/-- FENCE.L (R147). -/
def execFenceL (S : Stall) : State → Host.Outcome State Fault Refusal :=
  issue S (fun _ _ => { ra := .suppress })
    (fun f s => .done (s.modWave f.wave (fun x => { x with fenceSeq := x.seq })))

/-- FENCE.H (R148). -/
def execFenceH (c : BitVec 3) (S : Stall) : State → Host.Outcome State Fault Refusal :=
  issue S (fun _ _ => { ra := .suppress }) (fun f s => sendHeld f s (hopOf f S (.fenceH c S) 0 0 0 [] true))

/-! ### Queues and rings at issue (R178, R181) -/

/-- The registers of an entry of the queue that a handle names, where its header can be read now: 1 otherwise. -/
def State.entryRegs (s : State) (w : Nat) (h : Dword) : Nat :=
  match handleType h, checkVa s (s.space w) .readWrite 1 (handleAddr h) with
  | 3, .ok pa => let q := s.queueHead pa
                 if q.sub = 0 then 2 ^ q.elog / 4 else 1
  | _, _ => 1

/-- A queue's handle and header at issue (R156, R158): the header's place and what it holds. -/
def withQueue (f : Focus) (s : State) (h : Dword) (pop : Bool) (k : Nat → QHead → Res) : Res :=
  let va := handleAddr h
  let bad := fun (sub : Nat) => Res.trap causeQueue (BitVec.ofNat 64 sub)
  if handleType h ≠ 3 then bad 1
  else if va.toNat % 128 ≠ 0 then bad 2
  else withObject f s 1 va (fun pa =>
    let q := s.queueHead pa
    if q.sub = 2 then bad 2
    else if pop && q.watched then bad 3
    else if q.sub = 4 then bad 4
    else k pa q)

/-- QENQ (R178). -/
def execQenq (d a b : Code) (S : Stall) : State → Host.Outcome State Fault Refusal :=
  issue S
    (fun f s => clausePre (fun _ => decide (d.toNat < 8) && hOk a)
      (hRegs a ++ vRegs b (s.entryRegs f.wave (s.readH f.wave a.toNat))) (predRegs f.split d) f s)
    (fun f s =>
      let act := s.active f.wave f.split
      let h := s.readH f.wave a.toNat
      if act = 0 then .done s
      else withQueue f s h false (fun pa q =>
        let r := 2 ^ q.elog / 4
        if !(vOk (s.wave f.wave) b r) then .trap causeIllopnd 0
        else sendHeld f s (hopOf f S (.qenq d a b S) h act pa
          (q.elog :: (Mask.lanes act).map (fun L => s.readVn f.wave r b L)) true)))

/-- QPOP (R178). -/
def execQpop (d a b : Code) (S : Stall) : State → Host.Outcome State Fault Refusal :=
  issue S
    (fun f s => clausePre (fun _ => decide (b.toNat < 8) && hOk a) (hRegs a)
      (predRegs f.split b ++ vRegs d (s.entryRegs f.wave (s.readH f.wave a.toNat))) f s)
    (fun f s =>
      let act := s.active f.wave f.split
      let h := s.readH f.wave a.toNat
      if act = 0 then .done s
      else withQueue f s h true (fun pa q =>
        if !(vOk (s.wave f.wave) d (2 ^ q.elog / 4)) then .trap causeIllopnd 0
        else sendHeld f s (hopOf f S (.qpop d a b S) h act pa [q.elog] true)))

/-- QENQU (R178). -/
def execQenqu (d a b : Code) (S : Stall) : State → Host.Outcome State Fault Refusal :=
  issue S
    (fun f s => { ok := dstOk d && hOk a && decide (b.toNat < 96),
                  reads := hRegs a ++ sRegs b (s.entryRegs f.wave (s.readH f.wave a.toNat)),
                  writes := srcRegs f.split d, ra := .suppress })
    (fun f s =>
      let h := s.readH f.wave a.toNat
      withQueue f s h false (fun pa q =>
        let r := 2 ^ q.elog / 4
        if b.toNat % r ≠ 0 ∨ 96 < b.toNat + r then .trap causeIllopnd 0
        else sendHeld f s (hopOf f S (.qenqu d a b S) h 0 pa
          [q.elog, packElems 32 ((List.range r).map (fun i => (s.readS f.wave (b.toNat + i)).toNat))] true)))

/-- A ring's handle and header at issue (R156, R158). -/
def withRing (f : Focus) (s : State) (h : Dword) (k : Nat → RHead → Res) : Res :=
  let va := handleAddr h
  let bad := fun (sub : Nat) => Res.trap causeRing (BitVec.ofNat 64 sub)
  if handleType h ≠ 2 then bad 1
  else if va.toNat % 128 ≠ 0 then bad 2
  else withObject f s 1 va (fun pa =>
    let r := s.ringHead pa
    if !r.ok then bad 2 else k pa r)

/-- RAWAIT (R181). -/
def execRawait (d a b : Code) (S : Stall) (lit : Option Word) : State → Host.Outcome State Fault Refusal :=
  issue S (fun f _ => { ok := dstOk d && hOk a && pairSrcOk false b, reads := hRegs a ++ pairRegs f.split b,
                        writes := srcRegs f.split d, ra := .suppress })
    (fun f s =>
      let h := s.readH f.wave a.toNat
      let i := (s.readPair f.wave f.split lit b).toNat
      withRing f s h (fun pa r =>
        if i < r.rel ∨ r.resv ≤ i then .trap causeRing 3
        else sendHeld f s (hopOf f S (.rawait d a b S lit) h 0 pa [i] true)))

/-- RARES (R181). -/
def execRares (d a : Code) (S : Stall) : State → Host.Outcome State Fault Refusal :=
  issue S (fun f _ => { ok := pairDstOk d && hOk a, reads := hRegs a, writes := pairRegs f.split d, ra := .suppress })
    (fun f s =>
      let h := s.readH f.wave a.toNat
      withRing f s h (fun pa _ => sendHeld f s (hopOf f S (.rares d a S) h 0 pa [] true)))

/-- RAREL (R181). -/
def execRarel (a b : Code) (S : Stall) (lit : Option Word) : State → Host.Outcome State Fault Refusal :=
  issue S (fun f _ => { ok := hOk a && pairSrcOk false b, reads := hRegs a ++ pairRegs f.split b, ra := .suppress })
    (fun f s =>
      let h := s.readH f.wave a.toNat
      let i := (s.readPair f.wave f.split lit b).toNat
      withRing f s h (fun pa r =>
        if i < r.rel ∨ r.fill < i then .trap causeRing 4
        else sendHeld f s (hopOf f S (.rarel a b S lit) h 0 pa [i] true)))

/-! ### Handles (R157) -/

/-- HMAKE. -/
def execHmake (d a : Code) (t : BitVec 4) (S : Stall) (lit : Option Word) : State → Host.Outcome State Fault Refusal :=
  issue S (fun f _ => { ok := hOk d && pairSrcOk false a, reads := pairRegs f.split a, writes := hRegs d })
    (fun f s => .done (s.writeH f.wave d.toNat (t ++ (s.readPair f.wave f.split lit a).extractLsb' 0 60)))

/-- HREAD. -/
def execHread (d a : Code) (S : Stall) : State → Host.Outcome State Fault Refusal :=
  issue S (fun f _ => { ok := pairDstOk d && hOk a, reads := hRegs a, writes := pairRegs f.split d })
    (fun f s => .done (s.writePair f.wave f.split 1 d (s.readH f.wave a.toNat)))

/-! ### Clause operations at home (R160 to R170) -/

/-- CLOPEN at the key's home slice (R160): the handle, the value for s[B], and the state. -/
def State.openClause (s : State) (key : Word) (asid world q : Nat) : Dword × Word × State :=
  let es := (List.range 64).map (fun i => 64 * keySlice key + i)
  match es.find? (fun e => let c := s.clause e
                           c.live && c.key = key && c.asid = asid && c.world = world) with
  | some e =>
    let c := s.clause e
    if c.refs = 0xFFFFFFFF then (0, 3, s)
    else (clauseHandle e c.gen, 0, s.setClause e { c with refs := c.refs + 1 })
  | none =>
    match es.find? (fun e => !(s.clause e).live) with
    | some e =>
      let gen := (s.clause e).gen
      (clauseHandle e gen, 2, s.setClause e
        { Clause.empty with live := true, key, asid, world, gen, refs := 1, quorum := max q 1 })
    | none => (0, 1, s)

/-- The lanes of a held operation are all in D or J. -/
def Memb.settled (m : Memb) (act : Mask) : Bool := act &&& m.mask &&& (m.arrived ||| m.early) = 0

/-- The slot of the wave for an operation's clause; an empty one where it has none. -/
def Wave.membOf (x : Wave) (h : Dword) : Memb :=
  match x.findMemb h with
  | some j => mapGet Memb.empty x.memb j
  | Option.none => Memb.empty

/-- The answer to a clause operation, with this status and this result, would be a write that MODE refuses (R38). -/
def HomeOp.answerBad (h : HomeOp) (status : Word) (last : Dword) : Bool :=
  match h.op with
  | .clvote d _ _ _ _ _ => dstBad d (Dword.lo last)
  | .clbar d _ _ => dstBad d status
  | .clwait d _ _ => dstBad d status
  | _ => false

/-- A held clause operation whose lanes have gone on is answered with this status (R165, R166): its result is LAST's. Where ST and
the result's destination are one register, the spec leaves open which stands: the result, written last (DESIGN CHOICE, log 78). -/
def State.answerClause (s : State) (w : Nat) (h : HomeOp) (status : Word) : State :=
  let x := s.wave w
  let last := (s.clauseSeen w h.hnd).last
  if h.answerBad status last then s.refuse w h causeIllegal 0 else
  let s := match x.findMemb h.hnd with
    | some j => s.modWave w (fun x => x.modMemb j (fun m => { m with waiting := m.waiting &&& ~~~ h.act }))
    | none => s
  let s := s.acquire w h
  match h.op with
  | .clvote d _ _ _ st _ => (s.writeDst w h.split 1 st status).answerS w h d (Dword.lo last)
  | .clred d _ _ _ ty st _ =>
    ((s.writeDst w h.split 1 st status).writeVn w h.split 1 (clauseRegs ty) d h.act (fun _ => last.toNat)).answer w h
  | .clbar d _ _ => s.answerS w h d status
  | .clwait d _ _ => s.answerS w h d status
  | _ => s

/-- Answers the held clause operations of a wave whose arrivals stand and whose lanes have gone on. -/
def State.answerWave (s : State) (w : Nat) : List HomeOp → State
  | [] => s
  | h :: r =>
    let x := s.wave w
    let s := if h.holding && h.arrived.isSome && x.ra.isNone && (x.membOf h.hnd).settled h.act then
        s.answerClause w h (s.clauseSeen w h.hnd).lastStatus
      else s
    s.answerWave w r

/-- A completed phase releases its waiters (R164). -/
def State.releaseWaiters (s : State) : State :=
  s.waveIds.foldl (fun s w => s.answerWave w (s.wave w).hops) s

/-- The operation of a clause's phase that an arrival carries (R166), and the contributions of lanes of a mask. -/
def HomeOp.clauseOp (h : HomeOp) : Option (Nat × Nat × Nat) :=
  match h.op with
  | .clvote _ _ _ kind _ _ => some (1, kind.toNat, 0)
  | .clred _ _ _ op ty _ _ => some (2, op.toNat, ty.toNat)
  | _ => none

def HomeOp.values (h : HomeOp) (m : Mask) : List Dword :=
  (((Mask.lanes h.act).zip (h.vals.drop 2)).filter (fun e => m.getLsbD e.1)).map (fun e => BitVec.ofNat 64 e.2)

/-- An arrival at the home (R163, R165, R166): while one of its lanes is in AE or JE it waits there; `k` follows an
arrival that is made. -/
def State.homeArrive (s : State) (w : Nat) (h : HomeOp) (k : State → State) : State :=
  let e := handleEntry h.hnd
  let c := s.clause e
  let (d, a, j, ae, je) := ((s.wave w).membOf h.hnd).states h.arr
  let clash := fun (n : Mask) (op : Option (Nat × Nat × Nat)) =>
    n ≠ 0 && h.clauseOp.isSome && op.isSome && op ≠ h.clauseOp
  if ae ||| je ≠ 0 then s.waitHome w h
  else if clash d c.op0 || clash (a ||| j) c.op1 then s.refuse w h causeClause 6
  else
    let s := match (s.wave w).findMemb h.hnd with
      | some i => s.modWave w (fun x => x.modMemb i (fun m =>
          { m with arrived := m.arrived ||| d, early := m.early ||| a ||| j }))
      | none => s
    k ((s.setClause e (c.arrive (Mask.count d) (Mask.count (a ||| j)) h.clauseOp (h.values d)
      (h.values (a ||| j)))).settle e)

/-- A blocking clause operation at the home: its arrival, unless it is CLWAIT, and then its wait. -/
def State.homeBlock (s : State) (w : Nat) (h : HomeOp) : State :=
  let stand := fun (t : State) => (t.modWave w (fun x => x.modHop h.seq (fun q =>
    { q with arrived := some 0, reached := true, arr := q.act, binds := q.binds.or (some (s.bindingsNow h)) })))
  match h.op with
  | .clwait _ _ _ =>
    let m := (s.wave w).membOf h.hnd
    let c := s.clause (handleEntry h.hnd)
    if m.settled h.act && m.waiting &&& h.act = 0 then
      s.answerClause w h (phaseStatus c.faulted (c.phase - 1))
    else stand s
  | _ => s.homeArrive w h stand

/-- CLJOIN at the home (R163, R165): lanes that are members already change nothing, and complete no phase (R164). -/
def State.homeJoin (s : State) (w : Nat) (h : HomeOp) (d : Code) : State :=
  let e := handleEntry h.hnd
  let c := s.clause e
  let x := s.wave w
  let slot := match x.findMemb h.hnd with
    | some j => some j
    | Option.none => (List.range 8).find? (fun j => (mapGet Memb.empty x.memb j).handle = 0)
  match slot with
  | none => s
  | some j =>
    if dstBad d (c.phase + 1) then s.refuse w h causeIllegal 0 else
    let new := h.act &&& ~~~ (x.membOf h.hnd).mask
    let n := Mask.count new
    let s := s.modWave w (fun x => x.modMemb j (fun m =>
      { m with handle := h.hnd, phase := c.phase, mask := m.mask ||| new, pending := m.pending ||| new }))
    let s := s.setClause e { c with exp1 := c.exp1 + n, joiners := c.joiners + n, members := c.members + n }
    (if n = 0 then s else s.settleJoin e).answerS w h d (c.phase + 1)

/-- What CLINFO reads of an entry (R170). -/
def Clause.info (c : Clause) (sel : Nat) : Word :=
  match sel with
  | 0 => c.phase
  | 1 => BitVec.ofNat 32 c.exp0
  | 2 => BitVec.ofNat 32 c.arr0
  | 3 => BitVec.ofNat 32 c.exp1
  | 4 => BitVec.ofNat 32 c.refs
  | _ => if c.faulted then 0x80000000#32 else 0

/-- A clause operation acts at its home slice. -/
def State.homeClause (s : State) (w : Nat) (h : HomeOp) : State :=
  let x := s.wave w
  let e := handleEntry h.hnd
  let c := s.clause e
  match h.op with
  | .clopen d _ b _ _ =>
    let (hd, st, s) := s.openClause (BitVec.ofNat 32 (h.val 0)) x.csr.asid x.csr.world (h.val 1)
    ((s.writeH w d.toNat hd).writeS w h.split 1 b.toNat st).answer w h
  | .clleave _ _ => ((if h.val 0 = 1 then s.setFaulted w h.hnd else s).clauseLeave w h.hnd h.act).doneHop w h
  | .clarrive _ _ =>
    if !(s.clauseOf w h.hnd) then s.doneHop w h
    else if s.released w h then s.homeArrive w h (fun s => s.doneHop w h)
    else s
  | op =>
    if h.arrived.isSome then s
    else if !(s.clauseLive h.hnd x.csr.asid x.csr.world) then s.refuse w h causeClause 2
    else match op with
      | .cljoin d _ _ => s.homeJoin w h d
      | .clclose _ _ =>
        if c.refs = 0 then s.refuse w h causeClause 4
        else ((s.setClause e { c with refs := c.refs - 1 }).freeClause e).answer w h
      | .clinfo d _ _ _ _ =>
        let v := c.info (h.val 0)
        if dstBad d v then s.refuse w h causeIllegal 0
        else (if h.val 0 = 6 then s.setClause e { c with faulted := false } else s).answerS w h d v
      | .clwait _ _ _ => s.homeBlock w h
      | _ => if s.released w h then s.homeBlock w h else s

/-- The operation is one of clauses, and not BIND. -/
def HomeOp.onClause (h : HomeOp) : Bool :=
  match h.op with
  | .clopen _ _ _ _ _ => true
  | .cljoin _ _ _ => true
  | .clleave _ _ => true
  | .clarrive _ _ => true
  | .clwait _ _ _ => true
  | .clbar _ _ _ => true
  | .clvote _ _ _ _ _ _ => true
  | .clred _ _ _ _ _ _ _ => true
  | .clclose _ _ => true
  | .clinfo _ _ _ _ _ => true
  | _ => false

/-! ### Bindings, locks, queues, rings and fences at home -/

/-- The home slice of an operation's object. -/
def HomeOp.slice (h : HomeOp) : Nat := if handleType h.hnd = 1 then handleEntry h.hnd / 64 else homeSlice h.pa

/-- The objects that have bindings at a slice. -/
def State.boundObjects (s : State) (slice : Nat) : List (Bool × Nat) :=
  distinct ((s.bindings.filter (fun b => b.slice = slice)).map (fun b => (b.isAddr, b.obj)))

/-- BIND_HOME_OP (R171, R392). Subject: wave, and the operation's place. -/
def execBindHomeOp (s : State) : Host.Outcome State Fault Refusal :=
  let w := s.arg 0
  let x := s.wave w
  .next (match s.hopAt w (s.arg 1) with
    | some h =>
      (match h.op with
        | .bind _ _ _ index scope clear _ _ =>
          let isAddr : Bool := handleType h.hnd ≠ 1
          let obj := if isAddr then h.pa else handleEntry h.hnd
          let rest := s.bindings.filter (fun b => !(b.isAddr = isAddr && b.obj = obj && b.index = index.toNat &&
            b.world = x.csr.world))
          if !isAddr ∧ s.clauseLive h.hnd x.csr.asid x.csr.world = false then s.refuse w h causeClause 2
          else if clear = 1 then ({ s with bindings := rest }).answer w h
          else if !((s.boundObjects h.slice).contains (isAddr, obj)) ∧ 512 ≤ (s.boundObjects h.slice).length then
            s.refuse w h causeClause 7
          else
            let b : Binding := {
              slice := h.slice, isAddr, obj, index := index.toNat, base := BitVec.ofNat 64 (h.val 0), len := h.val 1,
              scope := scope.toNat, asid := x.csr.asid, gang := x.gang, cluster := x.cluster, wave := w, world := x.csr.world }
            ({ s with bindings := rest ++ [b] }).answer w h
        | _ => s)
    | none => s)

/-- LOCK_HOME_OP (R172): a REL writes its word; an ACQ whose word has reached the threshold completes, and waits at the
home until then. Subject: wave, and the operation's place. -/
def execLockHomeOp (s : State) : Host.Outcome State Fault Refusal :=
  let w := s.arg 0
  .next (match s.hopAt w (s.arg 1) with
    | some h =>
      if s.lineOwned (h.pa / 128) then s
      else match h.op with
        | .rel _ _ _ _ =>
          if s.released w h then (s.writeBy (s.wave w).cluster h.pa (leBytes 8 (h.val 0))).doneHop w h else s
        | .acq d _ _ _ _ =>
          let v := s.readNat h.pa 8
          if v < h.val 0 then s.waitHome w h
          else ((s.acquire w h).writePair w h.split 1 d (BitVec.ofNat 64 v)).answer w h
        | _ => s
    | none => s)

/-- The first lanes of a mask, as many as `n`. -/
def Mask.firstLanes (m : Mask) (n : Nat) : List Nat := (Mask.lanes m).take n

/-- Entries move at a queue's home (R178), unless the header refuses it. An entry slot whose page does not translate is asked for
and waited for, and one that is not permitted acts as a header that refuses; the spec gives neither (DESIGN CHOICE, log 73). -/
def State.homeQueue (s : State) (w : Nat) (h : HomeOp) (acc : Access) (pop : Bool) (n : Nat)
    (refused : State) (k : QHead → List Nat → State) : State :=
  let q := s.queueHead h.pa
  if q.sub ≠ 0 ∨ q.elog ≠ h.val 0 ∨ (pop ∧ q.watched) then refused
  else
    let n := min n (if pop then q.stock else q.room)
    match s.queueSlots (s.space w) acc q (if pop then q.head else q.tail) n with
    | .ok slots => k q slots
    | .error (va, .miss bad) => s.askPage w bad acc va
    | .error _ => refused

/-- Every earlier write of a wave is performed (R266): its accesses, and its operations at homes that have not got there. -/
def Wave.writesDone (x : Wave) (n : Nat) : Bool :=
  !(x.flight.any (fun a => decide (a.seq < n) && a.pending)) && !(x.hops.any (fun b => decide (b.seq < n) && !b.reached))

/-- QUEUE_HOME_OP (R178, R266). A LAUNCH is a release at device scope over all addresses. Subject: wave, and the operation's place. -/
def execQueueHomeOp (s : State) : Host.Outcome State Fault Refusal :=
  let w := s.arg 0
  let c := some (s.wave w).cluster
  .next (match s.hopAt w (s.arg 1) with
    | some h =>
      let bits := fun (p : Code) (m : Mask) (s : State) => (s.writePBits w h.split 1 p.toNat h.act m).answer w h
      if s.lineOwned (h.pa / 128) then s
      else match h.op with
        | .qenq d _ _ _ =>
          if !(s.released w h) then s
          else s.homeQueue w h .write false (Mask.count h.act) (bits d 0 s) (fun q slots =>
            let ls := Mask.firstLanes h.act slots.length
            bits d (Mask.ofFn ls.contains)
              (s.queuePut c h.pa q slots (((h.vals.drop 3).take slots.length).map (leBytes (2 ^ q.elog)))))
        | .qenqu d _ _ _ =>
          if !(s.released w h) then s
          else s.homeQueue w h .write false 1 (s.answerS w h d 2) (fun q slots =>
            if slots.isEmpty then s.answerS w h d 1
            else (s.queuePut c h.pa q slots [leBytes (2 ^ q.elog) (h.val 1)]).answerS w h d 0)
        | .launch d _ _ _ _ =>
          let q := s.queueHead h.pa
          if !((s.wave w).writesDone h.seq) then s
          else if !q.watched then s.answerS w h d 2
          else s.homeQueue w { h with vals := h.vals.take 2 ++ [q.elog] } .write false 1 (s.answerS w h d 2) (fun q slots =>
            if slots.isEmpty then s.answerS w h d 1
            else (s.queuePut c h.pa q slots [leBytes (2 ^ q.elog) (h.val 0)]).answerS w h d 0)
        | .qpop d _ b _ =>
          s.homeQueue w h .read true (Mask.count h.act) (bits b 0 s) (fun q slots =>
            let es := (Mask.firstLanes h.act slots.length).zip slots
            let m := Mask.ofFn (es.map Prod.fst).contains
            let val := fun L => (es.find? (fun e => e.1 = L)).elim 0 (fun e => s.readNat e.2 (2 ^ q.elog))
            let s' := if slots.isEmpty then s
              else (s.homeWrite c (h.pa + 0x10) (leBytes 8 (q.head + slots.length))).acquire w h
            bits b m (s'.writeVn w h.split 1 (2 ^ q.elog / 4) d m val))
        | _ => s
    | none => s)

/-- RING_HOME_OP (R181). A RARES whose status word has no page yet asks for it and waits, and one whose status word it may not write
goes on without; the spec gives neither (DESIGN CHOICE, log 74). Subject: wave, and the operation's place. -/
def execRingHomeOp (s : State) : Host.Outcome State Fault Refusal :=
  let w := s.arg 0
  let cl := (s.wave w).cluster
  .next (match s.hopAt w (s.arg 1) with
    | some h =>
      let r := s.ringHead h.pa
      if s.lineOwned (h.pa / 128) then s
      else match h.op with
        | .rares d _ _ =>
          if r.resv - r.rel = 2 ^ r.cnt then s.waitHome w h
          else
            let done := fun (s : State) =>
              ((s.writeBy cl (h.pa + 0x10) (leBytes 8 (r.resv + 1))).writePair w h.split 1 d
                (BitVec.ofNat 64 r.resv)).answer w h
            (match touchSlot s (s.space w) .write 4 (r.stat r.resv) with
              | .at pa => done (s.writeBy cl pa [0, 0, 0, 0])
              | .miss bad => s.askPage w bad .write (r.stat r.resv)
              | .no => done s)
        | .rawait d _ _ _ _ =>
          if r.fill ≤ h.val 0 then s.waitHome w h
          else match touchSlot s (s.space w) .read 4 (r.stat (h.val 0)) with
            | .miss bad => s.askPage w bad .read (r.stat (h.val 0))
            | _ =>
              let v := s.ringStat (s.space w) r (h.val 0)
              if dstBad d v then s.refuse w h causeIllegal 0 else (s.acquire w h).answerS w h d v
        | .rarel _ _ _ _ =>
          if !(s.released w h) then s
          else (s.writeBy cl (h.pa + 0x20) (leBytes 8 (max r.rel (h.val 0)))).answer w h
        | _ => s
    | none => s)

/-- A wave lies within the scope of a fence of wave `w` (R148): 1 gang, 2 cluster, 3 device, 4 system. -/
def State.inScope (s : State) (w scope v : Nat) : Bool :=
  let x := s.wave w
  let y := s.wave v
  y.life = .resident && (match scope with
    | 1 => y.gang = x.gang
    | 2 => y.cluster = x.cluster
    | _ => true)

/-- The waves of cluster `c` within a fence's scope. -/
def State.fenced (s : State) (w scope c : Nat) : List Nat :=
  s.waveIds.filter (fun v => s.inScope w scope v && (s.wave v).cluster = c)

/-- Cluster `c` may pass its point of the fence `h` now: the accesses of the issuing wave before the fence, and every
access of its waves within the scope, are performed. -/
def State.mayPass (s : State) (w scope : Nat) (h : HomeOp) (c : Nat) : Bool :=
  (s.wave w).flight.all (fun a => decide (h.seq < a.seq) || !a.pending) &&
    (s.fenced w scope c).all (fun v => v = w || (s.wave v).flight.all (fun a => !a.pending))

/-- FENCE_H_RETURN (R148): clusters pass their points of a held FENCE.H, and the fence returns when every cluster that
holds waves within its scope has passed. Subject: wave, split, and the clusters that pass now (none given: all). -/
def execFenceHReturn (s : State) : Host.Outcome State Fault Refusal :=
  let w := s.arg 0
  .next (match (s.wave w).hops.find? (fun h => h.isFence && h.split = s.arg 1) with
    | none => s
    | some h =>
      match h.op with
      | .fenceH sc _ =>
        let need := distinct ((s.waveIds.filter (s.inScope w sc.toNat)).map (fun v => (s.wave v).cluster))
        let now := (if (s.nums.drop 2).isEmpty then need else s.nums.drop 2).filter (fun c =>
          need.contains c && !((h.vals.drop 2).contains c) && s.mayPass w sc.toNat h c)
        let s := now.foldl (fun s c => s.dropCopies c (fun _ => true)) s
        let h' := { h with vals := h.vals ++ now }
        let s := s.modWave w (fun x => x.modHop h.seq (fun _ => h'))
        if need.all (fun c => (h'.vals.drop 2).contains c) ∧ (s.wave w).ra.isNone then s.answer w h' else s
      | _ => s)

end Sys2Proof.Machine
end

