-- ==== Sys2Proof/Machine/Engine.lean ====
section
/-! DEFINITION. What engines share: their accesses to global memory (R150, R191, R296, R301) and the checks of a ring slot
that a command names (R190, R360). -/

namespace Sys2Proof.Machine

/-- The physical places of the bytes of an engine's access, page by page. -/
def engPieces (s : State) (sp : Space) (acc : Access) : Nat → Dword → Nat → Except EngErr (List (Nat × Nat))
  | 0, _, _ => .ok []
  | fuel + 1, va, n =>
    if n = 0 then .ok []
    else
      let m := min n (65536 - va.toNat % 65536)
      match checkVa s sp acc 1 va with
      | .trap c => .error { cause := c, va, bad := false }
      | .miss bad => .error { cause := causeXlate, va, bad }
      | .ok pa => (engPieces s sp acc fuel (va + BitVec.ofNat 64 m) (n - m)).map ((pa, m) :: ·)

/-- The places of an engine's access of `n` bytes at `va`. -/
def State.engPlaces (s : State) (sp : Space) (acc : Access) (va : Dword) (n : Nat) : Except EngErr (List (Nat × Nat)) :=
  engPieces s sp acc (n / 65536 + 2) va n

/-- The places of an area, page by page, where its pages translate and permit the access. -/
def State.areaPlaces (s : State) (sp : Space) (acc : Access) (a : Dword × Nat) : List (Nat × Nat) :=
  (rangePages a.1 a.2).flatMap (fun p =>
    let off := (p.2 - a.1).toNat
    match s.engPlaces sp acc p.2 (min (65536 - p.2.toNat % 65536) (a.2 - off)) with
    | .ok ps => ps
    | .error _ => [])

/-- The lines that some places touch. -/
def linesOf (ps : List (Nat × Nat)) : List Nat :=
  distinct (ps.flatMap (fun p => if p.2 = 0 then []
    else (List.range ((p.1 + p.2 - 1) / 128 - p.1 / 128 + 1)).map (fun i => p.1 / 128 + i)))

/-- A line of an area is owned by an engine: a read at home waits for it (R150). -/
def State.areaOwned (s : State) (sp : Space) (va : Dword) (n : Nat) : Bool :=
  (linesOf (s.areaPlaces sp .read (va, n))).any s.lineOwned

/-- An engine reads bytes: at home, unless a sector proves uncorrectable. -/
def State.engRead (s : State) (sp : Space) (va : Dword) (n : Nat) : Except EngErr (List Byte) :=
  let r := s.asRead
  match r.engPlaces sp .read va n with
  | .error e => .error e
  | .ok ps =>
    if ps.any (fun p => r.badAt p.1 p.2) then .error { cause := causeUncorr, va, bad := false }
    else .ok (ps.flatMap (fun p => r.readBytes p.1 p.2))

/-- Writes bytes to the places of an access. -/
def State.putPieces (s : State) : List (Nat × Nat) → List Byte → State
  | [], _ => s
  | p :: r, bs => (s.writeMem p.1 (bs.take p.2)).putPieces r (bs.drop p.2)

/-- An engine writes bytes. -/
def State.engWrite (s : State) (sp : Space) (va : Dword) (bs : List Byte) : Except EngErr State :=
  match s.engPlaces sp .write va bs.length with
  | .error e => .error e
  | .ok ps => .ok (s.putPieces ps bs)

/-- The bytes `i` to `i + n - 1` of a list as a number, little-endian. -/
def fieldNat (bs : List Byte) (i n : Nat) : Nat := leNat ((bs.drop i).take n)

/-- The record of an engine's translation fault (R191, R296, R297); other failures send none. -/
def State.engFault (s : State) (req : Nat) (acc : Access) (sp : Space) (cluster : Nat) (launchid : Word) (e : EngErr) : State :=
  if e.cause = causeXlate then
    s.mergeFault (sectionOf cluster) sp.asid (pageOf e.va)
      (engineRec (if e.bad then 3 else 2) req acc sp.asid cluster (if sp.secure then 1 else 0) launchid e.va)
  else s

/-- A translation fault of an engine that finds its section's merge table full: it waits (R296). -/
def State.faultWaits (s : State) (cluster asid : Nat) (e : EngErr) : Bool :=
  e.cause = causeXlate && !(s.hasMerge (sectionOf cluster) asid (pageOf e.va)) && s.mergeFull (sectionOf cluster)

/-! ### Destination pages as found at acceptance (R150, R191) -/

/-- A page that an engine is to write, as its translation and its permissions stand. -/
def State.pageAt (s : State) (sp : Space) (va : Dword) : PageAt :=
  let page := pageOf va
  match checkVa s sp .write 1 va with
  | .trap c => { page, pa := 0, err := some { cause := c, va, bad := false } }
  | .miss bad => { page, pa := 0, err := some { cause := causeXlate, va, bad } }
  | .ok pa => { page, pa := pa - va.toNat % 65536, err := none }

/-- The pages of some areas of addresses. -/
def State.pagesAt (s : State) (sp : Space) (areas : List (Dword × Nat)) : List PageAt :=
  distinct (areas.flatMap (fun a => if a.2 = 0 then [] else (rangePages a.1 a.2).map (fun p => s.pageAt sp p.2)))

/-- The places of `n` bytes at `va` in pages found before. -/
def pagePieces (pages : List PageAt) : Nat → Dword → Nat → Except EngErr (List (Nat × Nat))
  | 0, _, _ => .ok []
  | fuel + 1, va, n =>
    if n = 0 then .ok []
    else
      let m := min n (65536 - va.toNat % 65536)
      match pages.find? (fun p => p.page = pageOf va) with
      | none => .error { cause := causeXlate, va, bad := false }
      | some p =>
        match p.err with
        | some e => .error { e with va }
        | none => (pagePieces pages fuel (va + BitVec.ofNat 64 m) (n - m)).map ((p.pa + va.toNat % 65536, m) :: ·)

def pagePlaces (pages : List PageAt) (va : Dword) (n : Nat) : Except EngErr (List (Nat × Nat)) :=
  pagePieces pages (n / 65536 + 2) va n

/-- The places of an area, as far as its pages could be found. -/
def areaPieces (pages : List PageAt) (a : Dword × Nat) : List (Nat × Nat) :=
  if a.2 = 0 then []
  else (rangePages a.1 a.2).flatMap (fun p =>
    match pagePlaces pages p.2 (min (65536 - p.2.toNat % 65536) (a.2 - (p.2 - a.1).toNat)) with
    | .ok ps => ps
    | .error _ => [])

/-- The ring and slot that a command of an engine names, at issue (R190): the handle, the header, the slot index. -/
def withSlot (f : Focus) (s : State) (h : Dword) (i sub : Nat) (k : Nat → RHead → Res) : Res :=
  withRing f s h (fun pa r => if i < r.rel ∨ r.resv ≤ i then .trap causeRing (BitVec.ofNat 64 sub) else k pa r)

end Sys2Proof.Machine
end

