-- ==== Sys2Proof/Machine/Copy.lean ====
section
/-! DEFINITION. The copy class (R186 to R202): CPY, CPYMC, PACK and UNPACK at issue, and the copy engine. -/

namespace Sys2Proof.Machine

/-! ### Commands at issue -/

/-- A command of wave `w`, not yet accepted. -/
def copyCmd (w : Nat) (s : State) (op : Instr) : CopyCmd :=
  let x := s.wave w
  { wave := w, gang := x.gang, seq := x.seq, op, act := 0, src := [], dst := [], ring := 0, slot := 0, base := 0,
    off := 0, accepted := false, data := [], left := [], hnd := 0, lines := [], pages := [], cut := none, counted := true, asid := x.csr.asid,
    ttbase := x.csr.ttbase, world := x.csr.world, launchid := x.csr.launchid }

/-- Hands the engine a command: the CPY counter rises with it (R186). -/
def State.sendCopy (s : State) (w : Nat) (c : CopyCmd) : State :=
  (s.modCluster (s.wave w).cluster (fun cl => { cl with copyCmds := cl.copyCmds ++ [c] })).modWave w (fun x =>
    { (if c.counted then x.raiseCpy c.seq else x) with seq := max x.seq (c.seq + 1) })

/-- Bytes of a SIZE of CPY (R188). -/
def cpySize (z : BitVec 2) : Nat := 4 * 2 ^ z.toNat

/-- The registers of a base of CPY. -/
def cpyBaseRegs (scr : BitVec 1) (n : BitVec 4) : List Reg :=
  if scr = 1 then [.s (2 * n.toNat)] else baseRegs n

/-- The address or scratch offset of a lane of CPY (R189). -/
def State.cpyAddr (s : State) (w : Nat) (scr : BitVec 1) (n : BitVec 4) (v : Code) (L : Nat) : Nat :=
  if scr = 1 then (s.readV w v.toNat L + s.readS w (2 * n.toNat)).toNat
  else (s.readBase w n + (s.readV w v.toNat L).setWidth 64).toNat

/-- A place that a lane of CPY names: scratch or global, and where. -/
abbrev CopyPlace := Bool × Nat

/-- Items 4 to 6 of R190 over the places of a CPY, lanes ascending, the source before the destination. -/
def cpyForm (sz limit : Nat) (ps : List CopyPlace) : Option (Nat × Dword) :=
  match ps.find? (fun p => !p.1 && !(canonical (BitVec.ofNat 64 p.2))) with
  | some p => some (causeProt, BitVec.ofNat 64 p.2)
  | none =>
    match ps.find? (fun p => p.2 % sz ≠ 0) with
    | some p => some (causeMisalign, BitVec.ofNat 64 p.2)
    | none => (ps.find? (fun p => p.1 && decide (limit < p.2 + sz))).map (fun p => (causeScratch, BitVec.ofNat 64 p.2))

/-- In run-ahead the pages of global places are looked up, each for its access (R299). -/
def State.lookUp (s : State) (w : Nat) (ps : List (Access × CopyPlace)) : State :=
  ps.foldl (fun s p => (missing s (s.space w) [(0, BitVec.ofNat 64 p.2.2)]).foldl (fun s m =>
    s.addPage w p.1 m.2.1 m.2.2) s) s

/-- CPY (R187 to R190); in run-ahead it only looks up its global pages (R299). -/
def execCpy (d a b : Code) (hring srcn dstn : BitVec 4) (size : BitVec 2) (sscr dscr : BitVec 1) (S : Stall)
    (lit : Option Word) : State → Host.Outcome State Fault Refusal :=
  let sz := cpySize size
  let addrRegs := vRegs a 1 ++ vRegs d 1 ++ cpyBaseRegs sscr srcn ++ cpyBaseRegs dscr dstn
  issue S
    (fun f s => { lanes := true, ok := vOk (s.wave f.wave) d 1 && vOk (s.wave f.wave) a 1 && pairSrcOk false b,
                  reads := .h hring.toNat :: addrRegs ++ pairRegs f.split b ++ s.activeRegs f.wave f.split,
                  ra := .own })
    (fun f s =>
      let act := s.live f.wave f.split
      let x := s.wave f.wave
      let i := (s.readPair f.wave f.split lit b).toNat
      let skip := s.skipped f addrRegs
      let ls := (Mask.lanes act).filter (fun L => !(skip.getLsbD L))
      let src := ls.map (s.cpyAddr f.wave sscr srcn a)
      let dst := ls.map (s.cpyAddr f.wave dscr dstn d)
      let ps := (src.zip dst).flatMap (fun e =>
        [(Access.read, (sscr = 1 : Bool), e.1), (Access.write, (dscr = 1 : Bool), e.2)])
      if x.poisonOn (.h hring.toNat :: pairRegs f.split b) ≠ 0 then
        .done (s.lookUp f.wave (ps.filter (fun p => !p.2.1)))
      else withSlot f s (s.readH f.wave hring.toNat) i 5 (fun pa _ =>
        match cpyForm sz x.scrLimit (ps.map Prod.snd) with
        | some (c, t) => .trap c t
        | none =>
          if x.ra.isSome then
            .done (s.lookUp f.wave (ps.filter (fun p => !p.2.1)))
          else if act ≠ 0 ∧ pathFull x 6 then .hold
          else .done (s.sendCopy f.wave { copyCmd f.wave s (.cpy d a b hring srcn dstn size sscr dscr S lit) with
            act, src, dst, ring := BitVec.ofNat 64 pa, slot := i, counted := act ≠ 0 })))

/-- Bytes of a CPYMC (R193). -/
def cpymcBytes (len : BitVec 12) : Nat := 64 * (len.toNat + 1)

/-- CPYMC at issue (R190, R193): while receptions of its clause are outstanding it holds; then it goes to the clause's home,
where it holds while there are any, and its own are counted. -/
def execCpymc (d a b : Code) (len : BitVec 12) (S : Stall) (lit : Option Word) :
    State → Host.Outcome State Fault Refusal :=
  issue S
    (fun f _ => { ok := srcOk false d && hOk a && pairSrcOk false b && litOnce [d, b],
                  reads := srcRegs f.split d ++ hRegs a ++ pairRegs f.split b, ra := .suppress })
    (fun f s =>
      let x := s.wave f.wave
      let h := s.readH f.wave a.toNat
      let off := (s.readSrc f.wave f.split lit d).toNat
      if handleType h ≠ 1 then clauseTrap 1
      else if !(s.clauseOf f.wave h) then clauseTrap 2
      else if (s.clause (handleEntry h)).eng0 ≠ 0 then .hold
      else if off % 64 ≠ 0 then .trap causeMisalign (BitVec.ofNat 64 off)
      else if x.scrLimit < off + cpymcBytes len then .trap causeScratch (BitVec.ofNat 64 off)
      else if pathFull x 6 then .hold
      else sendHeld f s (hopOf f S (.cpymc d a b len S lit) h 0 0 [off, (s.readPair f.wave f.split lit b).toNat] true))

/-- CPYMC at its clause's home (R193): its receptions are counted in phase p, and the engine gets the command. -/
def State.homeCpymc (s : State) (w : Nat) (h : HomeOp) : State :=
  let e := handleEntry h.hnd
  let c := s.clause e
  let mask : Mask := BitVec.ofNat 64 (h.val 1)
  let n := Mask.count mask
  if !(s.clauseOf w h.hnd) then s.refuse w h causeClause 2
  else if c.eng0 ≠ 0 || (n ≠ 0 && pathFull (s.wave w) 6) then s.waitHome w h
  else if n = 0 then s.answer w h
  else ((s.setClause e { c with exp0 := c.exp0 + n, eng0 := n }).sendCopy w
    { copyCmd w s h.op with seq := h.seq, off := h.val 0, hnd := h.hnd, left := Mask.lanes mask }).answer w h

/-- CLAUSE_HOME_OP (R163, R193, R392). Subject: wave, and the operation's place among those on their way. -/
def execClauseHomeOp (s : State) : Host.Outcome State Fault Refusal :=
  .next (match s.hopAt (s.arg 0) (s.arg 1) with
    | some h =>
      if h.onClause then (s.homeClause (s.arg 0) h).releaseWaiters
      else match h.op with
        | .cpymc _ _ _ _ _ _ => s.homeCpymc (s.arg 0) h
        | _ => s
    | none => s)

/-! ### Compressed tiles (R195 to R198) -/

/-- A tile header (R195). -/
structure Tile64 where
  format : Nat
  etype : Nat
  dmax : Nat
  rows : Nat
  cols : Nat
  valOff : Nat
  metaOff : Nat
  ovfOff : Nat
  ovfCap : Nat
  ok : Bool
  deriving DecidableEq, Repr

/-- Reads a header from its 64 bytes: whether it breaks a limit of R195. -/
def tileHead (bs : List Byte) : Tile64 :=
  let n := fieldNat bs
  let format := n 0 1
  let etype := n 1 1
  let dmax := n 2 1
  let rows := n 4 2
  let cols := n 6 2
  let m := if format = 1 then 4 else 8
  let nm := format = 1 || format = 2
  let eOk := [0, 1, 4, 6, 7, 8, 9, 10, 11, 12, 13].contains etype
  { format, etype, dmax, rows, cols, valOff := n 8 4, metaOff := n 12 4, ovfOff := n 16 4, ovfCap := n 20 4,
    ok := (nm || format = 3) && eOk && decide (1 ≤ rows) && decide (rows ≤ 128) &&
      n 8 4 % 64 = 0 && n 12 4 % 64 = 0 && n 16 4 % 64 = 0 && n 20 4 % 16 = 0 && (bs.drop 32).all (fun b => b = 0) &&
      (if nm then dmax = 0 && rows % m = 0 && cols % m = 0 && decide (cols ≤ 128) && n 16 4 = 0
        else decide (1 ≤ dmax) && decide (dmax ≤ 64) && decide (32 ≤ dmax * tyWidth etype) &&
          (cols = 64 || cols = 128)) }

/-- Bytes of an element. -/
def Tile64.eb (t : Tile64) : Nat := tyWidth t.etype / 8

/-- M of an N:M tile, or the 64 columns of a bitmap block; a group has at most half of M elements. -/
def Tile64.m (t : Tile64) : Nat := if t.format = 1 then 4 else if t.format = 2 then 8 else 64

/-- Groups, or blocks, of a row. -/
def Tile64.perRow (t : Tile64) : Nat := t.cols / t.m

/-- Slots of values in the main area for a group. -/
def Tile64.slots (t : Tile64) : Nat := if t.format = 3 then t.dmax else t.m / 2

/-- The main area's offset of group `q`. -/
def Tile64.valAt (t : Tile64) (q : Nat) : Nat := t.valOff + q * t.slots * t.eb

/-- An element counts as zero (R197). -/
def Tile64.zero (t : Tile64) (e : Nat) : Bool :=
  if (tyFmt t.etype).isSome then e % 2 ^ (8 * t.eb - 1) = 0 else e = 0

/-- Bytes of an overflow entry of `k` elements. -/
def Tile64.entry (t : Tile64) (k : Nat) : Nat := (k * t.eb + 15) / 16 * 16

/-- The kept columns of a group of elements, ascending. -/
def Tile64.kept (t : Tile64) (es : List Nat) : List Nat :=
  (List.range es.length).filter (fun j => !(t.zero (es.getD j 0)))

/-- A mask from kept columns. -/
def maskOf (js : List Nat) : Nat := js.foldl (fun n j => n + 2 ^ j) 0

/-- The set bits of a mask of `n` bits, ascending. -/
def bitsOf (n m : Nat) : List Nat := (List.range n).filter (fun j => m / 2 ^ j % 2 = 1)

/-- A list of bytes padded with zero bytes to `n`. -/
def padTo (n : Nat) (bs : List Byte) : List Byte := (bs ++ List.replicate n 0).take n

/-! ### The engine's view of a tile -/

/-- Where an engine finds a compressed tile, and the dense tile in scratch. -/
structure TileView where
  sp : Space
  gang : Nat
  limit : Nat
  scr : Bool
  base : Dword
  /-- The pages that it is written in, as found at acceptance. -/
  pages : List PageAt

/-- An engine reads bytes of a scratch window, unless a sector proves uncorrectable (R191, R301). -/
def State.scrSource (s : State) (g off n : Nat) : Except EngErr (List Byte) :=
  match s.asRead.scrBad g off n with
  | some q => .error { cause := causeUncorr, va := BitVec.ofNat 64 q, bad := false }
  | none => .ok (s.asRead.scrRead g off n)

/-- Bytes at an offset of the tile. A tile in scratch that proves to reach SCRSIZE only here ends the slot with CAUSE SCRATCH, a
case that R190 does not list (DESIGN CHOICE, log 79). -/
def TileView.read (v : TileView) (s : State) (off n : Nat) : Except EngErr (List Byte) :=
  if v.scr then
    let o := v.base.toNat % 2 ^ 32 + off
    if v.limit < o + n then .error { cause := causeScratch, va := BitVec.ofNat 64 o, bad := false }
    else s.scrSource v.gang o n
  else s.engRead v.sp (v.base + BitVec.ofNat 64 off) n

/-- Writes bytes at an offset of the tile. -/
def TileView.write (v : TileView) (s : State) (off : Nat) (bs : List Byte) : Except EngErr State :=
  if v.scr then
    let o := v.base.toNat % 2 ^ 32 + off
    if v.limit < o + bs.length then .error { cause := causeScratch, va := BitVec.ofNat 64 o, bad := false }
    else .ok (s.scrWrite v.gang o bs)
  else (pagePlaces v.pages (v.base + BitVec.ofNat 64 off) bs.length).map (fun ps => s.putPieces ps bs)

/-- Writes several pieces, all or none. -/
def TileView.writeAll (v : TileView) (s : State) : List (Nat × List Byte) → Except EngErr State
  | [] => .ok s
  | p :: r =>
    match v.write s p.1 p.2 with
    | .error e => .error e
    | .ok s' => v.writeAll s' r

/-- How a command's work ends: the units done, and the failure that cut it. -/
structure Cut where
  units : Nat
  err : Option EngErr
  deriving DecidableEq, Repr

/-- An ENGFAULT of the engine. -/
def engFaultErr : EngErr := { cause := 0x14, va := 0, bad := false }

/-! ### PACK (R200) -/

/-- What PACK has reached: OVFUSED and NOVF. -/
structure PackAt where
  used : Nat
  novf : Nat
  deriving DecidableEq, Repr

/-- The elements of a dense row. -/
def denseRow (t : Tile64) (row : List Byte) : List Nat :=
  (List.range t.cols).map (fun c => fieldNat row (c * t.eb) t.eb)

/-- Packs `M` rows of an N:M tile from row `r`: the pieces to be written, or none where a bound is broken (R196). -/
def packNM (t : Tile64) (r : Nat) (rows : List (List Nat)) : Option (List (Nat × List Byte)) :=
  let m := t.m
  let group := fun (i g : Nat) => ((rows.getD i []).drop (m * g)).take m
  let keptOf := fun (i g : Nat) => t.kept (group i g)
  let cells := (List.range m).flatMap (fun i => (List.range t.perRow).map (fun g => (i, g)))
  let colBad := (List.range t.cols).any (fun c =>
    decide (m / 2 < ((List.range m).filter (fun i => (keptOf i (c / m)).contains (c % m))).length))
  if cells.any (fun e => decide (m / 2 < (keptOf e.1 e.2).length)) || colBad then none
  else
    let vals := cells.map (fun e =>
      let q := (r + e.1) * t.perRow + e.2
      (t.valAt q, padTo (m / 2 * t.eb) ((keptOf e.1 e.2).flatMap (fun j =>
        leBytes t.eb ((group e.1 e.2).getD j 0)))))
    let masks := cells.map (fun e => maskOf (keptOf e.1 e.2))
    let q0 := r * t.perRow
    let info :=
      if t.format = 2 then [(t.metaOff + q0, masks.map (BitVec.ofNat 8))]
      else [(t.metaOff + q0 / 2, (List.range (masks.length / 2)).map (fun j =>
        BitVec.ofNat 8 (masks.getD (2 * j) 0 + 16 * masks.getD (2 * j + 1) 0)))]
    some (vals ++ info)

/-- Packs a row of a bitmap tile: the pieces to be written, or none where the overflow area is full (R198). -/
def packBitmap (t : Tile64) (r : Nat) (row : List Nat) (at0 : PackAt) : Option (List (Nat × List Byte) × PackAt) :=
  (List.range t.perRow).foldl (fun acc c =>
    match acc with
    | none => none
    | some (ps, p) =>
      let es := (row.drop (64 * c)).take 64
      let kept := t.kept es
      let q := r * t.perRow + c
      let data := kept.flatMap (fun j => leBytes t.eb (es.getD j 0))
      let bitmap := (t.metaOff + 8 * q, leBytes 8 (maskOf kept))
      if kept.length ≤ t.dmax then some (ps ++ [(t.valAt q, padTo (t.dmax * t.eb) data), bitmap], p)
      else
        let n := t.entry kept.length
        if t.ovfCap < p.used + n then none
        else some (ps ++ [(t.valAt q, padTo (t.dmax * t.eb) (leBytes 4 p.used)), bitmap,
          (t.ovfOff + p.used, padTo n data)], { used := p.used + n, novf := p.novf + 1 }))
    (some ([], at0))

/-- Packs from row `r` on: the state, the rows done, OVFUSED and NOVF, and what stopped it with its STATUS. A memory
fault has no STATUS of its own. -/
def packRows (t : Tile64) (v : TileView) (dense : Nat → Except EngErr (List Byte)) :
    Nat → Nat → PackAt → State → State × Nat × PackAt × Option (EngErr × Option Nat)
  | 0, r, p, s => (s, r, p, none)
  | n + 1, r, p, s =>
    let step := if t.format = 3 then 1 else t.m
    let rows := (List.range step).map (fun i => dense (r + i))
    match rows.findSome? (fun x => match x with | .error e => some e | .ok _ => none) with
    | some e => (s, r, p, some (e, none))
    | none =>
      let es := rows.map (fun x => match x with | .ok bs => denseRow t bs | .error _ => [])
      let out := if t.format = 3 then packBitmap t r (es.getD 0 []) p else (packNM t r es).map (fun ps => (ps, p))
      match out with
      | none => (s, r, p, some (engFaultErr, some (if t.format = 3 then 3 else 2)))
      | some (ps, p') =>
        match v.writeAll s ps with
        | .error e => (s, r, p, some (e, none))
        | .ok s' => packRows t v dense n (r + step) p' s'

/-- PACK in the engine (R200), its header read at acceptance, or the failure of that. A header that can be read and not written
cuts it at row 0, and it packs nothing (log 75). -/
def State.runPack (s : State) (v : TileView) (head : List Byte) (cut : Option EngErr)
    (dense : Tile64 → Nat → Except EngErr (List Byte)) : State × Cut :=
  match cut with
  | some e => (s, { units := 0, err := some e })
  | none =>
    let t := tileHead head
    let put := fun (s : State) (ps : List (Nat × List Byte)) => v.writeAll s ps
    match put s [(3, [head.getD 3 0])] with
    | .error e => (s, { units := 0, err := some e })
    | .ok _ =>
      if !t.ok then
        (match put s [(3, [1])] with
          | .ok s' => (s', { units := 0, err := some engFaultErr })
          | .error e => (s, { units := 0, err := some e }))
      else
        let blocks := if t.format = 3 then t.rows else t.rows / t.m
        let (s', r, p, stop) := packRows t v (dense t) blocks 0 { used := 0, novf := 0 } s
        let status := match stop with
          | none => 0
          | some (_, some n) => n
          | some (_, none) => (s.freeVal 710).toNat
        (match put s' [(0x18, leBytes 4 p.used), (0x1C, leBytes 4 p.novf), (3, leBytes 1 status)] with
          | .ok s'' => (s'', { units := r, err := stop.map Prod.fst })
          | .error e => (s', { units := r, err := some e }))

/-! ### UNPACK (R201) -/

/-- Element `c` of tile row `r` (R196 to R198), given what reads the tile's bytes, and the failure of a tile that breaks its
format. -/
def tileElem {ε : Type} (t : Tile64) (bad : ε) (read : Nat → Nat → Except ε (List Byte)) (r c : Nat) : Except ε Nat :=
  let q := r * t.perRow + c / t.m
  let j := c % t.m
  let info := if t.format = 1 then read (t.metaOff + q / 2) 1
    else if t.format = 2 then read (t.metaOff + q) 1 else read (t.metaOff + 8 * q) 8
  match info with
  | .error e => .error e
  | .ok mb =>
    let mask := if t.format = 1 then leNat mb / 16 ^ (q % 2) % 16 else leNat mb
    let bits := bitsOf t.m mask
    let k := bits.length
    let before := (bits.filter (fun b => decide (b < j))).length
    let elem := fun (off : Nat) => (read off t.eb).map leNat
    if t.format ≠ 3 ∧ t.m / 2 < k then .error bad
    else if t.format = 3 ∧ t.dmax < k then
      (match read (t.valAt q) 4 with
        | .error e => .error e
        | .ok ob =>
          let o := leNat ob
          if t.ovfCap < o + t.entry k then .error bad
          else if bits.contains j then elem (t.ovfOff + o + before * t.eb) else .ok 0)
    else if bits.contains j then elem (t.valAt q + before * t.eb) else .ok 0

/-- The bytes of a dense row from its elements, or the first failure. -/
def gatherRow (eb : Nat) : List (Except EngErr Nat) → Except EngErr (List Byte)
  | [] => .ok []
  | .error e :: _ => .error e
  | .ok x :: r => (gatherRow eb r).map (leBytes eb x ++ ·)

/-- Dense row `i` of an UNPACK. An element kept as zero is written as all-zero bits (R197). -/
def unpackRow (t : Tile64) (v : TileView) (s : State) (tr : Bool) (i : Nat) : Except EngErr (List Byte) :=
  gatherRow t.eb (if tr then (List.range t.rows).map (fun r => tileElem t engFaultErr (v.read s) r i)
    else (List.range t.cols).map (fun c => tileElem t engFaultErr (v.read s) i c))

/-- The rows that are read before the first failure, and the failure. -/
def rowsUntil (row : Nat → Except EngErr (List Byte)) : Nat → Nat → List (List Byte) × Option EngErr
  | 0, _ => ([], none)
  | n + 1, i =>
    match row i with
    | .error e => ([], some e)
    | .ok bs =>
      let (rs, e) := rowsUntil row n (i + 1)
      (bs :: rs, e)

/-- UNPACK in the engine (R201), its header read at acceptance, or the failure of that: every row is read before any is
written. -/
def State.runUnpack (s : State) (v : TileView) (head : List Byte) (cut : Option EngErr) (tr : Bool) (t0 pitch : Nat) :
    State × Cut :=
  match cut with
  | some e => (s, { units := 0, err := some e })
  | none =>
    let t := tileHead head
    if !t.ok then (s, { units := 0, err := some engFaultErr })
    else
      let (rs, e) := rowsUntil (unpackRow t v s tr) (if tr then t.cols else t.rows) 0
      let fit := rs.zip (List.range rs.length)
      let overrun := fit.find? (fun p => decide (v.limit < t0 + 16 * pitch * p.2 + p.1.length))
      let n := match overrun with
        | some p => p.2
        | none => rs.length
      let err := match overrun with
        | some p => some { cause := causeScratch, va := BitVec.ofNat 64 (t0 + 16 * pitch * p.2), bad := false }
        | none => e
      ((fit.take n).foldl (fun s p => s.scrWrite v.gang (t0 + 16 * pitch * p.2) p.1) s, { units := n, err })

/-! ### PACK and UNPACK at issue (R190, R199) -/

/-- The dense extent reaches SCRSIZE (R199): its last row does. A header that cannot be read, or is invalid, decides
nothing at issue. -/
def denseBad (s : State) (v : TileView) (tr : Bool) (t0 pitch : Nat) : Bool :=
  match v.read s 0 64 with
  | .error _ => false
  | .ok bs =>
    let t := tileHead bs
    let (rows, cols) := if tr then (t.cols, t.rows) else (t.rows, t.cols)
    t.ok && rows ≠ 0 && decide (v.limit < t0 + 16 * pitch * (rows - 1) + cols * t.eb)

/-- The engine's space of a wave. -/
def Wave.engSpace (x : Wave) : Space := engineSpace x.cluster x.csr.asid x.csr.ttbase x.csr.world

/-- PACK and UNPACK at issue. -/
def packIssue (op : Instr) (d a b : Code) (hring : BitVec 4) (scr tr : Bool) (pitch : BitVec 10) (S : Stall)
    (lit : Option Word) : State → Host.Outcome State Fault Refusal :=
  issue S
    (fun f _ => { ok := srcOk false d && pairSrcOk false a && pairSrcOk false b && litOnce [d, a, b],
                  reads := .h hring.toNat :: srcRegs f.split d ++
                    (if scr then (pairRegs f.split a).take 1 else pairRegs f.split a) ++ pairRegs f.split b,
                  ra := .suppress })
    (fun f s =>
      let x := s.wave f.wave
      let t0 := (s.readSrc f.wave f.split lit d).toNat
      let base := s.readPair f.wave f.split lit a
      let i := (s.readPair f.wave f.split lit b).toNat
      let v : TileView := { sp := x.engSpace, gang := x.gang, limit := x.scrLimit, scr, base, pages := [] }
      let tile : Dword := if scr then (Dword.lo base).setWidth 64 else base
      withSlot f s (s.readH f.wave hring.toNat) i 5 (fun pa _ =>
        if !scr && !(canonical base) then .trap causeProt base
        else if t0 % 64 ≠ 0 then .trap causeMisalign (BitVec.ofNat 64 t0)
        else if tile.toNat % 64 ≠ 0 then .trap causeMisalign tile
        else if denseBad s v tr t0 pitch.toNat then .trap causeScratch (BitVec.ofNat 64 t0)
        else if pathFull x 6 then .hold
        else .done (s.sendCopy f.wave { copyCmd f.wave s op with
          ring := BitVec.ofNat 64 pa, slot := i, base := base.toNat, off := t0 })))

/-- PACK (R199, R200). -/
def execPack (d a b : Code) (hring : BitVec 4) (scr : BitVec 1) (pitch : BitVec 10) (S : Stall) (lit : Option Word) :
    State → Host.Outcome State Fault Refusal :=
  packIssue (.pack d a b hring scr pitch S lit) d a b hring (scr = 1) false pitch S lit

/-- UNPACK (R199, R201). -/
def execUnpack (d a b : Code) (hring : BitVec 4) (scr tr : BitVec 1) (pitch : BitVec 10) (S : Stall)
    (lit : Option Word) : State → Host.Outcome State Fault Refusal :=
  packIssue (.unpack d a b hring scr tr pitch S lit) d a b hring (scr = 1) (tr = 1) pitch S lit

/-! ### The engine: acceptance (R186) -/

/-- The space of a command. -/
def CopyCmd.space (c : CopyCmd) (cluster : Nat) : Space := engineSpace cluster c.asid c.ttbase c.world

/-- SIZE, SSCR and DSCR of a CPY. -/
def CopyCmd.cpy (c : CopyCmd) : Option (Nat × Bool × Bool) :=
  match c.op with
  | .cpy _ _ _ _ _ _ z ss ds _ _ => some (cpySize z, ss = 1, ds = 1)
  | _ => none

/-- The tile of a PACK or UNPACK. -/
def CopyCmd.view (s : State) (cluster : Nat) (c : CopyCmd) : TileView :=
  let scr : Bool := match c.op with
    | .pack _ _ _ _ scr _ _ _ => scr = 1
    | .unpack _ _ _ _ scr _ _ _ _ => scr = 1
    | _ => false
  { sp := c.space cluster, gang := c.gang, limit := 1024 * (s.gang c.gang).scrKib, scr, base := BitVec.ofNat 64 c.base,
    pages := c.pages }

/-- The lines that `n` bytes at an address touch, where it translates; a scratch line of 128 bytes counts too. -/
def placeLines (s : State) (sp : Space) (scr : Bool) (a n : Nat) : List (Bool × Nat) :=
  if scr then (List.range ((a + n - 1) / 128 - a / 128 + 1)).map (fun i => (true, a / 128 + i))
  else match translate s sp (BitVec.ofNat 64 a) with
    | .ok pa _ => [(false, pa / 128)]
    | _ => []

/-- The areas of a compressed tile, from its header: offset and length of each. -/
def Tile64.areas (t : Tile64) : List (Nat × Nat) :=
  let groups := t.rows * t.perRow
  if !t.ok then [(0, 64)]
  else [(0, 64), (t.valOff, groups * t.slots * t.eb),
    (t.metaOff, if t.format = 1 then groups / 2 else if t.format = 2 then groups else 8 * groups), (t.ovfOff, t.ovfCap)]

/-- The dense rows of a PACK or UNPACK in scratch, from the tile's header. -/
def CopyCmd.denseRows (c : CopyCmd) (t : Tile64) : List (Nat × Nat) :=
  let rows := fun (tr : Bool) (pitch : Nat) => (List.range (if tr then t.cols else t.rows)).map (fun i =>
    (c.off + 16 * pitch * i, (if tr then t.rows else t.cols) * t.eb))
  if !t.ok then []
  else match c.op with
    | .pack _ _ _ _ _ pitch _ _ => rows false pitch.toNat
    | .unpack _ _ _ _ _ tr pitch _ _ => rows (tr = 1) pitch.toNat
    | _ => []

/-- The command is a PACK or an UNPACK. -/
def CopyCmd.onTile (c : CopyCmd) : Bool :=
  match c.op with
  | .pack _ _ _ _ _ _ _ _ => true
  | .unpack _ _ _ _ _ _ _ _ _ => true
  | _ => false

/-- The physical places of the areas of a tile in global memory, where they translate. -/
def State.tilePlaces (s : State) (v : TileView) (acc : Access) (areas : List (Nat × Nat)) : List (Nat × Nat) :=
  areas.flatMap (fun p => if p.2 = 0 then [] else s.areaPlaces v.sp acc (v.base + BitVec.ofNat 64 p.1, p.2))

/-- The lines of a range of scratch. -/
def scratchLines (off n : Nat) : List (Bool × Nat) := (linesOf [(off, n)]).map (fun l => (true, l))

/-- The lines of a tile's areas, in scratch or in global memory. -/
def State.tileLines (s : State) (v : TileView) (acc : Access) (areas : List (Nat × Nat)) : List (Bool × Nat) :=
  if v.scr then areas.flatMap (fun p => scratchLines (v.base.toNat % 2 ^ 32 + p.1) p.2)
  else (linesOf (s.tilePlaces v acc areas)).map (fun l => (false, l))

/-- The lines of a command's sources and destinations, given what its tile's header holds. -/
def CopyCmd.places (s : State) (cluster : Nat) (c : CopyCmd) (head : List Byte) : List (Bool × Nat) :=
  match c.op, c.cpy with
  | _, some (sz, ss, ds) =>
    c.src.flatMap (fun a => placeLines s (c.space cluster) ss a sz) ++
      c.dst.flatMap (fun a => placeLines s (c.space cluster) ds a sz)
  | .cpymc _ _ _ len _ _, _ => placeLines s (c.space cluster) true c.off (cpymcBytes len)
  | _, _ =>
    let t := tileHead head
    s.tileLines (c.view s cluster) .read t.areas ++ (c.denseRows t).flatMap (fun p => scratchLines p.1 p.2)

/-- An access of the wave comes before the command and touches one of its lines (R150). -/
def CopyCmd.heldBy (s : State) (cluster : Nat) (c : CopyCmd) (head : List Byte) : Bool :=
  let ls := c.places s cluster head
  (s.wave c.wave).flight.any (fun a => decide (a.seq < c.seq) && (a.more || a.accs.any (fun q =>
    (!q.fixed && ls.contains (a.scratch, q.pa / 128)) || (a.kind = .gs && ls.contains (true, q.target / 128)))))

/-- The areas of global memory that a command writes: addresses and lengths. -/
def CopyCmd.dests (c : CopyCmd) (head : List Byte) : List (Dword × Nat) :=
  match c.op, c.cpy with
  | _, some (sz, _, false) => c.dst.map (fun a => (BitVec.ofNat 64 a, sz))
  | .pack _ _ _ _ 0 _ _ _, _ => (tileHead head).areas.map (fun p => (BitVec.ofNat 64 c.base + BitVec.ofNat 64 p.1, p.2))
  | _, _ => []

/-- The global destination lines that a command owns from acceptance on (R150), in the pages that it finds there. -/
def CopyCmd.owns (c : CopyCmd) (head : List Byte) (pages : List PageAt) : List Nat :=
  linesOf ((c.dests head).flatMap (areaPieces pages))

/-- What the engine reads before the counter falls (R186): a tile's header, or why it cannot; and a CPYMC's source, whatever
errors stand there (log 76). -/
def CopyCmd.early (s : State) (cluster : Nat) (c : CopyCmd) : Except EngErr (List Byte) :=
  match c.op with
  | .cpymc _ _ _ len _ _ => .ok (s.asRead.scrRead c.gang c.off (cpymcBytes len))
  | .pack _ _ _ _ _ _ _ _ => (c.view s cluster).read s 0 64
  | .unpack _ _ _ _ _ _ _ _ _ => (c.view s cluster).read s 0 64
  | _ => .ok []

/-- The bytes read at acceptance, and the failure. -/
def CopyCmd.head (s : State) (cluster : Nat) (c : CopyCmd) : List Byte :=
  match c.early s cluster with
  | .ok bs => bs
  | .error _ => []

def CopyCmd.headErr (s : State) (cluster : Nat) (c : CopyCmd) : Option EngErr :=
  match c.early s cluster with
  | .ok _ => none
  | .error e => some e

/-- A line is owned by the copy engine of another cluster, a ray unit or a neighbour-list engine. -/
def State.ownedElsewhere (s : State) (cluster line : Nat) : Bool :=
  s.unitOwned false line || s.nlOwned line || s.clusters.any (fun e => e.1 ≠ cluster && e.2.copyCmds.any (fun c => c.lines.contains line))

/-- A tile's header lies in a line that another engine owns: the engine's read waits for it (R150). -/
def CopyCmd.headOwned (s : State) (cluster : Nat) (c : CopyCmd) : Bool :=
  c.onTile && (s.tileLines (c.view s cluster) .read [(0, 64)]).any (fun l => !l.1 && s.ownedElsewhere cluster l.2)

/-- The first command that is not accepted, of each wave, may be accepted. -/
def Cluster.acceptable (cl : Cluster) (k : Nat) : Option CopyCmd :=
  match cl.copyCmds[k]? with
  | none => none
  | some c =>
    if c.accepted || (cl.copyCmds.take k).any (fun b => b.wave = c.wave && !b.accepted) then none else some c

/-- ENGINE_COMMAND_ACCEPT (R150, R186): the counter falls, and the engine owns the destination lines. Accepted commands
stand before the others, in the order of acceptance. Subject: cluster, and the command's place. -/
def execEngineCommandAccept (s : State) : Host.Outcome State Fault Refusal :=
  let n := s.arg 0
  let cl := s.cluster n
  .next (match cl.acceptable (s.arg 1) with
    | none => s
    | some c =>
      let head := c.head s n
      let pages := s.pagesAt (c.space n) (c.dests head)
      let lines := c.owns head pages
      if c.heldBy s n head || c.headOwned s n || lines.any (s.ownedElsewhere n) then s
      else
        let c' := { c with accepted := true, data := head, lines, pages, cut := c.headErr s n }
        let s := s.modCluster n (fun cl =>
          let rest := cl.copyCmds.eraseIdx (s.arg 1)
          { cl with copyCmds := rest.filter (fun b => b.accepted) ++ [c'] ++ rest.filter (fun b => !b.accepted) })
        let s := s.dropCopies n (fun l => lines.contains l)
        if c.counted then s.modWave c.wave (fun x => x.acceptCpy c.seq) else s)

/-! ### The engine: CPY, and the end of a slot (R189, R191) -/

/-- What a lane of a CPY meets: its source's bytes and its destination, in the pages found at acceptance; or a failure and the
access that failed. -/
def cpyLane (s : State) (sp : Space) (pages : List PageAt) (gang sz : Nat) (ss ds : Bool) (src dst : Nat) :
    Except (EngErr × Access) (List Byte × List (Nat × Nat)) :=
  match (if ss then s.scrSource gang src sz else s.engRead sp (BitVec.ofNat 64 src) sz) with
  | .error e => .error (e, .read)
  | .ok bs =>
    if ds then .ok (bs, [])
    else match pagePlaces pages (BitVec.ofNat 64 dst) sz with
      | .error e => .error (e, .write)
      | .ok ps => .ok (bs, ps)

/-- The lanes of a CPY below the lowest that fails, with their bytes, and that failure. -/
def cpyLanes (s : State) (sp : Space) (pages : List PageAt) (gang sz : Nat) (ss ds : Bool) :
    List (Nat × Nat) → List (Nat × List Byte × List (Nat × Nat)) × Option (EngErr × Access)
  | [] => ([], none)
  | (src, dst) :: r =>
    match cpyLane s sp pages gang sz ss ds src dst with
    | .error e => ([], some e)
    | .ok p =>
      let (ps, e) := cpyLanes s sp pages gang sz ss ds r
      ((dst, p) :: ps, e)

/-- Every byte of a sector lies in one of these places. -/
def placesCover (ps : List (Nat × Nat)) (q : Nat) : Bool :=
  (List.range 64).all (fun i => ps.any (fun p => decide (p.1 ≤ 64 * q + i) && decide (64 * q + i < p.1 + p.2)))

/-- A CPY in the engine (R189, R191): the units done, the failure that cut it, and the access that failed. -/
def State.runCpy (s : State) (cluster : Nat) (c : CopyCmd) (sz : Nat) (ss ds : Bool) : State × Cut × Access :=
  let (ps, e) := cpyLanes s (c.space cluster) c.pages c.gang sz ss ds (c.src.zip c.dst)
  let s' := ps.foldl (fun s p => if ds then s.scrWrite c.gang p.1 p.2.1 else s.putPieces p.2.2 p.2.1) s
  let covered := ps.flatMap (fun p => p.2.2)
  ({ s' with badSectors := s'.badSectors.filter (fun q => !(placesCover covered q)) },
    { units := sz * ps.length, err := e.map Prod.fst }, (e.map Prod.snd).getD .read)

/-- The gangs of a grid resident on a cluster. -/
def State.gridOn (s : State) (task c : Nat) : List Nat :=
  (s.gangs.filter (fun e => e.2.live && !e.2.evicted && e.2.task = task && e.2.cluster = c)).map Prod.fst

/-- The places that an accepted command is to write: a gang's scratch window or memory, an offset or address, a length. -/
def CopyCmd.outs (s : State) (cluster : Nat) (c : CopyCmd) : List (Option Nat × Nat × Nat) :=
  let v := c.view s cluster
  let own := fun (ps : List (Nat × Nat)) => ps.map (fun p => (some c.gang, p))
  let global := ((c.dests c.data).flatMap (areaPieces c.pages)).map (fun p => (none, p))
  match c.op, c.cpy with
  | _, some (sz, _, true) => own (c.dst.map (fun a => (a, sz)))
  | .cpymc _ _ _ len _ _, _ =>
    c.left.flatMap (fun t => (s.gridOn (s.gang c.gang).task t).map (fun g => (some g, c.off, cpymcBytes len)))
  | .pack _ _ _ _ scr _ _ _, _ =>
    let areas := (tileHead c.data).areas
    if scr = 1 then own (areas.map (fun p => (v.base.toNat % 2 ^ 32 + p.1, p.2))) else global
  | .unpack _ _ _ _ _ _ _ _ _, _ => own (c.denseRows (tileHead c.data))
  | _, _ => global

/-- The command reads the scratch window of its gang after its acceptance. -/
def CopyCmd.readsWindow (c : CopyCmd) : Bool :=
  match c.op with
  | .cpy _ _ _ _ _ _ _ ss _ _ _ => ss = 1
  | .pack _ _ _ _ _ _ _ _ => true
  | .unpack _ _ _ _ scr _ _ _ _ => scr = 1
  | _ => false

/-- Two ranges share a byte. -/
def rangesMeet (a b : Nat × Nat) : Bool := decide (a.1 < b.1 + b.2) && decide (b.1 < a.1 + a.2)

/-- A command accepted earlier by the engine writes a byte that this one writes too (R186). -/
def State.copyBlocked (s : State) (cluster k : Nat) (c : CopyCmd) : Bool :=
  let mine := c.outs s cluster
  ((s.cluster cluster).copyCmds.take k).any (fun b => (b.outs s cluster).any (fun p =>
    mine.any (fun q => p.1 = q.1 && rangesMeet p.2 q.2)))

/-- Sources in lines that another cluster's engine owns wait for it (R150). -/
def CopyCmd.sourceOwned (s : State) (cluster : Nat) (c : CopyCmd) : Bool :=
  match c.cpy with
  | some (sz, false, _) =>
    c.src.any (fun a => (placeLines s (c.space cluster) false a sz).any (fun l => s.ownedElsewhere cluster l.2))
  | some _ => false
  | none => c.onTile && (s.tileLines (c.view s cluster) .read (tileHead c.data).areas).any (fun l =>
      !l.1 && s.ownedElsewhere cluster l.2)

/-- Dense row `i` of a PACK, as its scratch holds it. An extent that proves to pass SCRSIZE only here ends the slot with CAUSE
SCRATCH, which R199 leaves open (DESIGN CHOICE, log 79). -/
def denseSource (s : State) (v : TileView) (t0 pitch : Nat) (t : Tile64) (i : Nat) : Except EngErr (List Byte) :=
  let o := t0 + 16 * pitch * i
  let n := t.cols * t.eb
  if v.limit < o + n then .error { cause := causeScratch, va := BitVec.ofNat 64 o, bad := false }
  else s.scrSource v.gang o n

/-- What a command does, but for ending its slot. -/
def State.runCopy (s : State) (cluster : Nat) (c : CopyCmd) : State × Cut × Access :=
  let v := c.view s cluster
  match c.op, c.cpy with
  | _, some (sz, ss, ds) => s.runCpy cluster c sz ss ds
  | .pack _ _ _ _ _ pitch _ _, _ =>
    let (s', cut) := s.runPack v c.data c.cut (denseSource s v c.off pitch.toNat)
    (s', cut, if c.cut.isSome then .read else .write)
  | .unpack _ _ _ _ _ tr pitch _ _, _ =>
    let (s', cut) := s.runUnpack v c.data c.cut (tr = 1) c.off pitch.toNat
    (s', cut, .read)
  | _, _ => (s, { units := 0, err := none }, .read)

/-- COPY_SLOT_END (R180, R189, R191, R200, R201): an accepted command does its work and ends its slot; a translation
fault sends its record, and waits where the merge table is full (R296). Subject: cluster, the command's place. -/
def execCopySlotEnd (s : State) : Host.Outcome State Fault Refusal :=
  let n := s.arg 0
  let cl := s.cluster n
  .next (match cl.copyCmds[s.arg 1]? with
    | none => s
    | some c =>
      let multi : Bool := match c.op with
        | .cpymc _ _ _ _ _ _ => true
        | _ => false
      if !c.accepted || multi || s.copyBlocked n (s.arg 1) c || c.sourceOwned s n then s
      else
        let (s', cut, acc) := s.runCopy n c
        let (s', wait) := match cut.err with
          | some e => (s'.engFault 1 acc (c.space n) n c.launchid e, s.faultWaits n c.asid e)
          | none => (s', false)
        let s' := s'.ringEnd (c.space n) c.ring.toNat c.slot (slotStatus (cut.err.map EngErr.cause) cut.units)
        if wait then s else s'.modCluster n (fun cl => { cl with copyCmds := cl.copyCmds.eraseIdx (s.arg 1) }))

/-! ### CPYMC's receptions (R193, R194) -/

/-- One of the receptions of a clause arrives: ARR(p) rises, and ENG falls where it is an engine's (R193, R276). -/
def State.receive (s : State) (h : Dword) (engine : Bool) : State :=
  let e := handleEntry h
  let c := s.clause e
  if c.live ∧ c.gen = handleGen h then
    ((s.setClause e { c with arr0 := c.arr0 + 1, eng0 := if engine then c.eng0 - 1 else c.eng0 }).settle e).releaseWaiters
  else s

/-- CPYMC_RECEPTION (R193, R194): the bytes land in every gang of the grid on the cluster, and then the reception
arrives. Subject: cluster, the command's place, the target. -/
def execCpymcReception (s : State) : Host.Outcome State Fault Refusal :=
  let n := s.arg 0
  let tgt := s.arg 2
  .next (match (s.cluster n).copyCmds[s.arg 1]? with
    | none => s
    | some c =>
      if !c.accepted || !(c.left.contains tgt) || s.copyBlocked n (s.arg 1) { c with left := [tgt] } then s
      else
        let gangs := s.gridOn (s.gang c.gang).task tgt
        let left := c.left.erase tgt
        let s := gangs.foldl (fun s g => s.scrWrite g c.off c.data) s
        let s := s.modCluster n (fun cl => { cl with
          copyCmds := if left.isEmpty then cl.copyCmds.eraseIdx (s.arg 1)
            else cl.copyCmds.set (s.arg 1) { c with left } })
        s.receive c.hnd true)

end Sys2Proof.Machine
end

