-- ==== Sys2Proof/Machine/Matrix.lean ====
section
/-! DEFINITION. The matrix class (R203 to R224): windows, planes, streams and drains at issue, the arithmetic of the array
(R73 to R75, R208) and of the epilogue (R218), and the completion of commands. The array's arbitration is in Neural.lean. -/

namespace Sys2Proof.Machine

/-! ### Rows of elements (R62, R208) -/

/-- Bytes of a row of `k` elements of an input format. -/
def mxRowBytes (fmt k : Nat) : Nat :=
  match fmt with
  | 0 | 1 => 2 * k
  | 2 | 3 | 4 => k
  | 5 => 64 + k / 32
  | _ => 4 * k

/-- Elements `0` to `k - 1` of a row: their bits. -/
def mxElems (fmt k : Nat) (row : List Byte) : List Nat :=
  match fmt with
  | 0 | 1 => (List.range k).map (fun i => fieldNat row (2 * i) 2)
  | 2 | 3 | 4 => (List.range k).map (fun i => fieldNat row i 1)
  | 5 => (List.range k).map (fun i => fieldNat row (i / 2) 1 / 16 ^ (i % 2) % 16)
  | _ => (List.range k).map (fun i => fieldNat row (4 * i) 4)

/-- The scale byte of block `j` of an MXFP4 row. -/
def mxScale (row : List Byte) (j : Nat) : Nat := fieldNat row (64 + j) 1

/-- The meaning of an E2M1 element (R62). -/
def e2m1 (x : Nat) : Num :=
  let neg := decide (8 ≤ x)
  let ex := x / 2 % 4
  let fr := x % 2
  if ex = 0 then .fin neg fr (-1) else .fin neg (2 + fr) ((ex : Int) - 2)

/-- The meaning of an element of an input format. -/
def mxNum (fmt x : Nat) : Num :=
  match fmt with
  | 0 => decodeNum fmtBF16 x
  | 1 => decodeNum fmtF16 x
  | 2 => decodeNum fmtE4M3 x
  | 3 => decodeNum fmtE5M2 x
  | 5 => e2m1 x
  | _ => decodeNum fmtF32 x

/-- Products of one K-group (R73). -/
def mxGroup (fmt : Nat) : Nat :=
  match fmt with
  | 2 | 3 | 4 => 4
  | 5 => 32
  | _ => 1

/-! ### The arithmetic of a cell (R73 to R75) -/

/-- The exact product of two meanings. -/
def mulExact : Num → Num → Num
  | .nan b, _ => .nan b
  | _, .nan b => .nan b
  | .fin na ma ea, .fin nb mb eb => .fin (na ^^ nb) (ma * mb) (ea + eb)
  | .inf na, .inf nb => .inf (na ^^ nb)
  | .inf na, .fin nb m _ => if m = 0 then .nan false else .inf (na ^^ nb)
  | .fin na m _, .inf nb => if m = 0 then .nan false else .inf (na ^^ nb)

/-- The exponent of a finite meaning. -/
def Num.exp : Num → Int
  | .fin _ _ e => e
  | _ => 0

/-- The exact sum of products, times a power of two, rounded once to F32 (R73). A zero total is −0 where every product
is −0. -/
def groupTotal (ps : List Num) (scale : Int) : Nat :=
  let pinf := ps.any (fun p => p = .inf false)
  let ninf := ps.any (fun p => p = .inf true)
  if ps.any Num.isNan || (pinf && ninf) then fmtF32.nanImg
  else if pinf then fmtF32.infImg
  else if ninf then withSign fmtF32 true fmtF32.infImg
  else
    let q := ps.foldl (fun q p => min q p.exp) 0
    let sum : Int := ps.foldl (fun t p => match p with
      | .fin n m e => t + inUnits n m e q
      | _ => t) 0
    if sum = 0 then
      withSign fmtF32 (!ps.isEmpty && ps.all (fun p => match p with
        | .fin n m _ => n && m = 0
        | _ => false)) 0
    else (roundFin fmtF32 envRNE (decide (sum < 0)) sum.natAbs (q + scale)).1

/-- Lists cut into pieces of `n`. -/
def pieces {α : Type} (n : Nat) : Nat → List α → List (List α)
  | 0, _ => []
  | fuel + 1, l => if l.isEmpty then [] else l.take n :: pieces n fuel (l.drop n)

/-- A floating stream of one cell: the K-groups in order, each rounded, then added (R73). -/
def dotFloat (acc fa fw : Nat) (a w : List Nat) (sa sw : Nat → Nat) : Nat :=
  let gs := pieces (mxGroup fa) a.length (a.zip w)
  ((List.range gs.length).zip gs).foldl (fun acc g =>
    let ps := g.2.map (fun e => mulExact (mxNum fa e.1) (mxNum fw e.2))
    let t :=
      if fa = 5 then
        if sa g.1 = 255 ∨ sw g.1 = 255 then fmtF32.nanImg
        else groupTotal ps ((sa g.1 : Int) + sw g.1 - 254)
      else groupTotal ps 0
    (fAdd fmtF32 envRNE acc t).1) acc

/-- An INT8 stream of one cell (R74). -/
def dotInt (acc : Nat) (a w : List Nat) : Nat :=
  let t : Int := (a.zip w).foldl (fun t e => t + intVal true 8 e.1 * intVal true 8 e.2) 0
  intImg 32 ((acc : Int) + t)

/-- The F32 image of an element of BF16, FP16 or FP32 (exact). -/
def mxF32 (fmt x : Nat) : Nat :=
  match fmt with
  | 0 => (cvtFloat fmtBF16 fmtF32 envRNE x).1
  | 1 => (cvtFloat fmtF16 fmtF32 envRNE x).1
  | _ => x

/-- A semiring stream of one cell (R75). -/
def dotRing (sr acc fmt : Nat) (a w : List Nat) : Nat :=
  (a.zip w).foldl (fun acc e =>
    let x := mxF32 fmt e.1
    let y := mxF32 fmt e.2
    match sr with
    | 1 => minImg fmtF32 acc (fAdd fmtF32 envRNE x y).1
    | 2 => maxImg fmtF32 acc (fAdd fmtF32 envRNE x y).1
    | 3 => maxImg fmtF32 acc (fMul fmtF32 envRNE x y).1
    | _ => Nat.lor acc (Nat.land e.1 e.2)) acc

/-- One cell of a stream (R214): the activation row's bytes against a weight row's. -/
def mxDot (sr acc fa fw k : Nat) (arow wrow : List Byte) : Nat :=
  let a := mxElems fa k arow
  let w := mxElems fw k wrow
  if sr ≠ 0 then dotRing sr acc fa a w
  else if fa = 4 then dotInt acc a w
  else dotFloat acc fa fw a w (mxScale arow) (mxScale wrow)

/-- identity(SR, FMT) (R214). -/
def mxIdentity (sr : Nat) : Nat :=
  match sr with
  | 1 => fmtF32.infImg
  | 2 | 3 => withSign fmtF32 true fmtF32.infImg
  | _ => 0

/-! ### The epilogue (R218) -/

/-- What an epilogue applies: ACT, LEAKK, LO and HI. -/
structure Epi where
  act : Nat
  leakk : Nat
  lo : Nat
  hi : Nat
  deriving DecidableEq, Repr

/-- act(x) of R218 on an F32 image. -/
def Epi.apply (e : Epi) (x : Nat) : Nat :=
  let n := decodeNum fmtF32 x
  let pos : Bool := match n with
    | .fin s m _ => !s && m ≠ 0
    | .inf s => !s
    | .nan _ => false
  let zero : Bool := match n with
    | .fin _ m _ => m = 0
    | _ => false
  if n.isNan then (if e.act = 3 then minImg fmtF32 (maxImg fmtF32 x e.lo) e.hi else fmtF32.nanImg)
  else match e.act with
    | 1 => if pos then x else 0
    | 2 => if pos || zero then x else (mulNum fmtF32 envRNE n (.fin false 1 (-(e.leakk : Int)))).1
    | 3 => minImg fmtF32 (maxImg fmtF32 x e.lo) e.hi
    | 4 =>
      let t := (fMul fmtF32 envRNE x 0x3FB8AA3B).1
      let u := unaryImg 3 (Nat.xor t (2 ^ 31))
      unaryImg 0 (fAdd fmtF32 envRNE 0x3F800000 u).1
    | 5 => unaryImg 7 x
    | 6 => unaryImg 5 (fMul fmtF32 envRNE x 0x3EA2F983).1
    | _ => x

/-- RNE and SAT = 1, as the units convert (R218, R245). -/
def envSat : FEnv := { rm := 0, sat := true, ftz := false }

/-- Formats of OFMT 0 to 4. -/
def ofmtFmt (o : Nat) : Fmt :=
  match o with
  | 0 => fmtF32
  | 1 => fmtBF16
  | 2 => fmtF16
  | 3 => fmtE4M3
  | _ => fmtE5M2

/-- Bytes of an output element. -/
def ofmtBytes (o : Nat) : Nat :=
  match o with
  | 0 | 5 => 4
  | 1 | 2 => 2
  | _ => 1

/-- How an MDRAIN turns a cell into an output element. -/
structure DrainForm where
  raw : Bool
  ofmt : Nat
  scl : Nat
  bias : Bool
  icell : Bool
  epi : Epi
  /-- SCALE and BIASV. -/
  scale : Nat → Nat
  biasv : Nat → Nat

/-- One output element (R218). SAT = 1 replaces an infinity by the largest finite value, into F32 too (R65, log 9). -/
def DrainForm.cell (d : DrainForm) (i c x : Nat) : Nat :=
  if d.raw then x
  else if d.ofmt = 5 ∨ d.ofmt = 6 then
    let y := intVal true 32 x
    let y := if d.epi.act = 1 ∧ y < 0 then 0 else y
    if d.ofmt = 5 then intImg 32 y else intResult true 8 true y
  else
    let x := if d.icell then (cvtIntFloat fmtF32 envRNE (intVal true 32 x)).1 else x
    let x := if d.scl = 1 then (fMul fmtF32 envRNE x (d.scale i)).1 else x
    let x := if d.scl = 2 then (fMul fmtF32 envRNE x (d.scale c)).1 else x
    let x := if d.bias then (fAdd fmtF32 envRNE x (d.biasv c)).1 else x
    (cvtFloat fmtF32 (ofmtFmt d.ofmt) envSat (d.epi.apply x)).1

/-! ### Windows (R204, R209 to R211) -/

/-- ACCBASE and ACCLIM of a wave (R204). -/
def State.accWindow (s : State) (w : Nat) : Nat × Nat :=
  let x := s.wave w
  match (s.gangMx x.gang).window with
  | none => (0, 0)
  | some (n, per) =>
    let b := (s.gang x.gang).rb + (if per then x.idx * n else 0)
    (b, b + n)

/-- TRAPARG of ACCBOUND (R211). -/
def accArg (sub row m : Nat) : Dword := BitVec.ofNat 64 (sub + 2 ^ 8 * (row % 2 ^ 32) + 2 ^ 40 * (m % 2 ^ 16))

/-- What a matrix instruction states: no lanes, integer sources, and the MX path whose failures come first (R223). -/
def mxPre (srcs : List Code) (pair : List Code) : Focus → State → Pre :=
  fun f _ => { ok := srcs.all (srcOk false) && pair.all (pairSrcOk false) && litOnce (srcs ++ pair),
               reads := srcs.flatMap (srcRegs f.split) ++ pair.flatMap (pairRegs f.split), paths := [5],
               ra := .suppress }

/-- MALLOC (R209). TRAPARG [55:40] of its ACCBOUND, which R211 gives M of, holds 0: it has no M (DESIGN CHOICE, log 80). -/
def execMalloc (a : Code) (w : BitVec 1) (S : Stall) (lit : Option Word) : State → Host.Outcome State Fault Refusal :=
  issue S (mxPre [a] [])
    (fun f s =>
      let g := (s.wave f.wave).gang
      let n := (s.readSrc f.wave f.split lit a).toNat
      let total := if w = 1 then n * (s.gang g).waves else n
      if n = 0 ∨ 768 < n ∨ (s.gang g).accRows < total then .trap causeAccbound (accArg 1 n 0)
      else if (s.gangMx g).window.isSome then .trap causeAccbound (accArg 2 n 0)
      else .done (s.modMx g (fun m => { m with window := some (n, w = 1) })))

/-- Every matrix command of the gang with an order below `o` has completed. -/
def GangMx.doneBelow (m : GangMx) (o : Nat) : Bool := !(m.cmds.any (fun c => decide (c.order < o)))

/-- The gang's window is given up (R210). -/
def State.freeWindow (s : State) (g : Nat) : State := s.modMx g (fun m => { m with window := none })

/-- MFREE (R210): it holds until the gang's commands accepted before it have completed. -/
def execMfree (S : Stall) : State → Host.Outcome State Fault Refusal :=
  issue S (mxPre [] [])
    (fun f s =>
      let g := (s.wave f.wave).gang
      if (s.gangMx g).cmds.isEmpty then .done (s.freeWindow g)
      else sendHeld f s (hopOf f S (.mfree S) 0 0 0 [(s.gangMx g).accepted] true))

/-! ### Commands at issue (R205 to R218) -/

/-- The checks of a scratch operand (R207): `rows` rows of `n` bytes from `o`. -/
def stackBad (limit o pitch rows n : Nat) : Option (Nat × Dword) :=
  let last := o + 16 * pitch * (rows - 1) + n - 1
  if o % 16 ≠ 0 then some (causeMisalign, BitVec.ofNat 64 o)
  else if rows ≠ 0 ∧ n ≠ 0 ∧ limit ≤ last then some (causeScratch, BitVec.ofNat 64 last)
  else none

/-- The ENGFAULT of a matrix instruction (R217). -/
def engTrap (sub : Nat) : Res := .trap causeEngfault (BitVec.ofNat 64 sub)

/-- Sends a matrix command: accepted at once, and the MX counter rises (R206). -/
def sendMx (f : Focus) (s : State) (op : Instr) (vals : List Nat) : Res :=
  let x := s.wave f.wave
  if pathFull x 5 then .hold
  else
    let c : MxCmd := { wave := f.wave, seq := x.seq, op, vals, accbase := (s.accWindow f.wave).1, prio := x.csr.prio,
                       granted := false, order := (s.gangMx x.gang).accepted }
    .done ((s.modMx x.gang (fun m => { m with cmds := m.cmds ++ [c], accepted := m.accepted + 1 })).modWave f.wave
      (fun x => { x.raiseCounter 5 with seq := x.seq + 1 }))

/-- After the checks of a scratch operand, what follows. -/
def afterStack (b : Option (Nat × Dword)) (r : Res) : Res :=
  match b with
  | some (c, a) => .trap c a
  | none => r

/-- The row check (R211), and what follows. -/
def withRows (f : Focus) (s : State) (row0 m : Nat) (r : Res) : Res :=
  let (b, l) := s.accWindow f.wave
  if m ≠ 0 ∧ l - b < row0 + m then .trap causeAccbound (accArg 3 row0 m) else r

/-- The active and shadow planes as they will stand after the gang's accepted commands (R214). -/
def GangMx.planes (m : GangMx) : Plane × Plane :=
  m.cmds.foldl (fun (p : Plane × Plane) c => match c.op with
    | .mloadw _ _ _ fmt _ _ _ =>
      (p.1, { Plane.empty with loaded := true, fmt := fmt.toNat, k := c.vals.getD 1 0, n := c.vals.getD 2 0 })
    | .mswap _ => (p.2, p.1)
    | _ => p) (m.active, m.shadow)

/-- MLOADW (R212). -/
def execMloadw (d a b : Code) (fmt : BitVec 4) (pitch : BitVec 10) (S : Stall) (lit : Option Word) :
    State → Host.Outcome State Fault Refusal :=
  issue S (mxPre [d, a, b] [])
    (fun f s =>
      let o := (s.readSrc f.wave f.split lit d).toNat
      let k := (s.readSrc f.wave f.split lit a).toNat
      let n := (s.readSrc f.wave f.split lit b).toNat
      if 128 < k ∨ 128 < n ∨ (fmt = 5 ∧ k % 32 ≠ 0) then engTrap 16
      else afterStack (stackBad (s.wave f.wave).scrLimit o pitch.toNat n (mxRowBytes fmt.toNat k))
        (sendMx f s (.mloadw d a b fmt pitch S lit) [o, k, n]))

/-- MSWAP (R213). -/
def execMswap (S : Stall) : State → Host.Outcome State Fault Refusal :=
  issue S (mxPre [] []) (fun f s => sendMx f s (.mswap S) [])

/-- The formats of a stream against a plane (R214): the plane's format, or none. -/
def streamOk (fmt sr : Nat) (w : Option Nat) : Bool :=
  let fp8 := fun (x : Nat) => x = 2 || x = 3
  (match w with
    | none => true
    | some v => fmt = v || (fp8 fmt && fp8 v)) &&
  (if 1 ≤ sr && sr ≤ 3 then fmt = 0 || fmt = 1 || fmt = 6 else true) && ((sr = 4) == (fmt = 7))

/-- MMAX and NC: 0 stands for 128. -/
def zero128 (m : Nat) : Nat := if m = 0 then 128 else m

/-- MSTREAM (R214). -/
def execMstream (d a b : Code) (fmt : BitVec 4) (sr : BitVec 3) (ini : BitVec 1) (mmax : BitVec 7) (pitch : BitVec 10)
    (S : Stall) (lit : Option Word) : State → Host.Outcome State Fault Refusal :=
  issue S (mxPre [d, a, b] [])
    (fun f s =>
      let x := s.wave f.wave
      let row0 := (s.readSrc f.wave f.split lit d).toNat
      let o := (s.readSrc f.wave f.split lit a).toNat
      let m := (s.readSrc f.wave f.split lit b).toNat
      let plane := (s.gangMx x.gang).planes.1
      withRows f s row0 m
        (if zero128 mmax.toNat < m then engTrap 17
        else if !(streamOk fmt.toNat sr.toNat (if plane.loaded then some plane.fmt else none)) then engTrap 18
        else afterStack (stackBad x.scrLimit o pitch.toNat m (mxRowBytes fmt.toNat plane.k))
          (sendMx f s (.mstream d a b fmt sr ini mmax pitch S lit) [o, row0, m])))

/-- The parts of the parameter block that a drain needs, with their offsets and bytes (R217). -/
def drainParts (act ofmt scl : Nat) (bias raw : Bool) : List (Nat × Nat) :=
  if raw ∨ ofmt = 5 ∨ ofmt = 6 then []
  else (if scl ≠ 0 then [(0, 512)] else []) ++ (if bias then [(0x200, 512)] else []) ++
    (if act = 3 then [(0x400, 8)] else []) ++ (if act = 2 then [(0x408, 1)] else [])

/-- The checks of the parameter block (R217). -/
def paramsBad (limit e : Nat) (parts : List (Nat × Nat)) : Option (Nat × Dword) :=
  if parts.isEmpty then none
  else if e % 16 ≠ 0 then some (causeMisalign, BitVec.ofNat 64 e)
  else (parts.find? (fun p => decide (limit ≤ e + p.1 + p.2 - 1))).map (fun p =>
    (causeScratch, BitVec.ofNat 64 (e + p.1 + p.2 - 1)))

/-- MDRAIN (R216 to R218). -/
def execMdrain (d a b : Code) (raw : BitVec 1) (act ofmt : BitVec 3) (scl : BitVec 2) (bias : BitVec 1)
    (pitch : BitVec 10) (nc : BitVec 7) (icell : BitVec 1) (S : Stall) (lit : Option Word) :
    State → Host.Outcome State Fault Refusal :=
  issue S (mxPre [a, b] [d])
    (fun f s =>
      let limit := (s.wave f.wave).scrLimit
      let p := s.readPair f.wave f.split lit d
      let o := (Dword.lo p).toNat
      let e := (Dword.hi p).toNat
      let row0 := (s.readSrc f.wave f.split lit a).toNat
      let m := (s.readSrc f.wave f.split lit b).toNat
      let int := ofmt = 5 ∨ ofmt = 6
      let eb := if raw = 1 then 4 else ofmtBytes ofmt.toNat
      withRows f s row0 m
        (if 128 < m then engTrap 17
        else if int ∧ (icell = 0 ∨ scl ≠ 0 ∨ bias = 1 ∨ 1 < act.toNat) then engTrap 19
        else afterStack (stackBad limit o pitch.toNat m (zero128 nc.toNat * eb))
          (afterStack (paramsBad limit e (drainParts act.toNat ofmt.toNat scl.toNat (bias = 1) (raw = 1)))
            (sendMx f s (.mdrain d a b raw act ofmt scl bias pitch nc icell S lit) [o, e, row0, m]))))

/-- MZERO (R218). -/
def execMzero (a b : Code) (S : Stall) (lit : Option Word) : State → Host.Outcome State Fault Refusal :=
  issue S (mxPre [a, b] [])
    (fun f s =>
      let row0 := (s.readSrc f.wave f.split lit a).toNat
      let m := (s.readSrc f.wave f.split lit b).toNat
      withRows f s row0 m (sendMx f s (.mzero a b S lit) [row0, m]))

/-- MFILL (R216 to R218). -/
def execMfill (d a b : Code) (pitch : BitVec 10) (nc : BitVec 7) (S : Stall) (lit : Option Word) :
    State → Host.Outcome State Fault Refusal :=
  issue S (mxPre [d, a, b] [])
    (fun f s =>
      let o := (s.readSrc f.wave f.split lit d).toNat
      let row0 := (s.readSrc f.wave f.split lit a).toNat
      let m := (s.readSrc f.wave f.split lit b).toNat
      withRows f s row0 m
        (if 128 < m then engTrap 17
        else afterStack (stackBad (s.wave f.wave).scrLimit o pitch.toNat m (4 * zero128 nc.toNat))
          (sendMx f s (.mfill d a b pitch nc S lit) [o, row0, m])))

/-! ### Effects (R212 to R220) -/

/-- Rows of scratch: `rows` rows of `n` bytes from `o`. -/
def State.scrRows (s : State) (g o pitch rows n : Nat) : List (List Byte) :=
  (List.range rows).map (fun i => s.asRead.scrRead g (o + 16 * pitch * i) n)

/-- A plane filled from its recorded source as it stands (R212, R213). -/
def Plane.fill (p : Plane) (s : State) (g : Nat) : Plane :=
  if p.loaded then
    { p with stale := false, rows := s.scrRows g p.src p.pitch p.n (mxRowBytes p.fmt p.k) }
  else { p with stale := false }

/-- The cells of a row with `n` columns from column 0 changed. -/
def putCells (m : Map Word) (row : Nat) (vals : List Nat) : Map Word :=
  ((List.range vals.length).zip vals).foldl (fun m e => mapSet 0 m (128 * row + e.1) (BitVec.ofNat 32 e.2)) m

/-- A stream of activation rows past weight rows (R214): the cells of rows `base` on. -/
def streamCells (m : Map Word) (base sr : Nat) (ini : Bool) (fa fw k : Nat) (acts wrows : List (List Byte)) : Map Word :=
  ((List.range acts.length).zip acts).foldl (fun m r =>
    putCells m (base + r.1) (((List.range wrows.length).zip wrows).map (fun w =>
      let c := if ini then mxIdentity sr else (mapGet 0 m (128 * (base + r.1) + w.1)).toNat
      mxDot sr c fa fw k r.2 w.2))) m

/-- The drain form of an MDRAIN, with its parameter block read from scratch (R217). -/
def State.drainForm (s : State) (g e : Nat) (raw : Bool) (act ofmt scl : Nat) (bias icell : Bool) : DrainForm :=
  let rd := fun (o n : Nat) => leNat (s.asRead.scrRead g (e + o) n)
  { raw, ofmt, scl, bias, icell, epi := { act, leakk := rd 0x408 1 % 32, lo := rd 0x400 4, hi := rd 0x404 4 },
    scale := fun i => rd (4 * i) 4, biasv := fun c => rd (0x200 + 4 * c) 4 }

/-- The rows that an MDRAIN writes: offsets and bytes (R218). -/
def drainRows (m : Map Word) (d : DrainForm) (o base rows pitch nc eb : Nat) : List (Nat × List Byte) :=
  (List.range rows).map (fun i =>
    (o + 16 * pitch * i, (List.range nc).flatMap (fun c =>
      leBytes eb (d.cell i c (mapGet 0 m (128 * (base + i) + c)).toNat))))

/-- The rows that a command drains to scratch. -/
def State.mxDrain (s : State) (g cl : Nat) (c : MxCmd) : List (Nat × List Byte) :=
  let v := fun i => c.vals.getD i 0
  match c.op with
  | .mdrain _ _ _ raw act ofmt scl bias pitch nc icell _ _ =>
    drainRows (s.cluster cl).acc
      (s.drainForm g (v 1) (raw = 1) act.toNat ofmt.toNat scl.toNat (bias = 1) (icell = 1)) (v 0)
      (c.accbase + v 2) (v 3) pitch.toNat (zero128 nc.toNat) (if raw = 1 then 4 else ofmtBytes ofmt.toNat)
  | _ => []

/-- A matrix command takes effect (R212 to R218). -/
def State.mxEffect (s : State) (g cl : Nat) (c : MxCmd) : State :=
  let v := fun i => c.vals.getD i 0
  let acc := fun (f : Map Word → Map Word) => s.modCluster cl (fun x => { x with acc := f x.acc })
  match c.op with
  | .mloadw _ _ _ fmt pitch _ _ =>
    let p : Plane := { loaded := true, stale := false, src := v 0, pitch := pitch.toNat, fmt := fmt.toNat, k := v 1,
                       n := v 2, rows := [] }
    s.modMx g (fun m => { m with shadow := p.fill s g })
  | .mswap _ =>
    s.modMx g (fun m =>
      let sh := if m.shadow.stale then m.shadow.fill s g else m.shadow
      { m with active := sh, shadow := m.active })
  | .mstream _ _ _ fmt sr ini _ pitch _ _ =>
    let p := (s.gangMx g).active
    acc (fun a => streamCells a (c.accbase + v 1) sr.toNat (ini = 1) fmt.toNat p.fmt p.k
      (s.scrRows g (v 0) pitch.toNat (v 2) (mxRowBytes fmt.toNat p.k)) p.rows)
  | .mdrain _ _ _ _ _ _ _ _ _ _ _ _ _ => (s.mxDrain g cl c).foldl (fun s r => s.scrWrite g r.1 r.2) s
  | .mzero _ _ _ _ =>
    acc (fun a => a.filter (fun e => !(decide (128 * (c.accbase + v 0) ≤ e.1) &&
      decide (e.1 < 128 * (c.accbase + v 0 + v 1)))))
  | .mfill _ _ _ pitch nc _ _ =>
    acc (fun a => ((List.range (v 2)).foldl (fun a i =>
      putCells a (c.accbase + v 1 + i) (mxElems 7 (zero128 nc.toNat)
        (s.asRead.scrRead g (v 0 + 16 * pitch.toNat * i) (4 * zero128 nc.toNat)))) a))
  | _ => s

/-- The ranges of scratch that a command drains to: offset and length of each row. -/
def MxCmd.outs (c : MxCmd) : List (Nat × Nat) :=
  match c.op with
  | .mdrain _ _ _ raw _ ofmt _ _ pitch nc _ _ _ =>
    (List.range (c.vals.getD 3 0)).map (fun i =>
      (c.vals.getD 0 0 + 16 * pitch.toNat * i, zero128 nc.toNat * (if raw = 1 then 4 else ofmtBytes ofmt.toNat)))
  | _ => []

/-- The ranges of scratch that a command reads or writes: offset and length. -/
def State.mxRanges (s : State) (g : Nat) (c : MxCmd) : List (Nat × Nat) :=
  let v := fun i => c.vals.getD i 0
  let rows := fun (o pitch n len : Nat) => (List.range n).map (fun i => (o + 16 * pitch * i, len))
  match c.op with
  | .mloadw _ _ _ fmt pitch _ _ => rows (v 0) pitch.toNat (v 2) (mxRowBytes fmt.toNat (v 1))
  | .mstream _ _ _ fmt _ _ _ pitch _ _ => rows (v 0) pitch.toNat (v 2) (mxRowBytes fmt.toNat (s.gangMx g).active.k)
  | .mdrain _ _ _ raw act ofmt scl bias _ _ _ _ _ =>
    c.outs ++
      (drainParts act.toNat ofmt.toNat scl.toNat (bias = 1) (raw = 1)).map (fun p => (v 1 + p.1, p.2))
  | .mfill _ _ _ pitch nc _ _ => rows (v 0) pitch.toNat (v 2) (4 * zero128 nc.toNat)
  | _ => []

/-- The accumulator rows that a command reads: first and count. -/
def MxCmd.rowsRead (c : MxCmd) : Nat × Nat :=
  let v := fun i => c.vals.getD i 0
  match c.op with
  | .mstream _ _ _ _ _ 0 _ _ _ _ => (c.accbase + v 1, v 2)
  | .mdrain _ _ _ _ _ _ _ _ _ _ _ _ _ => (c.accbase + v 2, v 3)
  | _ => (0, 0)

/-- An earlier access of the wave touches a scratch line that the command names (R150). -/
def State.mxHeld (s : State) (g : Nat) (c : MxCmd) : Bool :=
  let rs := s.mxRanges g c
  let line := fun (o : Nat) => rs.any (fun r => r.2 ≠ 0 && decide (r.1 / 128 ≤ o / 128) &&
    decide (o / 128 ≤ (r.1 + r.2 - 1) / 128))
  (s.wave c.wave).flight.any (fun a => decide (a.seq < c.seq) && a.accs.any (fun q =>
    (a.scratch && line q.pa) || (a.kind = .gs && line q.target)))

/-- A command is a stream, which needs an array slot. -/
def MxCmd.isStream (c : MxCmd) : Bool :=
  match c.op with
  | .mstream _ _ _ _ _ _ _ _ _ _ => true
  | _ => false

/-- A matrix command leaves the engine: the MX counter of its wave falls (R206). -/
def State.mxDone (s : State) (g : Nat) (c : MxCmd) : State :=
  (s.modMx g (fun m => { m with cmds := m.cmds.filter (fun d => d.order ≠ c.order) })).modWave c.wave
    (fun x => x.setCounter 5 (x.counter 5 - 1))

/-- The MFREEs of a gang whose commands have completed take effect and are answered (R210). -/
def State.answerFrees (s : State) (g : Nat) : State :=
  s.waveIds.foldl (fun s w =>
    let x := s.wave w
    if x.gang = g ∧ x.ra.isNone ∧ x.life = .resident then
      x.hops.foldl (fun s h => match h.op with
        | .mfree _ => if (s.gangMx g).doneBelow (h.val 0) then (s.freeWindow g).answer w h else s
        | _ => s) s
    else s) s

/-- The ranges of scratch that a command reads. -/
def State.mxSources (s : State) (g : Nat) (c : MxCmd) : List (Nat × Nat) :=
  match c.op with
  | .mdrain _ _ _ raw act ofmt scl bias _ _ _ _ _ =>
    (drainParts act.toNat ofmt.toNat scl.toNat (bias = 1) (raw = 1)).map (fun p => (c.vals.getD 1 0 + p.1, p.2))
  | _ => s.mxRanges g c

/-- A command reads a byte of a 64-byte sector of scratch. -/
def State.mxReadsSector (s : State) (g : Nat) (c : MxCmd) (q : Nat) : Bool :=
  (s.mxSources g c).any (fun p => decide (p.1 < 64 * q + 64) && decide (64 * q < p.1 + p.2))

/-- A cell, as row and column, that the command reads, or that it writes. -/
def State.mxReadsCell (s : State) (g : Nat) (c : MxCmd) (row col : Nat) : Bool :=
  let (r, n) := c.rowsRead
  decide (r ≤ row) && decide (row < r + n) && (match c.op with
    | .mdrain _ _ _ _ _ _ _ _ _ nc _ _ _ => decide (col < zero128 nc.toNat)
    | _ => decide (col < (s.gangMx g).active.n))

def State.mxWritesCell (s : State) (g : Nat) (c : MxCmd) (row col : Nat) : Bool :=
  let v := fun i => c.vals.getD i 0
  let rows := fun (r n : Nat) => decide (c.accbase + r ≤ row) && decide (row < c.accbase + r + n)
  match c.op with
  | .mstream _ _ _ _ _ _ _ _ _ _ => rows (v 1) (v 2) && decide (col < (s.gangMx g).active.n)
  | .mzero _ _ _ _ => rows (v 0) (v 1)
  | .mfill _ _ _ _ nc _ _ => rows (v 1) (v 2) && decide (col < zero128 nc.toNat)
  | _ => false

/-- What a command reads that is marked as uncorrectable: a physical row, or a scratch offset (R223, R301). -/
def State.mxMarked (s : State) (g cl : Nat) (c : MxCmd) : Option Nat :=
  match s.badAcc.find? (fun e => e.1 = cl && s.mxReadsCell g c (e.2 / 128) (e.2 % 128)) with
  | some e => some (e.2 / 128)
  | none => (s.badScratch.find? (fun e => e.1 = g && s.mxReadsSector g c e.2)).map (fun e => 64 * e.2)

/-- Drained units have landed already: the command has read what it reads (R152, R221). -/
def State.mxBegun (s : State) (c : MxCmd) : Bool := s.early.any (fun e => e.1 = [2, c.wave, c.seq])

/-- The error marks of cells that the command writes are gone (R301). -/
def State.clearCells (s : State) (g cl : Nat) (c : MxCmd) : State :=
  if s.badAcc.isEmpty then s
  else { s with badAcc := s.badAcc.filter (fun e => !(e.1 = cl && s.mxWritesCell g c (e.2 / 128) (e.2 % 128))) }

/-- The command writes no cell and no byte, and the wave traps with UNCORR before it goes past it (R223). -/
def State.mxFail (s : State) (g : Nat) (c : MxCmd) (rest : List MxCmd) (at' : Nat) : State :=
  let u : UncRec := {
    path := 5, regs := [], cause := causeUncorr, arg := uncArg at' 5,
    later := (rest.filter (fun d => d.wave = c.wave)).length }
  ((s.mxDone g c).modWave c.wave (fun x => { x with uncs := x.uncs ++ [u] })).answerFrees g

/-- MATRIX_COMMAND_COMPLETE (R206, R219, R223): the gang's oldest command takes effect and completes; MFREEs that wait for
it go on. A sector of scratch or an accumulator cell given proves uncorrectable before the command has written anything, and stays
so. Subject: gang; 1 + that sector, or 0; 1 + that cell, as 128 × row + column, or 0. -/
def execMatrixCommandComplete (s : State) : Host.Outcome State Fault Refusal :=
  let g := s.arg 0
  let cl := (s.gang g).cluster
  .next (match (s.gangMx g).cmds with
    | [] => s.answerFrees g
    | c :: r =>
      if (c.isStream && !c.granted) || s.mxHeld g c then s
      else if s.arg 1 ≠ 0 then
        let q := s.arg 1 - 1
        if s.mxReadsSector g c q && !(s.mxBegun c) then
          State.mxFail { s with badScratch := s.badScratch ++ [(g, q)] } g c r (64 * q) else s
      else if s.arg 2 ≠ 0 then
        let i := s.arg 2 - 1
        if s.mxReadsCell g c (i / 128) (i % 128) && !(s.mxBegun c) then
          State.mxFail { s with badAcc := s.badAcc ++ [(cl, i)] } g c r (i / 128) else s
      else if (s.mxMarked g cl c).isSome && !(s.mxBegun c) then s.mxFail g c r ((s.mxMarked g cl c).getD 0)
      else (((s.mxEffect g cl c).clearCells g cl c).mxDone g c).answerFrees g)

end Sys2Proof.Machine
end

