-- ==== Sys2Proof/Machine/Neural.lean ====
section
/-! DEFINITION. The neural-call class: weight sets and the weight cache (R232 to R238), calls, booths and tiles (R239 to
R246), tokens (R247, R249), the array's arbitration (R17, R222), and threads placed to be spawned (R254 to R256). -/

namespace Sys2Proof.Machine

/-! ### Descriptors (R233 to R235) -/

/-- LAYERS, IN, OUT, TIMER, BYTES and BASE of a descriptor (R233). -/
def descLayers (d : List Byte) : Nat := fieldNat d 4 1

def descIn (d : List Byte) : Nat := fieldNat d 5 1

def descOut (d : List Byte) : Nat := fieldNat d 6 1

def descBytes (d : List Byte) : Nat := fieldNat d 0x0C 4

def descBase (d : List Byte) : Dword := BitVec.ofNat 64 (fieldNat d 0x10 8)

/-- A booth timer: 0 selects 512 (R233). -/
def boothTimer (t : Nat) : Nat := if t = 0 then 512 else t

/-- A booth timer's field is in its range. -/
def timerOk (t : Nat) : Bool := t = 0 || decide (16 ≤ t)

def descTimer (d : List Byte) : Nat := boothTimer (fieldNat d 8 2)

/-- A layer entry (R234). -/
structure Layer where
  wfmt : Nat
  afmt : Nat
  k : Nat
  n : Nat
  bias : Bool
  act : Nat
  leakk : Nat
  pitch : Nat
  woff : Nat
  boff : Nat
  lo : Nat
  hi : Nat
  /-- Every reserved field is zero. -/
  clean : Bool
  deriving DecidableEq, Repr

/-- Layer entry `l` of a descriptor (R234). -/
def descLayer (d : List Byte) (l : Nat) : Layer :=
  let n := fun o k => fieldNat d (0x40 + 32 * l + o) k
  { wfmt := n 0 1, afmt := n 1 1, k := n 2 1, n := n 3 1, bias := n 4 1 / 8 % 2 = 1, act := n 4 1 % 8,
    leakk := n 5 1 % 32, pitch := n 6 2, woff := n 8 4, boff := n 0x0C 4, lo := n 0x10 4, hi := n 0x14 4,
    clean := n 4 1 < 16 && n 5 1 < 32 && n 0x18 8 = 0 }

/-- What R234 and R235 ask of one layer, whose weights lie within `bytes` of BASE. -/
def Layer.ok (y : Layer) (bytes : Nat) : Bool :=
  let row := mxRowBytes y.wfmt y.k
  ((y.wfmt = 5 && y.afmt = 5 && y.k % 32 = 0) || ((y.wfmt = 2 || y.wfmt = 3) && (y.afmt = 2 || y.afmt = 3))) &&
  decide (1 ≤ y.k) && decide (y.k ≤ 128) && decide (1 ≤ y.n) && decide (y.n ≤ 128) && y.act ≠ 7 && y.clean &&
  decide (1 ≤ y.pitch) && decide (y.pitch ≤ 1023) && y.woff % 16 = 0 && decide (row ≤ 16 * y.pitch) &&
  decide (y.woff + 16 * y.pitch * (y.n - 1) + row ≤ bytes) &&
  (!y.bias || (y.boff % 2 = 0 && decide (y.boff + 2 * y.n ≤ bytes)))

/-- The layers of a descriptor. -/
def descAll (d : List Byte) : List Layer := (List.range (descLayers d)).map (descLayer d)

/-- The layers chain together from an input width to OUT, and inner widths are multiples of 16 (R235). -/
def chainOk (out : Nat) : Nat → List Layer → Bool
  | w, [] => w = out
  | w, y :: r => y.k = w && (r.isEmpty || y.n % 16 = 0) && chainOk out y.n r

/-- A descriptor is valid (R235). -/
def descOk (d : List Byte) : Bool :=
  fieldNat d 0 4 = 0x3153574E && decide (1 ≤ descLayers d) && decide (descLayers d ≤ 8) && decide (1 ≤ descIn d) &&
  decide (descIn d ≤ 128) && decide (1 ≤ descOut d) && decide (descOut d ≤ 64) && fieldNat d 7 1 = 0 &&
  timerOk (fieldNat d 8 2) && fieldNat d 0x0A 2 = 0 && descBytes d % 64 = 0 && decide (64 ≤ descBytes d) &&
  decide (descBytes d ≤ 131072) && (descBase d).toNat % 64 = 0 && canonical (descBase d) &&
  ((d.drop 0x18).take 40).all (fun b => b = 0) && (descAll d).all (fun y => y.ok (descBytes d)) &&
  chainOk (descOut d) (descIn d) (descAll d)

/-- Elements of a register in a call's type: 0 F32, 1 F16, 2 BF16 (R239). -/
def callElems (ty : Nat) : Nat := if ty = 0 then 1 else 2

/-- A call matches a descriptor (R235). -/
def descMatches (d : List Byte) (nin nout ity oty : Nat) : Bool :=
  descIn d = nin * callElems ity && descOut d = nout * callElems oty

/-- Why a set is not found: subcode 1 none, 2 invalid, 4 a translation or permission fault, 5 an uncorrectable error
(R250), with the fault. -/
abbrev SetErr := Nat × Option EngErr

/-- The failure of an access. -/
def setErr (e : EngErr) : SetErr := (if e.cause = causeUncorr then 5 else 4, some e)

/-- Looks an id up through a weight-set table and reads its descriptor (R232, R236): its address and bytes. -/
def State.readSet (s : State) (sp : Space) (wst : Dword) (id : Nat) : Except SetErr (Dword × List Byte) :=
  if wst = 0 ∨ id = 0 then .error (1, none)
  else match s.engRead sp (wst + BitVec.ofNat 64 (8 * id)) 8 with
    | .error e => .error (setErr e)
    | .ok bs =>
      let va : Dword := BitVec.ofNat 64 (leNat bs)
      if va = 0 then .error (1, none)
      else if va.toNat % 64 ≠ 0 then .error (2, none)
      else match s.engRead sp va 64 with
        | .error e => .error (setErr e)
        | .ok h =>
          if descLayers h = 0 ∨ 8 < descLayers h then .error (2, none)
          else match s.engRead sp (va + 64) (32 * descLayers h) with
            | .error e => .error (setErr e)
            | .ok ls => if descOk (h ++ ls) then .ok (va, h ++ ls) else .error (2, none)

/-- The record that a market's fault sends (R242, R244). -/
def State.marketFault (s : State) (sp : Space) (c : Nat) (launchid : Word) (e : Option EngErr) : State :=
  match e with
  | none => s
  | some e => s.engFault 2 .read sp c launchid e

/-- A market's fault waits for its section's merge table (R296). -/
def State.marketWaits (s : State) (c asid : Nat) (e : Option EngErr) : Bool := e.any (s.faultWaits c asid)

/-! ### The weight cache (R237, R238) -/

/-- A tile uses a set (R237): it is the set of the tile's descriptor. -/
def WSet.isOf (y : WSet) (b : Booth) : Bool :=
  y.asid = b.asid && y.desc = b.descVa && y.base = descBase b.desc && y.bytes = descBytes b.desc

/-- The set of a descriptor that is to be filled. -/
def newSet (asid : Nat) (ttbase : Dword) (world : Nat) (va : Dword) (d : List Byte) : WSet :=
  { asid, desc := va, base := descBase d, bytes := descBytes d, resident := false, data := [], pins := 0, lastUse := 0,
    ttbase, world }

/-- Two sets are one set (R237). -/
def WSet.same (a b : WSet) : Bool := a.asid = b.asid && a.desc = b.desc && a.base = b.base && a.bytes = b.bytes

/-- The set that a tile names, where it is resident. -/
def Cluster.setOf (cl : Cluster) (b : Booth) : Option WSet := cl.sets.find? (fun y => y.resident && y.isOf b)

/-- A tile that has begun, or holds a slot to begin with, uses the set. -/
def Cluster.setBusy (cl : Cluster) (y : WSet) : Bool := cl.tiles.any (fun t => (t.begun || t.granted) && y.isOf t.booth)

/-- BYTES of all resident sets, and of all pinned ones. -/
def Cluster.setBytes (cl : Cluster) : Nat := (cl.sets.filter (fun y => y.resident)).foldl (fun n y => n + y.bytes) 0

def Cluster.pinned (cl : Cluster) : Nat := (cl.sets.filter (fun y => y.pins ≠ 0)).foldl (fun n y => n + y.bytes) 0

/-- Evicts the least recently used sets that are unpinned and idle until `n` bytes fit in 1 MiB (R237). -/
def Cluster.makeRoom (cl : Cluster) (n : Nat) : Nat → Cluster
  | 0 => cl
  | fuel + 1 =>
    if cl.setBytes + n ≤ 2 ^ 20 then cl
    else
      let idle := cl.sets.filter (fun y => y.resident && y.pins = 0 && !(cl.setBusy y))
      match idle with
      | [] => cl
      | y :: r =>
        let old := r.foldl (fun a b => if b.lastUse < a.lastUse then b else a) y
        Cluster.makeRoom { cl with sets := cl.sets.filter (fun z => !(z.same old)) } n fuel

/-- The reads that find a set wait for an engine's lines (R150, R236). -/
def State.setWaits (s : State) (sp : Space) (wst : Dword) (id : Nat) : Bool :=
  let entry := wst + BitVec.ofNat 64 (8 * id)
  decide (wst ≠ 0) && decide (id ≠ 0) && (s.areaOwned sp entry 8 || (match s.engRead sp entry 8 with
    | .ok bs =>
      let va : Dword := BitVec.ofNat 64 (leNat bs)
      decide (va.toNat % 64 = 0) && decide (va ≠ 0) && (s.areaOwned sp va 64 || (match s.engRead sp va 64 with
        | .ok h => decide (descLayers h ≤ 8) && s.areaOwned sp (va + 64) (32 * descLayers h)
        | .error _ => false))
    | .error _ => false))

/-- The sets to be filled: those asked for by WHINT, and those of tiles that wait. -/
def Cluster.wanted (cl : Cluster) : List WSet :=
  cl.sets.filter (fun y => !y.resident) ++
    (cl.tiles.filter (fun t => !t.begun && !t.booth.desc.isEmpty && !(cl.sets.any (fun y => y.isOf t.booth)))).map
      (fun t => newSet t.booth.asid t.booth.ttbase t.booth.world t.booth.descVa t.booth.desc)

/-- The status that a set's failure gives a WHINT (R238). -/
def whintStatus (sub : Nat) : Word := if sub = 1 then 2 else if sub = 2 then 3 else 6

/-- WHINT (R238). A PIN that waits for its set is tried again; a DROP waits until no tile uses the set. -/
def execWhint (d a : Code) (op : BitVec 2) (S : Stall) (lit : Option Word) : State → Host.Outcome State Fault Refusal :=
  issue S
    (fun f _ => { ok := dstOk d && srcOk false a, reads := srcRegs f.split a, writes := srcRegs f.split d,
                  ra := .suppress })
    (fun f s =>
      let x := s.wave f.wave
      let id := (s.readSrc f.wave f.split lit a).toNat % 2 ^ 20
      let put := fun (s : State) (n : Word) => Res.done (s.writeDst f.wave f.split 1 d n)
      if s.setWaits x.engSpace x.csr.wst id then .hold
      else match s.readSet x.engSpace x.csr.wst id with
      | .error e =>
        if s.marketWaits x.cluster x.csr.asid e.2 then .hold
        else put (s.marketFault x.engSpace x.cluster x.csr.launchid e.2) (whintStatus e.1)
      | .ok (va, ds) =>
        let cl := s.cluster x.cluster
        let y := newSet x.csr.asid x.csr.ttbase x.csr.world va ds
        let held := cl.sets.find? (fun z => z.same y)
        let count := match held with
          | some z => z.pins
          | none => 0
        let here : Bool := match held with
          | some z => z.resident
          | none => false
        let pins := fun (n : Nat) => s.modCluster x.cluster (fun cl =>
          { cl with sets := cl.sets.map (fun z => if z.same y then { z with pins := n } else z) })
        let want := if held.isSome then s
          else s.modCluster x.cluster (fun cl => { cl with sets := cl.sets ++ [y] })
        match op with
        | 0 =>
          if here then put s 0
          else if s.areaOwned x.engSpace y.base y.bytes then .hold
          else (match s.engRead x.engSpace y.base y.bytes with
            | .error e =>
              if s.faultWaits x.cluster x.csr.asid e then .hold
              else put (s.marketFault x.engSpace x.cluster x.csr.launchid (some e)) 6
            | .ok _ => put want 0)
        | 1 =>
          if 768 * 1024 < cl.pinned + y.bytes ∧ count = 0 then put s 1
          else if here then put (pins (count + 1)) 0
          else if s.areaOwned x.engSpace y.base y.bytes then .hold
          else (match s.engRead x.engSpace y.base y.bytes with
            | .error e =>
              if s.faultWaits x.cluster x.csr.asid e then .hold
              else put (s.marketFault x.engSpace x.cluster x.csr.launchid (some e)) 6
            | .ok _ => .quit (want.held f))
        | 2 => if count = 0 then put s 4 else put (pins (count - 1)) 0
        | _ =>
          if 0 < count then put s 5
          else if cl.setBusy y then .hold
          else put (s.modCluster x.cluster (fun cl => { cl with sets := cl.sets.filter (fun z => !(z.same y)) })) 0)

/-- ADDRESS_SPACE_RETIRE (R237): firmware clears the pins of an address space. Subject: ASID. -/
def execAddressSpaceRetire (s : State) : Host.Outcome State Fault Refusal :=
  .next ((mapKeys s.clusters).foldl (fun s c => s.modCluster c (fun cl =>
    { cl with sets := cl.sets.map (fun y => if y.asid = s.arg 0 then { y with pins := 0 } else y) })) s)

/-! ### Booths (R241, R243) -/

/-- Booth `i` of a cluster. -/
def Cluster.booth (cl : Cluster) (i : Nat) : Booth := cl.booths.getD i Booth.empty

/-- The cluster with booth `i` replaced. -/
def Cluster.setBooth (cl : Cluster) (i : Nat) (b : Booth) : Cluster := { cl with booths := cl.booths.set i b }

/-- A tile as dispatched (R243). -/
def newTile (b : Booth) : Tile := { booth := b, begun := false, layer := 0, acts := [], granted := false, rush := false }

/-- Booth `i` dispatches (R243, R257): it is free in the same clk. -/
def Cluster.dispatch (cl : Cluster) (i : Nat) : Cluster :=
  let b := cl.booth i
  let cl := cl.setBooth i Booth.empty
  if !b.used then cl
  else if b.kind = 0 then { cl with tiles := cl.tiles ++ [newTile b] }
  else { cl with spawnQ := cl.spawnQ ++ [b] }

/-- The booths in use, by number. -/
def Cluster.usedBooths (cl : Cluster) : List Nat := (List.range 32).filter (fun i => (cl.booth i).used)

/-- The booth opened earliest. -/
def Cluster.firstBooth (cl : Cluster) : Nat :=
  match cl.usedBooths with
  | [] => 0
  | i :: r => r.foldl (fun a j => if (cl.booth j).order < (cl.booth a).order then j else a) i

/-- A free booth, after the eviction of R241 where all are in use. -/
def Cluster.freeBooth (cl : Cluster) : Nat × Cluster :=
  match (List.range 32).find? (fun i => !(cl.booth i).used) with
  | some i => (i, cl)
  | none => (cl.firstBooth, cl.dispatch cl.firstBooth)

/-- Places a row or thread (R241): in the booth that holds its key, or in one that `b` opens. -/
def Cluster.place (cl : Cluster) (b : Booth) (r : Row) : Cluster :=
  let add := fun (cl : Cluster) (i : Nat) =>
    let y := cl.booth i
    let cl := cl.setBooth i { y with rows := y.rows ++ [r] }
    if y.size ≤ y.rows.length + 1 then cl.dispatch i else cl
  match cl.usedBooths.find? (fun i => (cl.booth i).kind = b.kind && (cl.booth i).key = b.key) with
  | some i => add cl i
  | none =>
    let (i, cl) := cl.freeBooth
    add { cl.setBooth i { b with used := true, order := cl.boothOrder } with boothOrder := cl.boothOrder + 1 } i

/-- Places rows or threads in order. -/
def State.placeAll (s : State) (c : Nat) (es : List (Booth × Row)) : State :=
  s.modCluster c (fun cl => es.foldl (fun cl e => cl.place e.1 e.2) cl)

/-- What a booth opened by a wave carries of it. -/
def boothOf (x : Wave) (g : Gang) (kind size : Nat) (key : List Nat) : Booth :=
  { Booth.empty with kind, size, key, task := g.task, ttbase := x.csr.ttbase, asid := x.csr.asid, world := x.csr.world }

/-- The cluster has a FIFO bank (R15). -/
def State.hasFifo (s : State) (c : Nat) : Bool := (s.cluster c).banks.contains 2

/-! ### NCALL (R239, R240) -/

/-- The lanes of a call: those of ACTIVE whose id is not 0 (R240). -/
def State.callLanes (s : State) (w : Nat) (b : Code) (act : Mask) : Mask :=
  Mask.ofFn (fun L => act.getLsbD L && (s.readV w b.toNat L).extractLsb' 0 20 ≠ 0)

/-- The free FIFO space takes `n` rows of `m` registers (R240, R299). -/
def State.rowsFit (s : State) (c n m : Nat) : Bool := decide (4 * m * n ≤ s.fifoFree c)

/-- NCALL (R239, R240). -/
def execNcall (d a b : Code) (nin : BitVec 6) (nout : BitVec 5) (itype otype : BitVec 2) (token : BitVec 3) (S : Stall) :
    State → Host.Outcome State Fault Refusal :=
  let ni := nin.toNat + 1
  let no := nout.toNat + 1
  issue S
    (fun f s =>
      let x := s.wave f.wave
      let act := s.live f.wave f.split
      let c := s.callLanes f.wave b act
      let acts := act ≠ 0 && s.hasFifo x.cluster
      { lanes := true, ok := vOk x d no && vOk x a ni && vOk x b 1,
        reads := vRegs a ni ++ vRegs b 1 ++ s.activeRegs f.wave f.split, writes := vRegs d no, ra := .suppress,
        token := some token.toNat, holds := acts,
        ahead := !acts || s.rowsFit x.cluster (Mask.count c) (max ni no), dstLanes := some c })
    (fun f s =>
      let x := s.wave f.wave
      let act := s.live f.wave f.split
      if act = 0 then .done s
      else if !(s.hasFifo x.cluster) then engTrap 32
      else
        let c := s.callLanes f.wave b act
        if !(s.rowsFit x.cluster (Mask.count c) (max ni no)) then .hold
        else if c = 0 then .done s
        else
          let id := fun (L : Nat) => (s.readV f.wave b.toNat L).toNat % 2 ^ 20
          let key := fun (L : Nat) =>
            [x.csr.asid, x.csr.world, x.csr.wst.toNat, id L, ni, no, itype.toNat, otype.toNat]
          let rows := (Mask.lanes c).map (fun L =>
            let r : Row := { wave := f.wave, token := token.toNat, lane := L, id := id L,
                             vals := (List.range ni).map (fun i => s.readV f.wave (a.toNat + i) L), bytes := 4 * max ni no }
            (boothOf x (s.gang x.gang) 0 128 (key L), r))
          let t : Token := { Token.idle with pending := true, lanes := c, dreg := d.toNat, dcount := no, left := c }
          .done ((s.modWave f.wave (fun x => x.modToken token.toNat (fun _ => t))).placeAll x.cluster rows))

/-- NWAIT (R249): its token holds it, or traps. -/
def execNwait (a : Code) (S : Stall) : State → Host.Outcome State Fault Refusal :=
  issue S (fun f s => { ok := kOk a, reads := [.k a.toNat], token := some a.toNat,
                        holds := (s.wave f.wave).ra.isNone, ra := .suppress }) (fun _ s => .done s)

/-! ### Rows and tokens (R247) -/

/-- A row of a wave's call has landed, or has failed with a subcode; the call resolves with its last row. -/
def Wave.rowDone (x : Wave) (r : Row) (fail : Option Nat) : Wave :=
  x.modToken r.token (fun t =>
    let t := { t with left := t.left &&& ~~~ (Mask.one r.lane) }
    let t := match fail with
      | Option.none => t
      | some sub =>
        let low : Bool := t.failmask = 0 || decide (r.lane < Mask.lowest t.failmask)
        { t with failmask := t.failmask ||| Mask.one r.lane, id := if low then r.id else t.id,
                 subcode := if low then sub else t.subcode, unc := if low then sub = 5 else t.unc }
    if t.left ≠ 0 then t
    else if t.failmask = 0 || x.ended || x.died then Token.idle
    else { t with pending := false })

/-- Rows fail. -/
def State.failRows (s : State) (rs : List Row) (sub : Nat) : State :=
  rs.foldl (fun s r => s.modWave r.wave (fun x => x.rowDone r (some sub))) s

/-- The results of a row land in its lane (R246), in a run-ahead checkpoint too; a wave that has ended takes none. -/
def Wave.scatterRow (x : Wave) (r : Row) (outs : List Word) : Wave :=
  if x.ended || x.died then x
  else
    let d := (mapGet Token.idle x.k r.token).dreg
    let put := fun (v : Map Word) => ((List.range outs.length).zip outs).foldl
      (fun v e => mapSet 0 v (64 * (d + e.1) + r.lane) e.2) v
    let drop := fun (bs : List (Reg × Mask)) => (List.range outs.length).foldl
      (fun bs i => dropBad (.v (d + i)) (Mask.one r.lane) bs) bs
    { x with
      v := put x.v, badRegs := drop x.badRegs,
      ra := x.ra.map (fun q => { q with cp := { q.cp with v := put q.cp.v, badRegs := drop q.cp.badRegs } }),
      flight := (List.range outs.length).foldl (fun fs i => killLanes false (.v (d + i)) (Mask.one r.lane) fs) x.flight }

/-- The call of an NCALL booth: nin, nout, ITYPE, OTYPE, from its key (R241). -/
def Booth.call (b : Booth) : Nat × Nat × Nat × Nat :=
  (b.key.getD 4 0, b.key.getD 5 0, b.key.getD 6 0, b.key.getD 7 0)

/-- The space that a booth's reads are made in. -/
def Booth.space (b : Booth) (c : Nat) : Space := engineSpace c b.asid b.ttbase b.world

/-- LAUNCHID of a booth's rows, for its records. -/
def State.rowLaunch (s : State) (b : Booth) : Word :=
  match b.rows with
  | [] => 0
  | r :: _ => (s.wave r.wave).csr.launchid

/-- What a booth's reads find: the descriptor, or why its rows fail (R242). -/
def State.boothDesc (s : State) (c : Nat) (b : Booth) : Except SetErr (Dword × List Byte) :=
  match s.readSet (b.space c) (BitVec.ofNat 64 (b.key.getD 2 0)) (b.key.getD 3 0) with
  | .error e => .error e
  | .ok (va, d) =>
    let (nin, nout, ity, oty) := b.call
    if descMatches d nin nout ity oty then .ok (va, d) else .error (3, none)

/-- A booth's reads wait (R150). -/
def State.boothWaits (s : State) (c : Nat) (b : Booth) : Bool :=
  s.setWaits (b.space c) (BitVec.ofNat 64 (b.key.getD 2 0)) (b.key.getD 3 0)

/-- A booth's reads fail on a page whose fault waits for the merge table (R296). -/
def State.boothFaultWaits (s : State) (c : Nat) (b : Booth) : Bool :=
  match s.boothDesc c b with
  | .error e => s.marketWaits c b.asid e.2
  | .ok _ => false

/-- BOOTH_DESCRIPTOR_READ (R242): the reads of a booth, or of a tile dispatched before they returned, come back; its timer
starts or its rows fail. Subject: cluster; booth, or 32 + tile. -/
def execBoothDescriptorRead (s : State) : Host.Outcome State Fault Refusal :=
  let c := s.arg 0
  let i := s.arg 1
  let cl := s.cluster c
  .next (if i < 32 then
    let b := cl.booth i
    if b.used && b.kind = 0 && b.desc.isEmpty && !(s.boothWaits c b) && !(s.boothFaultWaits c b) then
      match s.boothDesc c b with
      | .ok (va, d) => s.modCluster c (fun cl =>
          cl.setBooth i { b with descVa := va, desc := d, timer := some (s.clk + descTimer d) })
      | .error e =>
        ((s.modCluster c (fun cl => cl.setBooth i Booth.empty)).failRows b.rows e.1).marketFault (b.space c) c
          (s.rowLaunch b) e.2
    else s
  else match cl.tiles[i - 32]? with
    | none => s
    | some t =>
      if t.booth.desc.isEmpty && !(s.boothWaits c t.booth) && !(s.boothFaultWaits c t.booth) then
        match s.boothDesc c t.booth with
        | .ok (va, d) => s.modCluster c (fun cl =>
            { cl with tiles := cl.tiles.set (i - 32) { t with booth := { t.booth with descVa := va, desc := d } } })
        | .error e =>
          ((s.modCluster c (fun cl => { cl with tiles := cl.tiles.eraseIdx (i - 32) })).failRows t.booth.rows e.1).marketFault
            (t.booth.space c) c (s.rowLaunch t.booth) e.2
      else s)

/-- BOOTH_TIMER_EXPIRE (R243): a booth dispatches when its timer expires. Subject: cluster, booth. -/
def execBoothTimerExpire (s : State) : Host.Outcome State Fault Refusal :=
  let c := s.arg 0
  let b := (s.cluster c).booth (s.arg 1)
  .next (match b.used, b.timer with
    | true, some t => { s.modCluster c (fun cl => cl.dispatch (s.arg 1)) with clk := max s.clk t }
    | _, _ => s)

/-- WEIGHT_SET_FILL (R236, R237, R244): a set that is wanted fills, or fails the tiles that wait for it. Subject: cluster,
place among the sets wanted. -/
def execWeightSetFill (s : State) : Host.Outcome State Fault Refusal :=
  let c := s.arg 0
  let cl := s.cluster c
  .next (match cl.wanted[s.arg 1]? with
    | none => s
    | some y =>
      let sp := engineSpace c y.asid y.ttbase y.world
      if s.areaOwned sp y.base y.bytes then s
      else match s.engRead sp y.base y.bytes with
      | .error e =>
        if s.faultWaits c y.asid e then s else
        let (gone, kept) := cl.tiles.partition (fun t => !t.begun && !t.booth.desc.isEmpty && y.isOf t.booth)
        let rows := gone.flatMap (fun t => t.booth.rows)
        let id := match gone with
          | [] => 0
          | t :: _ => s.rowLaunch t.booth
        ((s.modCluster c (fun cl =>
          { cl with tiles := kept, sets := cl.sets.filter (fun z => z.resident || !(z.same y)) })).failRows rows
            (setErr e).1).marketFault sp c id (some e)
      | .ok data =>
        let cl := Cluster.makeRoom { cl with sets := cl.sets.filter (fun z => !(z.same y)) } y.bytes 4096
        if cl.setBytes + y.bytes ≤ 2 ^ 20 then
          s.modCluster c (fun _ => { cl with sets := cl.sets ++ [{ y with resident := true, data, lastUse := s.clk }] })
        else s)

/-! ### The array's slots (R17, R222) -/

/-- The priority of a tile (R243): the most urgent of its rows' waves. -/
def State.tilePrio (s : State) (t : Tile) : Nat :=
  t.booth.rows.foldl (fun n r => min n (s.wave r.wave).csr.prio) 3

/-- Every layer of the tile has run: it waits for no slot. -/
def Tile.done (t : Tile) : Bool := t.begun && t.layer = descLayers t.booth.desc

/-- A tile of the market has work for a slot: a layer to run, or it may begin (R244): its set is resident and fewer than two
tiles are in flight. -/
def Cluster.tileReady (cl : Cluster) (t : Tile) : Bool :=
  !t.granted && !t.booth.desc.isEmpty &&
  (if t.begun then decide (t.layer < descLayers t.booth.desc)
    else (cl.setOf t.booth).isSome && decide ((cl.tiles.filter (fun t => t.begun)).length < 2))

/-- The tiles, by place, that may take a slot: those in flight, and the first that may begin; where some run ahead of a
pre-emption, only those that do (R251). -/
def Cluster.tilesFor (cl : Cluster) : List Nat :=
  let at' := fun (i : Nat) => cl.tiles.getD i (newTile Booth.empty)
  let is := (List.range cl.tiles.length).filter (fun i => cl.tileReady (at' i))
  let rush := is.filter (fun i => (at' i).rush)
  let pool := if rush.isEmpty then is else rush
  pool.filter (fun i => (at' i).begun) ++ (pool.filter (fun i => !(at' i).begun)).take 1

/-- The gangs of a cluster whose oldest command is a stream that may take a slot. -/
def State.streamsFor (s : State) (c : Nat) : List (Nat × MxCmd) :=
  s.mx.filterMap (fun e => match e.2.cmds with
    | [] => none
    | m :: _ =>
      if (s.gang e.1).cluster = c ∧ m.isStream ∧ !m.granted ∧ !(s.mxHeld e.1 m) then some (e.1, m) else none)

/-- The streams that wait on a cluster, each with its gang (R17): of the program commands, those that take a slot (R222). -/
def State.waitingStreams (s : State) (c : Nat) : List (Nat × MxCmd) :=
  s.mx.flatMap (fun e => if (s.gang e.1).cluster = c then
    (e.2.cmds.filter (fun m => m.isStream && !m.granted)).map (fun m => (e.1, m)) else [])

/-- The streams that may take a slot: of gangs that have one of priority `pp` waiting, where there is such a gang. -/
def State.urgentStreams (s : State) (c pp : Nat) : List (Nat × MxCmd) :=
  let all := s.streamsFor c
  let best := all.filter (fun m => (s.waitingStreams c).any (fun e => e.1 = m.1 && e.2.prio = pp))
  if best.isEmpty then all else best

/-- The array serves a stream or a layer pass. -/
def State.arrayBusy (s : State) (c : Nat) : Bool :=
  (s.cluster c).tiles.any (fun t => t.granted) ||
    s.mx.any (fun e => (s.gang e.1).cluster = c && e.2.cmds.any (fun m => m.granted))

/-- The side that R17 prefers may take the slot: of the 64 slots that end with this one, the other side has had, or can
still have, at least 16. -/
def shareLeft (market : Bool) (slots : List Bool) : Bool :=
  let other := (slots.filter (fun b => b ≠ market)).length
  decide (16 ≤ other + (63 - slots.length))

/-- A slot is recorded; the last 63 are kept. -/
def Cluster.tookSlot (cl : Cluster) (market : Bool) : Cluster := { cl with slots := (market :: cl.slots).take 63 }

/-- The array is granted to a gang's stream: coming from another gang, the active plane is reloaded and the shadow plane is
before the next MSWAP (R222). -/
def State.grantStream (s : State) (c g : Nat) (m : MxCmd) : State :=
  let from' := (s.cluster c).arrayGang
  let s := if from' ≠ 0 ∧ from' ≠ g + 1 then
      s.modMx g (fun x => { x with active := x.active.fill s g, shadow := { x.shadow with stale := true } })
    else s
  (s.modMx g (fun x => { x with cmds := x.cmds.map (fun d => if d.order = m.order then { d with granted := true } else d) })).modCluster
    c (fun cl => { cl.tookSlot false with arrayGang := g + 1 })

/-- The array is granted to a tile. -/
def Cluster.grantTile (cl : Cluster) (i : Nat) : Cluster :=
  let ts := ((List.range cl.tiles.length).zip cl.tiles).map (fun e => if e.1 = i then { e.2 with granted := true } else e.2)
  { cl.tookSlot true with tiles := ts }

/-- Element `n` of a list, or its first. -/
def choose {α : Type} (l : List α) (n : Nat) : Option α :=
  match l[n]? with
  | some a => some a
  | none => l.head?

/-- MATRIX_ARBITRATION (R17, R222): at a slot boundary the array goes to a tile or to a stream. Subject: cluster; the place
of the winner among those that its side offers. -/
def execMatrixArbitration (s : State) : Host.Outcome State Fault Refusal :=
  let c := s.arg 0
  let cl := s.cluster c
  .next (if s.arrayBusy c then s
    else
      let tiles := cl.tilesFor
      let streams := s.streamsFor c
      let pm := (cl.tiles.filter (fun t => !t.granted && !t.done)).foldl (fun n t => min n (s.tilePrio t)) 4
      let pp := (s.waitingStreams c).foldl (fun n m => min n m.2.prio) 4
      let rush : Bool := tiles.any (fun i => (cl.tiles.getD i (newTile Booth.empty)).rush)
      let favour : Bool := rush || decide (pm < pp) || (pm = pp && decide (pm < 2))
      let market : Bool :=
        if tiles.isEmpty then false
        else if streams.isEmpty then true
        else if shareLeft favour cl.slots then favour else !favour
      if market then
        (match choose tiles (s.arg 1) with
          | some i => s.modCluster c (fun cl => cl.grantTile i)
          | none => s)
      else
        (match choose (s.urgentStreams c pp) (s.arg 1) with
          | some (g, m) => s.grantStream c g m
          | none => s))

/-! ### The arithmetic of a tile (R244, R245) -/

/-- The scale of an MXFP4 block, and the power of two that it divides by (R245). -/
def mxBlockScale (xs : List Nat) : Nat × Int :=
  match decodeNum fmtF32 (xs.foldl (fun m x => max m (x % 2 ^ 31)) 0) with
  | .fin _ m q =>
    if m = 0 then (127, 0)
    else
      let l : Int := (Nat.log2 m : Int) + q
      let e := if 2 * m ≤ 3 * 2 ^ Nat.log2 m then l - 2 else l - 1
      let e := max (-127) (min 127 e)
      ((e + 127).toNat, e)
  | _ => (255, 0)

/-- An F32 image times 2^-e, rounded to E2M1 with RNE; magnitudes above 6 become ±6 (R245). -/
def toE2m1 (e : Int) (x : Nat) : Nat :=
  match decodeNum fmtF32 x with
  | .fin neg m q =>
    let d := q - e + 2
    let above := fun (t : Nat) (tie : Bool) =>
      let (a, b) : Nat × Nat := if 0 ≤ d then (m * 2 ^ d.toNat, t) else (m, t * 2 ^ (-d).toNat)
      if tie then decide (b ≤ a) else decide (b < a)
    let code := ([(1, false), (3, true), (5, false), (7, true), (10, false), (14, true), (20, false)].filter
      (fun (p : Nat × Bool) => above p.1 p.2)).length
    code + (if neg then 8 else 0)
  | _ => 0

/-- A row of F32 images as a layer's inputs in format `af`, laid out as R208 (R245). -/
def quantRow (af : Nat) (xs : List Nat) : List Byte :=
  if af = 5 then
    let bs := pieces 32 (xs.length + 1) xs
    let el := bs.flatMap (fun b =>
      let (sc, e) := mxBlockScale b
      b.map (fun x => if sc = 255 then 0 else toE2m1 e x))
    let bytes := (List.range (xs.length / 2)).map (fun i =>
      (BitVec.ofNat 8 (el.getD (2 * i) 0 + 16 * el.getD (2 * i + 1) 0) : Byte))
    padTo 64 bytes ++ bs.map (fun b => BitVec.ofNat 8 (mxBlockScale b).1)
  else xs.map (fun x => BitVec.ofNat 8 (cvtFloat fmtF32 (if af = 2 then fmtE4M3 else fmtE5M2) envSat x).1)

/-- The F32 images of a row's input elements (R239, R59). -/
def callInputs (ity : Nat) (vals : List Word) : List Nat :=
  if ity = 0 then vals.map BitVec.toNat
  else vals.flatMap (fun v =>
    let f := if ity = 1 then fmtF16 else fmtBF16
    [(cvtFloat f fmtF32 envRNE (v.toNat % 65536)).1, (cvtFloat f fmtF32 envRNE (v.toNat / 65536)).1])

/-- A row's output dwords from its F32 images (R245, R239), in bytes. -/
def callOutputs (oty : Nat) (xs : List Nat) : List Byte :=
  if oty = 0 then xs.flatMap (leBytes 4)
  else xs.flatMap (fun x => leBytes 2 (cvtFloat fmtF32 (if oty = 1 then fmtF16 else fmtBF16) envSat x).1)

/-- The outputs of one layer for one row, as F32 images (R244, R245). -/
def Layer.run (y : Layer) (data act : List Byte) : List Nat :=
  let epi : Epi := { act := y.act, leakk := y.leakk, lo := y.lo, hi := y.hi }
  (List.range y.n).map (fun n =>
    let w := (data.drop (y.woff + 16 * y.pitch * n)).take (mxRowBytes y.wfmt y.k)
    let x := mxDot 0 0 y.afmt y.wfmt y.k act w
    let x := if y.bias then (fAdd fmtF32 envRNE x (mxF32 0 (fieldNat data (y.boff + 2 * n) 2))).1 else x
    epi.apply x)

/-- TILE_BEGIN (R244): a tile that has its first slot begins; its inputs are converted. Subject: cluster, tile. -/
def execTileBegin (s : State) : Host.Outcome State Fault Refusal :=
  let c := s.arg 0
  .next (match (s.cluster c).tiles[s.arg 1]? with
    | none => s
    | some t =>
      if t.granted && !t.begun then
        let (_, _, ity, _) := t.booth.call
        let acts := t.booth.rows.map (fun r => quantRow (descLayer t.booth.desc 0).afmt (callInputs ity r.vals))
        s.modCluster c (fun cl =>
          { cl with tiles := cl.tiles.set (s.arg 1) { t with begun := true, layer := 0, acts },
                    sets := cl.sets.map (fun y => if y.isOf t.booth then { y with lastUse := s.clk } else y) })
      else s)

/-- TILE_LAYER_END (R244, R245, R259): the pass of a layer and its drain end; the rows hold the next layer's inputs, or the
outputs. Subject: cluster, tile. -/
def execTileLayerEnd (s : State) : Host.Outcome State Fault Refusal :=
  let c := s.arg 0
  .next (match (s.cluster c).tiles[s.arg 1]? with
    | none => s
    | some t =>
      match t.begun && t.granted, (s.cluster c).setOf t.booth with
      | true, some y =>
        let l := descLayer t.booth.desc t.layer
        let last : Bool := t.layer + 1 = descLayers t.booth.desc
        let (_, _, _, oty) := t.booth.call
        let acts := t.acts.map (fun a =>
          let xs := l.run y.data a
          if last then callOutputs oty xs else quantRow (descLayer t.booth.desc (t.layer + 1)).afmt xs)
        s.modCluster c (fun cl =>
          { cl with tiles := cl.tiles.set (s.arg 1) { t with layer := t.layer + 1, acts, granted := false } })
      | _, _ => s)

/-- The words of a row's outputs. -/
def outWords (bs : List Byte) : List Word :=
  (List.range (bs.length / 4)).map (fun i => BitVec.ofNat 32 (fieldNat bs (4 * i) 4))

/-- TILE_SCATTER (R246, R247): a tile whose layers are done writes its rows and resolves them. Subject: cluster, tile. -/
def execTileScatter (s : State) : Host.Outcome State Fault Refusal :=
  let c := s.arg 0
  .next (match (s.cluster c).tiles[s.arg 1]? with
    | none => s
    | some t =>
      if t.done then
        (t.booth.rows.zip t.acts).foldl
          (fun s e => s.modWave e.1.wave (fun x => (x.scatterRow e.1 (outWords e.2)).rowDone e.1 none))
          (s.modCluster c (fun cl => { cl with tiles := cl.tiles.eraseIdx (s.arg 1) }))
      else s)

/-! ### SPAWN and SPAWNC (R254 to R256) -/

/-- VREGS × 8 of a task's record (R264). -/
def Task.regs (t : Task) : Nat := 8 * fieldNat t.bytes 0x1D 1

/-- A class table as read (R255): its classes, each with LIMIT, LANES, TIMER and ENTRY, where it is as R255 says. -/
def classTable (head : List Byte) (body : List Byte) : Option (List (Nat × Nat × Nat × Dword)) :=
  let n := fieldNat head 0 4
  let cs := (List.range n).map (fun i =>
    let o := 16 * i
    (fieldNat body o 4, fieldNat body (o + 4) 1, fieldNat body (o + 6) 2, (BitVec.ofNat 64 (fieldNat body (o + 8) 8) : Dword)))
  let ok := ((head.drop 4).take 12).all (fun b => b = 0) &&
    (List.range n).all (fun i => fieldNat body (16 * i + 5) 1 = 0) &&
    cs.all (fun e => [1, 2, 4, 8, 16, 32, 64].contains e.2.1 && timerOk e.2.2.1 && canonical e.2.2.2 &&
      e.2.2.2.toNat % 4 = 0) &&
    (cs.zip (cs.drop 1)).all (fun p => decide (p.1.1 < p.2.1)) &&
    (match cs.getLast? with
      | some e => e.1 = 0xFFFFFFFF
      | none => false)
  if ok then some cs else none

/-- A thread's payload (R256). -/
def State.payload (s : State) (w : Nat) (d : Code) (pay L : Nat) : List Word :=
  (List.range pay).map (fun i => s.readV w (d.toNat + i) L)

/-- Placing the threads of a wave: the last checks of R256, the hold, and the threads. -/
def spawnPlace (f : Focus) (s : State) (d : Code) (pay : Nat) (act : Mask) (b : Nat → Booth) : Res :=
  let x := s.wave f.wave
  if (s.task (s.gang x.gang).task).regs < pay then engTrap 35
  else if !(s.hasFifo x.cluster) then engTrap 32
  else if act = 0 then .done s
  else if !(s.rowsFit x.cluster (Mask.count act) (max pay 1)) then .hold
  else .done ((s.placeAll x.cluster ((Mask.lanes act).map (fun L =>
      let r : Row := { wave := f.wave, token := 0, lane := L, id := x.seq, vals := s.payload f.wave d pay L,
                       bytes := 4 * max pay 1 }
      (b L, r)))))

/-- What SPAWN and SPAWNC state: payload and length or address registers; a run-ahead suppresses them (R253). -/
def spawnPre (d a : Code) (pay an : Nat) (ok : Bool) (rs : List Reg) : Focus → State → Pre :=
  fun f s =>
    let x := s.wave f.wave
    { lanes := true, ok := vOk x a an && (pay = 0 || vOk x d pay) && ok,
      reads := vRegs a an ++ vRegs d pay ++ rs ++ s.activeRegs f.wave f.split, ra := .suppress }

/-- SPAWN (R254, R256). -/
def execSpawn (d a : Code) (pay : BitVec 4) (S : Stall) : State → Host.Outcome State Fault Refusal :=
  issue S (spawnPre d a pay.toNat 2 true [])
    (fun f s =>
      let x := s.wave f.wave
      let act := s.live f.wave f.split
      let entry := fun (L : Nat) => Dword.ofWords (s.readV f.wave a.toNat L) (s.readV f.wave (a.toNat + 1) L)
      match (Mask.lanes act).find? (fun L => !(canonical (entry L)) || (entry L).toNat % 4 ≠ 0) with
      | some L => .trap (if canonical (entry L) then causeMisalign else causeProt) (entry L)
      | none =>
        spawnPlace f s d pay.toNat act (fun L =>
          { boothOf x (s.gang x.gang) 1 64 [x.csr.asid, (entry L).toNat, pay.toNat] with
            entry := entry L, lanes := 1, timer := some (s.clk + 512) }))

/-- Reads a class table at issue as a global load (R255). -/
def withClasses (f : Focus) (s : State) (va : Dword) (k : State → List (Nat × Nat × Nat × Dword) → Res) : Res :=
  let x := s.wave f.wave
  let get := fun (s : State) (va : Dword) (k : State → List Byte → Res) =>
    match checkVa s (s.space f.wave) .read 16 va with
    | .trap c => .trap c va
    | .miss bad => .xlate false bad (accessBits .read) 0xFF va []
    | .ok pa =>
      if !(s.mayLoad f.wave f pa 16) then .hold
      else if s.badAt pa 16 then .trap causeUncorr (uncArg va.toNat 0)
      else k (s.shade f.wave x.seq pa 16) (s.readBy x.cluster pa 16)
  let rec body (s : State) (i : Nat) (va : Dword) (bs : List Byte) (k : State → List Byte → Res) : Res :=
    match i with
    | 0 => k s bs
    | n + 1 => get s va (fun s b => body s n (va + 16) (bs ++ b) k)
  get s va (fun s head =>
    let n := fieldNat head 0 4
    if n = 0 ∨ 16 < n then engTrap 33
    else body s n (va + 16) [] (fun s bs =>
      match classTable head bs with
      | none => engTrap 33
      | some cs => k s cs))

/-- The lowest class that takes a length (R256). -/
def classFor (cs : List (Nat × Nat × Nat × Dword)) (n : Nat) : Nat :=
  ((List.range cs.length).find? (fun i => decide (n ≤ (cs.getD i (0, 1, 0, 0)).1))).getD 0

/-- SPAWNC (R254 to R256). -/
def execSpawnc (d a b : Code) (pay : BitVec 4) (S : Stall) : State → Host.Outcome State Fault Refusal :=
  issue S (spawnPre d a pay.toNat 1 (hOk b) (hRegs b))
    (fun f s =>
      let x := s.wave f.wave
      let act := s.live f.wave f.split
      let h := s.readH f.wave b.toNat
      let va := handleAddr h
      if handleType h ≠ 8 then engTrap 34
      else withClasses f s va (fun s cs =>
        spawnPlace f s d pay.toNat act (fun L =>
          let c := classFor cs (s.readV f.wave a.toNat L).toNat
          let (_, lanes, timer, entry) := cs.getD c (0, 1, 0, 0)
          { boothOf x (s.gang x.gang) 2 (64 / lanes) [x.csr.asid, va.toNat, c, pay.toNat] with
            entry, lanes, cls := c, timer := some (s.clk + boothTimer timer) })))

end Sys2Proof.Machine
end

