-- ==== Sys2Proof/Machine/Launch.lean ====
section
/-! DEFINITION. Launch and task scheduling (R261 to R277): launch queues and contexts, records, the dependence table, the
curves, placement, the start and the end of waves and gangs, completion, and the launch of spawned waves (R257). -/

namespace Sys2Proof.Machine

/-! ### LAUNCH (R266) -/

/-- LAUNCH: its operation is carried out at the header's home by QUEUE_HOME_OP. -/
def execLaunch (d a b : Code) (S : Stall) (lit : Option Word) : State → Host.Outcome State Fault Refusal :=
  issue S (fun f _ => { ok := dstOk d && hOk a && pairSrcOk false b, reads := hRegs a ++ pairRegs f.split b,
                        writes := srcRegs f.split d, ra := .suppress })
    (fun f s =>
      let h := s.readH f.wave a.toNat
      let rec' := s.readPair f.wave f.split lit b
      withQueue f s h false (fun pa q =>
        if !q.watched then .trap causeQueue 5
        else if !(canonical rec') then .trap causeProt rec'
        else if rec'.toNat % 128 ≠ 0 then .trap causeMisalign rec'
        else sendHeld f s (hopOf f S (.launch d a b S lit) h 0 pa [rec'.toNat] true)))

/-! ### Launch contexts and queues (R261, R262) -/

/-- Launch context `i`. -/
def State.ctx (s : State) (i : Nat) : Option LaunchCtx := mapGet none s.ctxs i

/-- The space that the distributor's accesses are made in (log 20). -/
def LaunchCtx.space (c : LaunchCtx) : Space :=
  { asid := c.asid, ttbase := c.ttbase, secure := c.world = 1, tlbs := [320] }

/-- LAUNCH_CONTEXT_WRITE (R262): firmware enters a launch context, or removes it. Subject: its number; then HEADER, ASID,
TTBASE, WORLD, PRIV, TRAPVEC, SAVEQ and SAVESIZE, or nothing. -/
def execLaunchContextWrite (s : State) : Host.Outcome State Fault Refusal :=
  let i := s.arg 0
  let a := fun n => s.arg (n + 1)
  let c : LaunchCtx :=
    { header := BitVec.ofNat 64 (a 0), asid := a 1 % 65536, ttbase := BitVec.ofNat 64 (a 2) &&& 0x3FFFFF0000, world := a 3 % 2,
      priv := a 4 % 2 = 1, trapvec := BitVec.ofNat 64 (a 5), saveq := BitVec.ofNat 64 (a 6), savesize := BitVec.ofNat 32 (a 7) }
  .next (if 256 ≤ i ∨ c.trapvec.toNat % 4 ≠ 0 then s
    else { s with ctxs := mapSet none s.ctxs i (if s.nums.length ≤ 1 then none else some c) })

/-- A header of a context's space, where it can be read: its place and what it holds. -/
def State.ctxHead (s : State) (c : LaunchCtx) (va : Dword) : Option (Nat × QHead) :=
  if va.toNat % 128 ≠ 0 then none
  else match checkVa s c.space .readWrite 1 va with
    | .ok pa => if s.badAt pa 128 ∨ s.lineOwned (pa / 128) then none else some (pa, s.queueHead pa)
    | _ => none

/-- The launch contexts whose queue has an entry to pop: number, context, header's place and header. -/
def State.poppable (s : State) : List (Nat × LaunchCtx × Nat × QHead) :=
  s.ctxs.filterMap (fun e => match e.2 with
    | none => none
    | some c =>
      match s.ctxHead c c.header with
      | some (pa, q) => if q.sub = 0 ∧ q.watched ∧ q.stock ≠ 0 then some (e.1, c, pa, q) else none
      | none => none)

/-- The distributor's fault on a page: one record of KIND 2 with REQ 6, or of KIND 3 (R276, R277). -/
def State.distFault (s : State) (c : LaunchCtx) (id : Word) (bad : Bool) (acc : Access) (va : Dword) : State :=
  s.mergeFault 0 c.asid (pageOf va) (engineRec (if bad then 3 else 2) 6 acc c.asid 0 c.world id va)

/-- The first free entry of the dependence table. -/
def State.freeTask (s : State) : Option Nat := (List.range 256).find? (fun t => (s.task t).state = .empty)

/-! ### The launch record (R263 to R265) -/

/-- A field of a task's record. -/
def Task.field (t : Task) (o n : Nat) : Nat := fieldNat t.bytes o n

/-- ENTRY, the grid, WAVES and VREGS of a task. -/
def Task.entryVa (t : Task) : Dword := BitVec.ofNat 64 (t.field 0 8)

def Task.gx (t : Task) : Nat := t.field 0x10 4

def Task.gy (t : Task) : Nat := t.field 0x14 4

def Task.gz (t : Task) : Nat := t.field 0x18 4

def Task.waves (t : Task) : Nat := t.field 0x1C 1

def Task.vregs (t : Task) : Nat := t.field 0x1D 1

/-- DONE: as it stood at the task's entry, where it could be read then. -/
def Task.done (t : Task) : Dword := t.done0.getD (BitVec.ofNat 64 (t.field 0x28 8))

/-- The priority of a task (R265). -/
def Task.prio (t : Task) : Nat := max (t.field 0x21 1) t.qprio

/-- The gangs of a task. -/
def Task.gangs (t : Task) : Nat := t.gx * t.gy * t.gz

/-- The ranges of a record: whether written, BASE, COUNT, the zero bytes. -/
def Task.ranges (t : Task) : List (Bool × Dword × Nat × Nat) :=
  [(false, 0x30), (true, 0x40), (false, 0x50), (true, 0x60)].map (fun (r : Bool × Nat) =>
    (r.1, BitVec.ofNat 64 (t.field r.2 8), t.field (r.2 + 8) 4, t.field (r.2 + 12) 4))

/-- A record's fields are as R263 and R264 ask, but for SAVEQ. -/
def Task.recordOk (t : Task) (c : LaunchCtx) : Bool :=
  let f := t.field
  canonical t.entryVa && t.entryVa.toNat % 4 = 0 && decide (1 ≤ t.gx) && decide (1 ≤ t.gy) && decide (1 ≤ t.gz) &&
  decide (t.gangs ≤ 2 ^ 32) && decide (1 ≤ t.waves) && decide (t.waves ≤ 32) && decide (1 ≤ t.vregs) &&
  decide (t.vregs ≤ 16) && decide (f 0x1E 2 ≤ 3968) && decide (f 0x20 1 ≤ 4) && decide (f 0x21 1 ≤ 3) &&
  decide (f 0x22 1 < 16) && (f 0x20 1 = 4 || f 0x22 1 = 0) && decide (f 0x24 2 ≤ 768) && f 0x26 2 = 0 &&
  f 0x70 16 = 0 && [0, 1, 3].contains (handleType t.done) &&
  t.ranges.all (fun r => r.2.2.2 = 0 &&
    (r.2.2.1 = 0 || (canonical r.2.1 && decide (r.2.1.toNat / 65536 + r.2.2.1 ≤ 2 ^ 48)))) &&
  decide (t.vregs * 8 * ((t.waves + 3) / 4) ≤ 1024) &&
  decide (0x8E00 + 512 * f 0x24 2 + 1024 * f 0x1E 2 ≤ c.savesize.toNat)

/-- A launch fault record, KIND 4 (R297). -/
def launchRec (c : LaunchCtx) (id : Word) (va : Dword) : FaultRec :=
  { kind := 4, req := 6, access := 0, asid := c.asid, cluster := 0, world := c.world, launchid := id, cause := 0, va,
    scope := 0xFF, pages := [] }

/-- A task leaves the table. -/
def State.leaveTable (s : State) (t : Nat) : State := s.modTask t (fun _ => Task.empty)

/-- A task leaves the table, with a launch fault record. -/
def State.dropTask (s : State) (t : Nat) (c : LaunchCtx) (va : Dword) : State :=
  (s.leaveTable t).sendFault (launchRec c (s.task t).launchid va)

/-- The distributor waits for a page for a task. -/
def State.taskWaits (s : State) (t : Nat) (c : LaunchCtx) (bad : Bool) (acc : Access) (va : Dword) : State :=
  let s := s.distFault c (s.task t).launchid bad acc va
  if s.hasMerge 0 c.asid (pageOf va) then s.modTask t (fun k => { k with wait := some (c.asid, pageOf va) }) else s

/-! ### Completion (R276) -/

/-- Posts an entry on a DONE queue. -/
def State.postQueue (s : State) (t : Nat) (c : LaunchCtx) (status : Nat) : State :=
  let k := s.task t
  let va := handleAddr k.done
  let s := s.modTask t (fun k => { k with state := .posting status, wait := none, retryAt := s.clk })
  if va.toNat % 128 ≠ 0 then s.dropTask t c va
  else match checkVa s c.space .readWrite 1 va with
    | .trap _ => s.dropTask t c va
    | .miss bad => s.taskWaits t c bad .readWrite va
    | .ok pa =>
      let q := s.queueHead pa
      if s.badAt pa 128 ∨ q.sub ≠ 0 then s.dropTask t c va
      else if s.lineOwned (pa / 128) then s
      else if q.room = 0 then s.modTask t (fun k => { k with retryAt := s.clk + 1024 })
      else match touchSlot s c.space .write (2 ^ q.elog) (q.slot q.tail) with
        | .miss bad => s.taskWaits t c bad .write (q.slot q.tail)
        | .no => s.dropTask t c va
        | .at slot =>
          if s.badAt slot (2 ^ q.elog) ∧ q.elog < 6 then s.dropTask t c va
          else
            let e := padTo (2 ^ q.elog) (leBytes 8 k.record.toNat ++ leBytes 4 k.launchid.toNat ++ leBytes 4 status)
            (s.queuePut none pa q [slot] [e]).leaveTable t

/-- Posts a task's completion; it leaves the table unless it has to wait (R276). -/
def State.post (s : State) (t status : Nat) : State :=
  let k := s.task t
  match s.ctx k.ctx with
  | none => s.leaveTable t
  | some c =>
    match handleType k.done with
    | 0 => s.leaveTable t
    | 1 =>
      if k.counted ∧ s.clauseLive k.done c.asid c.world then (s.receive k.done false).leaveTable t
      else s.dropTask t c k.record
    | 3 => s.postQueue t c status
    | _ => s.dropTask t c k.record

/-- DONE of a task that enters the table, where its record can be read (R276). -/
def State.readDone (s : State) (t : Nat) (c : LaunchCtx) : State :=
  let va := (s.task t).record
  if !(canonical va) || va.toNat % 128 ≠ 0 then s
  else match s.engRead c.space va 128 with
    | .ok bs => s.modTask t (fun k => { k with done0 := some (BitVec.ofNat 64 (fieldNat bs 0x28 8)) })
    | .error _ => s

/-- The clause that a task's DONE names expects its reception (R276): from its entry, or from the reading of a record that could
not be read then. -/
def State.expectDone (s : State) (t : Nat) (c : LaunchCtx) : State :=
  let k := s.task t
  if handleType k.done = 1 ∧ k.counted = false ∧ s.clauseLive k.done c.asid c.world then
    let e := handleEntry k.done
    (s.setClause e { s.clause e with exp0 := (s.clause e).exp0 + 1 }).modTask t (fun k => { k with counted := true })
  else s

/-- LAUNCH_QUEUE_POP (R261): the queue of the most urgent PRIO, in turn among equals, gives its head to a free entry of the
dependence table. -/
def execLaunchQueuePop (s : State) : Host.Outcome State Fault Refusal :=
  let cs := s.poppable
  let top := cs.foldl (fun n e => min n e.2.2.2.prio) 4
  let cs := cs.filter (fun e => e.2.2.2.prio = top)
  .next (match s.freeTask, choose (cs.filter (fun e => decide (mapGet 0 s.lastPop top < e.1)) ++ cs) 0 with
    | some t, some (i, c, pa, q) =>
      match touchSlot s c.space .read (2 ^ q.elog) (q.slot q.head) with
      | .miss bad => s.distFault c 0 bad .read (q.slot q.head)
      | .no => s
      | .at slot =>
        let rec' : Dword := BitVec.ofNat 64 (s.readNat slot 8)
        let s := s.homeWrite none (pa + 0x10) (leBytes 8 (q.head + 1))
        let task : Task :=
          { Task.empty with state := .popped, ctx := i, record := rec', qprio := q.prio, order := s.orders,
                            launchid := BitVec.ofNat 32 (s.admitted % 2 ^ 24 * 256 + t) }
        (({ s.modTask t (fun _ => task) with
            admitted := s.admitted + 1, orders := s.orders + 1, lastPop := mapSet 0 s.lastPop top i }).readDone t c).expectDone t c
    | _, _ => s)

/-- LAUNCH_RECORD_READ (R261, R264, R277): the record is read and judged. Subject: the task. -/
def execLaunchRecordRead (s : State) : Host.Outcome State Fault Refusal :=
  let t := s.arg 0
  let k := s.task t
  .next (match k.state, k.wait, s.ctx k.ctx with
    | .popped, none, some c =>
      if !(canonical k.record) || k.record.toNat % 128 ≠ 0 then s.dropTask t c k.record
      else match s.engRead c.space k.record 128 with
        | .error e =>
          if e.cause = causeXlate then s.taskWaits t c e.bad .read k.record else s.dropTask t c k.record
        | .ok bytes =>
          let k := { k with bytes }
          let sq : Check := if c.saveq = 0 ∨ c.saveq.toNat % 128 ≠ 0 then .trap causeQueue
            else checkVa s c.space .readWrite 1 c.saveq
          let ok := k.recordOk c
          match ok, sq with
          | true, .miss bad => s.taskWaits t c bad .readWrite c.saveq
          | _, _ =>
            let saveOk : Bool := match sq with
              | .ok pa => (s.queueHead pa).sub = 0
              | _ => false
            let s := (s.modTask t (fun _ => { k with state := if ok && saveOk then .ready else .posting 1 })).expectDone t c
            if ok && saveOk then s else s.post t 1
    | _, _, _ => s)

/-! ### The dependence table (R267, R268) -/

/-- Two ranges share a tile; a COUNT of 0 names none (R263). -/
def tilesMeet (a b : Bool × Dword × Nat × Nat) : Bool :=
  let lo := fun (r : Bool × Dword × Nat × Nat) => r.2.1.toNat / 65536
  decide (0 < a.2.2.1) && decide (0 < b.2.2.1) && decide (lo a < lo b + b.2.2.1) && decide (lo b < lo a + a.2.2.1)

/-- Two tasks conflict (R267). -/
def Task.conflicts (a b : Task) : Bool :=
  a.ranges.any (fun r => b.ranges.any (fun q => (r.1 || q.1) && tilesMeet r q))

/-- A task of the same queue that entered before and keeps task `k` from starting (R268). -/
def Task.blocks (e k : Task) : Bool :=
  e.state ≠ .empty && e.ctx = k.ctx && decide (e.order < k.order) && (e.state = .popped || e.conflicts k)

/-- TASK_START (R268). Subject: the task. -/
def execTaskStart (s : State) : Host.Outcome State Fault Refusal :=
  let t := s.arg 0
  let k := s.task t
  .next (if k.state = .ready ∧ !(s.tasks.any (fun e => e.2.blocks k)) then
      s.modTask t (fun k => { k with state := .started })
    else s)

/-! ### Curves (R270) -/

/-- The least power of two that is not below `n`, from `p` on. -/
def pow2From (n : Nat) : Nat → Nat → Nat
  | 0, p => p
  | fuel + 1, p => if n ≤ p then p else pow2From n fuel (2 * p)

/-- The even bits of a number, gathered. -/
def evenBits : Nat → Nat → Nat
  | 0, _ => 0
  | n + 1, d => d % 2 + 2 * evenBits n (d / 4)

/-- h(d) of R270: the steps from `s` on, with x, y and t. -/
def hilbertFrom : Nat → Nat → Nat → Nat → Nat → Nat × Nat
  | 0, _, x, y, _ => (x, y)
  | n + 1, s, x, y, t =>
    let rx := t / 2 % 2
    let ry := Nat.xor t rx % 2
    let (x, y) := if rx = 1 ∧ ry = 0 then (s - 1 - x, s - 1 - y) else (x, y)
    let (x, y) := if ry = 0 then (y, x) else (x, y)
    hilbertFrom n (2 * s) (x + s * rx) (y + s * ry) (t / 4)

/-- The point of a curve's code on a square of 2^n: Morton or Hilbert. -/
def curvePoint (curve n d : Nat) : Nat × Nat :=
  if curve = 2 then (evenBits n d, evenBits n (d / 2)) else hilbertFrom n 1 0 0 d

/-- The point that is number `r` of those inside the grid, from code `d` on. -/
def insidePoint (curve n gx gy : Nat) : Nat → Nat → Nat → Nat × Nat
  | 0, _, _ => (0, 0)
  | fuel + 1, d, r =>
    let p := curvePoint curve n d
    if p.1 < gx ∧ p.2 < gy then (if r = 0 then p else insidePoint curve n gx gy fuel (d + 1) (r - 1))
    else insidePoint curve n gx gy fuel (d + 1) r

/-- Gang number `r` of a plane of the grid, in curve order. -/
def curveAt (curve swz gx gy r : Nat) : Nat × Nat :=
  match curve with
  | 0 => (r % gx, r / gx)
  | 1 => (r / gy, r % gy)
  | 4 =>
    let w := 2 ^ swz
    let b := r / (w * gy)
    let wb := min w (gx - b * w)
    let r := r % (w * gy)
    (b * w + r % wb, r / wb)
  | _ =>
    let side := pow2From (max gx gy) 33 1
    insidePoint curve (Nat.log2 side) gx gy (side * side) 0 r

/-- The coordinates of gang `n` of a task, in the order of R270. -/
def Task.coords (t : Task) (n : Nat) : Nat × Nat × Nat :=
  let p := t.gx * t.gy
  let (x, y) := curveAt (t.field 0x20 1) (t.field 0x22 1 % 16) t.gx t.gy (n % p)
  (x, y, n / p)

/-! ### What a cluster has free (R19, R272) -/

/-- The slots of a core that placed waves hold: those of every wave of a gang, but for parked waves. -/
def State.heldSlots (s : State) (c core : Nat) : List Nat :=
  s.gangs.flatMap (fun e =>
    if e.2.live && e.2.cluster = c then
      ((List.range e.2.seats.length).zip e.2.seats).filterMap (fun q =>
        if q.2.1 = core && (s.wave (mapGet 0 e.2.ids q.1)).life ≠ .parked then some q.2.2 else none)
    else [])

/-- The free slots of a core, ascending. -/
def State.freeSlots (s : State) (c core : Nat) : List Nat :=
  let held := s.heldSlots c core
  (List.range 32).filter (fun i => !(held.contains i))

/-- The blocks of vector registers of a core that no gang reserves. -/
def State.freeBlocks (s : State) (c core : Nat) : Nat :=
  128 - s.gangs.foldl (fun n e => if e.2.live && e.2.cluster = c then n + mapGet 0 e.2.quota core else n) 0

/-- The KiB of SCRATCH space of a cluster that no window takes (R19). -/
def State.freeScratch (s : State) (c : Nat) : Nat :=
  128 * ((s.cluster c).banks.filter (fun b => b = 1)).length -
    s.gangs.foldl (fun n e => if e.2.live && e.2.cluster = c && !e.2.evicted then n + e.2.scrKib else n) 0

/-- The physical rows at which a run of `n` free accumulator rows begins, ascending (R204). -/
def State.freeRuns (s : State) (c n : Nat) : List Nat :=
  let used := s.gangs.filterMap (fun e =>
    if e.2.live && e.2.cluster = c && !e.2.evicted && e.2.accRows ≠ 0 then some (e.2.rb, e.2.accRows) else none)
  (List.range (769 - n)).filter (fun b => used.all (fun u => decide (u.1 + u.2 ≤ b) || decide (b + n ≤ u.1)))

/-- The slot that a wave of a gang takes on a core (R272), among the core's free ones, given the slots the gang's other
waves hold there. -/
def seatOn (free mine : List Nat) : Option Nat :=
  let odd := (mine.filter (fun i => i % 2 = 1)).length
  let port := if odd < mine.length - odd then 1 else 0
  match free.find? (fun i => i % 2 = port) with
  | some i => some i
  | none => free.head?

/-- The seats of waves `w` to `w + n - 1` of a gang for a base core (R272), the free slots of each core given. -/
def seatsFrom (b : Nat) : Nat → Nat → List (List Nat) → List (Nat × Nat) → Option (List (Nat × Nat))
  | 0, _, _, seats => some seats
  | n + 1, w, free, seats =>
    let core := (b + w) % 4
    match seatOn (free.getD core []) ((seats.filter (fun p => p.1 = core)).map Prod.snd) with
    | none => none
    | some i => seatsFrom b n (w + 1) (free.set core ((free.getD core []).erase i)) (seats ++ [(core, i)])

/-- The cores in order of free slots, the most first and the lowest number on a tie (R272). -/
def coreOrder (free : List (List Nat)) : List Nat :=
  let n := fun i => (free.getD i []).length
  (List.range 33).reverse.flatMap (fun k => (List.range 4).filter (fun i => n i = k))

/-- The seats of a gang of `waves` waves of `vregs` blocks on cluster `c`, where it fits (R19, R272). -/
def State.seatsOn (s : State) (c waves vregs : Nat) : Option (List (Nat × Nat)) :=
  let free := (List.range 4).map (s.freeSlots c)
  (coreOrder free).findSome? (fun b =>
    match seatsFrom b waves 0 free [] with
    | none => none
    | some seats =>
      if (List.range 4).all (fun i =>
        decide (vregs * (seats.filter (fun p => p.1 = i)).length ≤ s.freeBlocks c i)) then some seats else none)

/-- The section dispatchers place a context's gangs on a cluster of its world (R262, R378). -/
def State.worldFits (s : State) (c : Nat) (x : LaunchCtx) : Bool := (s.cluster c).secure = (x.world = 1)

/-- Cluster `c` meets R19 for a task's next gang: its seats and the runs of rows. -/
def State.fits (s : State) (k : Task) (x : LaunchCtx) (c : Nat) : Option (List (Nat × Nat) × List Nat) :=
  if !(s.worldFits c x) || decide (s.freeScratch c < k.field 0x1E 2) then none
  else match s.seatsOn c k.waves k.vregs, s.freeRuns c (k.field 0x24 2) with
    | some seats, b :: r => some (seats, b :: r)
    | _, _ => none

/-- The header of a context's SAVEQ, where it holds at least `n` areas (R262). -/
def State.saveHead (s : State) (x : LaunchCtx) (n : Nat) : Option (Nat × QHead × List Nat) :=
  match s.ctxHead x x.saveq with
  | none => none
  | some (pa, q) =>
    if q.sub ≠ 0 ∨ q.stock < n then none
    else match s.queueSlots x.space .read q q.head n with
      | .ok slots => some (pa, q, slots)
      | .error _ => none

/-- Asks for the page of a SAVEQ that the distributor does not find. -/
def State.askSaveq (s : State) (x : LaunchCtx) : State :=
  match checkVa s x.space .readWrite 1 x.saveq with
  | .miss bad => s.distFault x 0 bad .readWrite x.saveq
  | .ok pa =>
    let q := s.queueHead pa
    match touchSlot s x.space .read (2 ^ q.elog) (q.slot q.head) with
    | .miss bad => s.distFault x 0 bad .read (q.slot q.head)
    | _ => s
  | .trap _ => s

/-- Pops `n` save areas: their addresses (R262). -/
def State.popAreas (s : State) (x : LaunchCtx) (n : Nat) : Option (List Dword × State) :=
  match s.saveHead x n with
  | none => none
  | some (pa, q, slots) =>
    some (slots.map (fun p => BitVec.ofNat 64 (s.readNat p 8)), s.homeWrite none (pa + 0x10) (leBytes 8 (q.head + n)))

/-- The clusters that meet R19 for a started task's next gang, of which it has more, with SAVEQ filled for it. -/
def State.homesFor (s : State) (k : Task) : List (Nat × List (Nat × Nat) × List Nat) :=
  match s.ctx k.ctx with
  | none => []
  | some x =>
    if k.state ≠ .started || decide (k.gangs ≤ k.nextGang) || (s.saveHead x k.waves).isNone then []
    else (List.range 64).filterMap (fun c => (s.fits k x c).map (fun r => (c, r.1, r.2)))

/-! ### The end of gangs (R275) -/

/-- An engine command issued by a wave of the gang has not ended. -/
def State.gangBusy (s : State) (g : Nat) : Bool :=
  let c := (s.gang g).cluster
  (s.cluster c).copyCmds.any (fun q => q.gang = g) || !(s.gangMx g).cmds.isEmpty ||
    s.nl.any (fun q => (s.wave q.wave).gang = g) ||
    (s.cluster c).tiles.any (fun t => t.booth.rows.any (fun r => (s.wave r.wave).gang = g)) ||
    (s.cluster c).booths.any (fun b => b.used && b.kind = 0 && b.rows.any (fun r => (s.wave r.wave).gang = g))

/-- The reservations of gangs whose last slot is released and whose engine commands have ended are released. -/
def State.sweep (s : State) : State :=
  let gone := (s.gangs.filter (fun e =>
    e.2.live && e.2.released.length = e.2.waves && !(s.gangBusy e.1))).map Prod.fst
  gone.foldl (fun s g => { (s.modGang g (fun _ => Gang.none)) with
      mx := mapSet GangMx.empty s.mx g GangMx.empty, travs := s.travs.map (fun e => if e.gang = g then { e with stands := false } else e) }) s

/-! ### Placement (R271) -/

/-- A started task is offered before another: by priority, then by its order in the table (R270). -/
def Task.before (a b : Task) : Bool := decide (a.prio < b.prio) || (a.prio = b.prio && decide (a.order < b.order))

/-- A gang as placed. -/
def State.newGang (s : State) (t c : Nat) (k : Task) (seats : List (Nat × Nat)) (areas : List Dword) : Gang :=
  { Gang.none with
    live := true, cluster := c, task := t, waves := seats.length, vregs := k.vregs, seats, areas, order := s.orders,
    quota := (List.range 4).foldl (fun m i =>
      mapSet 0 m i (k.vregs * (seats.filter (fun p => p.1 = i)).length)) [],
    scrPlace := (s.freeVal 600).toNat % 2 ^ 32 }

/-- Accumulator rows read +0 (R204). -/
def Cluster.clearRows (cl : Cluster) (b n : Nat) : Cluster :=
  { cl with acc := cl.acc.filter (fun e => decide (e.1 < 128 * b) || decide (128 * (b + n) ≤ e.1)) }

/-- Rows of a cluster's accumulator are given to a gang: they read +0, and no cell of them is marked (R19, R288, R301). -/
def State.giveRows (s : State) (c b n : Nat) : State :=
  let s := s.modCluster c (fun cl => cl.clearRows b n)
  if s.badAcc.isEmpty then s
  else { s with badAcc := s.badAcc.filter (fun e => !(e.1 = c && decide (128 * b ≤ e.2) && decide (e.2 < 128 * (b + n)))) }

/-- The section and cluster of R271 among those that fit; `n` chooses the section where any may be taken. -/
def pickHome (last : Option Nat) (n : Nat) (cs : List (Nat × List (Nat × Nat) × List Nat)) :
    Option (Nat × List (Nat × Nat) × List Nat) :=
  let near : List (Nat × List (Nat × Nat) × List Nat) := match last with
    | some c => cs.filter (fun e => sectionOf e.1 = sectionOf c)
    | none => []
  let cs := if near.isEmpty then
      (match choose cs n with
        | some e => cs.filter (fun d => sectionOf d.1 = sectionOf e.1)
        | none => [])
    else near
  match last.bind (fun c => cs.find? (fun e => e.1 = c)) with
  | some e => some e
  | none => cs.head?

/-- The rows of a wave's calls are hurried (R251): their booths dispatch, and their tiles run ahead. -/
def State.rushRows (s : State) (w : Nat) : State :=
  s.modCluster (s.wave w).cluster (fun cl =>
    let mine := fun (b : Booth) => b.kind = 0 && b.rows.any (fun r => r.wave = w)
    let cl := cl.usedBooths.foldl (fun cl i => if mine (cl.booth i) then cl.dispatch i else cl) cl
    { cl with tiles := cl.tiles.map (fun t => if mine t.booth then { t with rush := true } else t) })

/-- A pre-emption request reaches a wave (R282, R286): phase 1 begins, and held instructions are abandoned, once a run-ahead in
progress has rolled back; or the request waits for RTE. -/
def State.preemptWave (s : State) (w : Nat) : State :=
  let x := s.wave w
  if x.life ≠ .resident ∨ x.died ∨ x.ended then s
  else if x.csr.handler then s.modWave w (fun x => { x with preemptLater := true })
  else
    let s := (s.modWave w (fun x => { x with preempt := true })).rushRows w
    if x.ra.isSome then s else s.abandonHeld w

/-! ### Room for a gang of priority 0 (R21, R277) -/

/-- The gangs of a cluster that a gang of priority 0 pre-empts, in their order: priorities 3, 2 and 1, the youngest first. -/
def State.lesserGangs (s : State) (c : Nat) : List Nat :=
  let gs := (s.gangs.filter (fun e => e.2.live && e.2.cluster = c)).reverse
  [3, 2, 1].flatMap (fun p => (gs.filter (fun e => (s.task e.2.task).prio = p)).map Prod.fst)

/-- The fewest of these gangs, in their order, without which `ok` holds. -/
def State.roomUntil (ok : State → Bool) (s : State) : List Nat → List Nat → Option (List Nat)
  | [], _ => none
  | g :: r, gone =>
    let s' := s.modGang g (fun y => { y with live := false })
    if ok s' then some (gone ++ [g]) else State.roomUntil ok s' r (gone ++ [g])

/-- The fewest of these gangs, in their order, without which a task's next gang fits the cluster. -/
def State.roomFor (s : State) (k : Task) (x : LaunchCtx) (c : Nat) : List Nat → List Nat → Option (List Nat) :=
  State.roomUntil (fun u => (u.fits k x c).isSome) s

/-- The waves of gangs that have still to be asked to park. -/
def State.toPark (s : State) (gs : List Nat) : List Nat :=
  gs.flatMap (fun g => ((s.gang g).ids.map Prod.snd).filter (fun w =>
    let x := s.wave w
    x.life = .resident && !x.died && !x.ended && !x.preempt && !x.preemptLater &&
      !(x.csr.handler && x.csr.trapcause = causePreempt) && !(x.pend.any (fun p => p.cause = causePreempt))))

/-- Of the gangs that each cluster would free, those of the cluster that frees enough with the fewest waves parked (R277). -/
def State.leastParked (s : State) (room : Nat → Option (List Nat)) (cs : List Nat) : List Nat :=
  (cs.foldl (fun (b : Option (List Nat)) c => match room c with
    | none => b
    | some gs =>
      (match b with
      | none => some gs
      | some hs => if (s.toPark gs).length < (s.toPark hs).length then some gs else some hs)) none).getD []

/-- The gangs that a task of priority 0 pre-empts for its next gang, which fits no cluster (R277). -/
def State.victims (s : State) (k : Task) : List Nat :=
  match s.ctx k.ctx with
  | none => []
  | some x =>
    if k.prio ≠ 0 || k.state ≠ .started || decide (k.gangs ≤ k.nextGang) || (s.saveHead x k.waves).isNone ||
        !(s.homesFor k).isEmpty then []
    else
      s.leastParked (fun c => s.roomFor k x c (s.lesserGangs c) []) (List.range 64)

/-- The gangs that give way to a wave of a task of priority 0, a gang of its own, that finds no seat on any of these clusters
(R21, R257, R277, R339). -/
def State.seatVictims (s : State) (prio vregs : Nat) (cs : List Nat) : List Nat :=
  if prio ≠ 0 || cs.any (fun c => (s.seatsOn c 1 vregs).isSome) then []
  else s.leastParked (fun c => State.roomUntil (fun u => (u.seatsOn c 1 vregs).isSome) s (s.lesserGangs c) []) cs

/-- Gangs are pre-empted: their waves are asked to park. -/
def State.parkGangs (s : State) (gs : List Nat) : State := (s.toPark gs).foldl State.preemptWave s

/-- The seat that a parked wave would take on its cluster (R272, R289). -/
def State.resumeSeat (s : State) (x : Wave) : Option (Nat × Nat) :=
  let free := (List.range 4).map (s.freeSlots x.cluster)
  (coreOrder free).findSome? (fun i =>
    if x.blocks ≤ s.freeBlocks x.cluster i then
      (seatOn (free.getD i []) ((s.gangOn x.gang i).map (fun v => (s.wave v).slot))).map (fun p => (i, p))
    else none)

/-- A parked wave can be placed: its seat, and its gang's resources where they were given up. -/
def State.canResume (s : State) (x : Wave) : Bool :=
  let g := s.gang x.gang
  x.life = .parked && !x.died && (s.resumeSeat x).isSome &&
    (!g.evicted || (decide (g.scrKib ≤ s.freeScratch x.cluster) && !(s.freeRuns x.cluster g.accRows).isEmpty))

/-- The gangs that a parked wave of priority 0 pre-empts as it finds no room to resume in (R21). -/
def State.resumeVictims (s : State) (x : Wave) : List Nat :=
  if x.csr.prio ≠ 0 || x.life ≠ .parked || x.died || s.canResume x then []
  else (State.roomUntil (fun u => u.canResume x) s (s.lesserGangs x.cluster) []).getD []

/-- R277 needs the space of a gang: a task, or a parked wave, of priority 0 waits for it. -/
def State.spaceNeeded (s : State) (g : Nat) : Bool :=
  s.tasks.any (fun e => (s.victims e.2).contains g) || s.waves.any (fun e => (s.resumeVictims e.2).contains g)

/-- GANG_PLACE (R270 to R272, R277): a section dispatcher places a task's next gang, unless a task offered before can place one;
for a gang of priority 0 that fits no cluster it pre-empts others. Subject: task; a cluster among those that fit, whose section is taken where any may be; the run of rows taken. -/
def execGangPlace (s : State) : Host.Outcome State Fault Refusal :=
  let s := s.sweep
  let t := s.arg 0
  let k := s.task t
  .next (if s.tasks.any (fun e => e.2.before k && !(s.homesFor e.2).isEmpty) then s
    else match pickHome k.lastCluster (s.arg 1) (s.homesFor k), s.ctx k.ctx with
      | some (c, seats, runs), some x =>
        (match choose runs (s.arg 2), s.popAreas x k.waves with
          | some rb, some (areas, s) =>
            let (gx, gy, gz) := k.coords k.nextGang
            let g : Gang :=
              { s.newGang t c k seats areas with
                x := gx, y := gy, z := gz, gidx := gx + k.gx * (gy + k.gy * gz), scrKib := k.field 0x1E 2,
                accRows := k.field 0x24 2, rb }
            let s := (s.modGang (s.orders + 1) (fun _ => g)).giveRows c rb g.accRows
            { s.modTask t (fun k => { k with nextGang := k.nextGang + 1, lastCluster := some c }) with orders := s.orders + 1 }
          | _, _ => s)
      | none, some x =>
        if k.state = .started ∧ (s.saveHead x k.waves).isNone then s.askSaveq x
        else s.parkGangs (s.victims k)
      | _, _ => s)

/-! ### The start of a wave (R269, R273, R274) -/

/-- The pages of a task's ranges, as addresses. -/
def Task.pages (t : Task) : List Dword :=
  t.ranges.flatMap (fun r => (List.range r.2.2.1).map (fun i => BitVec.ofNat 64 ((r.2.1.toNat / 65536 + i) * 65536)))

/-- A cluster discards its shared copies of the lines in a task's ranges (R269). -/
def State.discardRanges (s : State) (c : Nat) (x : LaunchCtx) (k : Task) : State :=
  if (s.cluster c).copies.isEmpty then s
  else
    let ps := k.pages.filterMap (fun va => match translate s x.space va with
      | .ok pa _ => some (pa / 65536)
      | _ => none)
    s.dropCopies c (fun l => ps.contains (l / 512))

/-- ROLE (R273). -/
def roleOf (map w n : Nat) : Nat :=
  let f := if w = 0 then 0 else if w + 1 = n then 3 else if w = 1 then 1 else 2
  map / 4 ^ f % 4

/-- Split 0 as a wave starts: READY at ENTRY with these lanes. -/
def startSplits (s : State) (entry : Dword) (m : Mask) : List Split :=
  [{ Split.free with pc := entry, own := m, exec := m, state := 1, next := s.clk }, Split.free, Split.free, Split.free,
    Split.free]

/-- The CSRs of a wave as it starts (R274). -/
def startCsrs (k : Task) (x : LaunchCtx) (g : Gang) (area : Dword) : Csrs :=
  { Csrs.zero with
    codebase := k.entryVa &&& ~~~ 0xFFFF#64, scrbase := BitVec.ofNat 32 g.scrPlace, scrsize := BitVec.ofNat 32 (1024 * g.scrKib),
    launchid := k.launchid, trapvec := x.trapvec, savearea := area, savesize := x.savesize, priv := x.priv,
    prio := k.prio, world := x.world, ttbase := x.ttbase, asid := x.asid }

/-- A wave of gang `g` in its start state (R274). -/
def startWave (s : State) (n i : Nat) (g : Gang) (k : Task) (x : LaunchCtx) (area : Dword) : Wave :=
  let seat := g.seats.getD i (0, 0)
  let args := k.field 8 8
  { Wave.none with
    life := .resident, cluster := g.cluster, core := seat.1, slot := seat.2, gang := n, idx := i,
    role := roleOf (k.field 0x23 1) i g.waves, blocks := g.vregs, splits := startSplits s k.entryVa (BitVec.allOnes 64),
    s := [args, args / 2 ^ 32, g.x, g.y, g.z].foldl (fun (m : Map Word × Nat) v =>
      (mapSet 0 m.1 m.2 (BitVec.ofNat 32 v), m.2 + 1)) ([], 0) |>.1,
    csr := startCsrs k x g area, area, age := s.clk, readySince := s.clk }

/-- WAVE_START (R269, R274): a placed wave starts. Subject: gang, WAVEIDX. -/
def execWaveStart (s : State) : Host.Outcome State Fault Refusal :=
  let n := s.arg 0
  let i := s.arg 1
  let g := s.gang n
  let k := s.task g.task
  .next (match s.ctx k.ctx, g.areas with
    | some x, a :: r =>
      if !g.live || i ≠ g.waves - g.areas.length then s
      else
        let s := if g.ids.isEmpty then s.discardRanges g.cluster x k else s
        let w := s.orders + 1
        let s := s.setWave w (startWave s n i g k x a)
        { s.modGang n (fun g => { g with areas := r, ids := mapSet 0 g.ids i w }) with orders := w }
    | _, _ => s)

/-! ### The end of a wave and of a task (R275) -/

/-- A wave has ended, and its counters, tokens and departures are settled. -/
def Wave.finished (x : Wave) : Bool :=
  ((x.life = .resident && x.ended) || (x.life = .parked && x.died)) && (List.range 8).all (fun i => x.counter i = 0) &&
    (List.range 8).all (fun i => !(mapGet Token.idle x.k i).pending) && x.hops.isEmpty && x.ra.isNone

/-- A save area goes back on its SAVEQ (R262): whether it could be put there now. -/
def State.returnArea (s : State) (x : LaunchCtx) (area : Dword) : State × Bool :=
  match checkVa s x.space .readWrite 1 x.saveq with
  | .miss bad => (s.distFault x 0 bad .readWrite x.saveq, false)
  | .trap _ => (s, true)
  | .ok pa =>
    let q := s.queueHead pa
    if q.sub ≠ 0 ∨ q.room = 0 then (s, true)
    else if s.lineOwned (pa / 128) then (s, false)
    else match touchSlot s x.space .write (2 ^ q.elog) (q.slot q.tail) with
      | .miss bad => (s.distFault x 0 bad .write (q.slot q.tail), false)
      | .no => (s, true)
      | .at slot => (s.queuePut none pa q [slot] [leBytes (2 ^ q.elog) area.toNat], true)

/-- What is left of a wave whose slot is released. -/
def Wave.gone (x : Wave) : Wave := { Wave.none with life := .gone, cluster := x.cluster, gang := x.gang, idx := x.idx }

/-- WAVE_SLOT_RELEASE (R275, R262). Subject: the wave. -/
def execWaveSlotRelease (s : State) : Host.Outcome State Fault Refusal :=
  let w := s.arg 0
  let x := s.wave w
  let g := s.gang x.gang
  .next (match x.finished, s.ctx (s.task g.task).ctx with
    | true, some c =>
      let (s, done) := s.returnArea c x.area
      if !done then s
      else
        let s := s.setWave w x.gone
        let s := s.modGang x.gang (fun g => { g with
          released := g.released ++ [x.idx],
          seats := if x.life = .parked then g.seats.set x.idx (4, 0) else g.seats })
        let s := (mapKeys s.rasters).foldl (fun s r => s.modRaster r (fun q =>
          { q with cov := q.cov.filter (fun e => e.wave ≠ some w) })) s
        s.sweep
    | _, _ => s)

/-- Everything of a started task has ended (R275): its gangs, the waves it spawned, and the primitives it emitted. -/
def State.taskOver (s : State) (t : Nat) : Bool :=
  let k := s.task t
  k.state = .started && decide (k.gangs ≤ k.nextGang) && !(s.gangs.any (fun e => e.2.live && e.2.task = t)) &&
    !(s.clusters.any (fun e => e.2.spawnQ.any (fun b => b.task = t) ||
      e.2.booths.any (fun b => b.used && b.kind ≠ 0 && b.task = t))) &&
    !(s.rasters.any (fun e => e.2.store.any (fun p => p.task = t) || e.2.waiting.any (fun q => q.prim.task = t) ||
      e.2.again.any (fun q => q.1.task = t)))

/-- TASK_RETIRE (R275, R276). Subject: the task. -/
def execTaskRetire (s : State) : Host.Outcome State Fault Refusal :=
  let s := s.sweep
  let t := s.arg 0
  .next (if s.taskOver t then s.post t (if (s.task t).anyDied then 2 else 0) else s)

/-- COMPLETION_RETRY (R276): a completion that waits is tried again. Subject: the task. -/
def execCompletionRetry (s : State) : Host.Outcome State Fault Refusal :=
  let t := s.arg 0
  let k := s.task t
  .next (match k.state, k.wait with
    | .posting status, none => { s with clk := max s.clk k.retryAt }.post t status
    | _, _ => s)

/-! ### Spawned waves (R257, R258) -/

/-- The accesses of the waves that placed a booth's threads, made before them, are performed (R258). -/
def State.boothReleased (s : State) (b : Booth) : Bool :=
  b.rows.all (fun r => (s.wave r.wave).flight.all (fun a => decide (r.id ≤ a.seq) || !a.pending))

/-- The vector registers of a spawned wave: thread t's payload in each of its lanes (R257). -/
def spawnRegs (b : Booth) : Map Word :=
  ((List.range b.rows.length).zip b.rows).foldl (fun v e =>
    (List.range b.lanes).foldl (fun v j =>
      ((List.range e.2.vals.length).zip e.2.vals).foldl (fun v p => mapSet 0 v (64 * p.1 + e.1 * b.lanes + j) p.2) v) v) []

/-- The mask of lanes 0 to `n - 1`. -/
def lowLanes (n : Nat) : Mask := BitVec.ofNat 64 (2 ^ n - 1)

/-- SPAWN_LAUNCH (R257, R258, R269): the first of a cluster's spawn queue is launched as a gang of one wave; one of priority 0 that
finds no seat pre-empts (R21, R277). Subject: cluster. -/
def execSpawnLaunch (s : State) : Host.Outcome State Fault Refusal :=
  let s := s.sweep
  let c := s.arg 0
  .next (match (s.cluster c).spawnQ with
    | [] => s
    | b :: rest =>
      let k := s.task b.task
      match s.boothReleased b, s.seatsOn c 1 k.vregs, s.ctx k.ctx with
      | true, some seats, some x =>
        (match s.popAreas x 1 with
          | none => s.askSaveq x
          | some (areas, s) =>
            let s := s.discardRanges c x k
            let n := b.rows.length
            let g : Gang := { s.newGang b.task c k seats [] with gidx := 0xFFFFFFFF }
            let w := s.orders + 1
            let y := startWave s w 0 g k x (areas.getD 0 0)
            let y := { y with
              origin := 1, v := spawnRegs b, splits := startSplits s b.entry (lowLanes (n * b.lanes)),
              s := mapSet 0 (mapSet 0 (mapSet 0 y.s 2 (BitVec.ofNat 32 n)) 3 (BitVec.ofNat 32 b.cls)) 4 0 }
            let s := (s.setWave w y).modGang w (fun _ => { g with ids := [(0, w)] })
            { s.modCluster c (fun cl => { cl with spawnQ := rest }) with orders := w })
      | true, none, some x =>
        if (s.saveHead x 1).isNone then s.askSaveq x else s.parkGangs (s.seatVictims k.prio k.vregs [c])
      | _, _, _ => s)

end Sys2Proof.Machine
end

