-- ==== Sys2Proof/Machine/Ray.lean ====
section
/-! DEFINITION. The ray class: scenes and records (R310 to R312), the tests of triangles, surfaces and boxes (R316 to R321),
queries and candidates (R313 to R316, R322), logs (R323, R324) and REPLAY (R325, R326). -/

namespace Sys2Proof.Machine

/-! ### Arithmetic (R315): every rounding is RNE and no flag is raised -/

/-- The operations of a test on images of one format. -/
def Fmt.add (f : Fmt) (x y : Nat) : Nat := (fAdd f envRNE x y).1
def Fmt.sub (f : Fmt) (x y : Nat) : Nat := (fSub f envRNE x y).1
def Fmt.mul (f : Fmt) (x y : Nat) : Nat := (fMul f envRNE x y).1
def Fmt.div (f : Fmt) (x y : Nat) : Nat := (fDiv f envRNE x y).1
def Fmt.fma (f : Fmt) (x y z : Nat) : Nat := (fFma f envRNE false x y z).1
def Fmt.fnma (f : Fmt) (x y z : Nat) : Nat := (fFma f envRNE true x y z).1
def Fmt.sqrt (f : Fmt) (x : Nat) : Nat := (sqrtNum f envRNE (decodeNum f x)).1

/-- A small integer. -/
def Fmt.int (f : Fmt) (n : Int) : Nat := (cvtIntFloat f envRNE n).1

/-- The negation of an image; a NaN stays the canonical one (R67). -/
def Fmt.neg (f : Fmt) (x : Nat) : Nat :=
  if (decodeNum f x).isNan then f.nanImg else if f.signBit ≤ x then x - f.signBit else x + f.signBit

/-- The order of two images as exact values; false where one is a NaN. -/
def Fmt.lt (f : Fmt) (x y : Nat) : Bool :=
  let a := decodeNum f x
  let b := decodeNum f y
  !a.isNan && !b.isNan && decide (cmpNum a b < 0)

def Fmt.le (f : Fmt) (x y : Nat) : Bool :=
  let a := decodeNum f x
  let b := decodeNum f y
  !a.isNan && !b.isNan && decide (cmpNum a b ≤ 0)

def Fmt.eq (f : Fmt) (x y : Nat) : Bool := f.le x y && f.le y x

def Fmt.isNan (f : Fmt) (x : Nat) : Bool := (decodeNum f x).isNan

def Num.isInf : Num → Bool
  | .inf _ => true
  | _ => false

def Fmt.isInf (f : Fmt) (x : Nat) : Bool := (decodeNum f x).isInf

/-- The magnitude of an image. -/
def Fmt.abs (f : Fmt) (x : Nat) : Nat := x % f.signBit

/-- The exact product of two meanings. -/
def Num.times : Num → Num → Num
  | .fin a m e, .fin b n g => .fin (a ^^ b) (m * n) (e + g)
  | .nan q, _ => .nan q
  | _, .nan q => .nan q
  | .inf a, .fin b n _ => if n = 0 then .nan false else .inf (a ^^ b)
  | .fin a m _, .inf b => if m = 0 then .nan false else .inf (a ^^ b)
  | .inf a, .inf b => .inf (a ^^ b)

/-- F64 from F32, exactly, and F32 from F64. -/
def wide (x : Nat) : Nat := (cvtFloat fmtF32 fmtF64 envRNE x).1
def narrow (x : Nat) : Nat := (cvtFloat fmtF64 fmtF32 envRNE x).1

/-! ### Records -/

/-- A ray (R312), read from its record. -/
structure RayRec where
  o : List Nat
  d : List Nat
  tmin : Nat
  tmax : Nat
  rayid : Nat
  mask : Nat
  deriving DecidableEq, Repr

/-- The F64 fields at consecutive offsets. -/
def f64s (bs : List Byte) (o n : Nat) : List Nat := (List.range n).map (fun i => fieldNat bs (o + 8 * i) 8)

/-- The ray of a record's bytes. -/
def rayOf (bs : List Byte) : RayRec :=
  { o := f64s bs 0 3, d := f64s bs 0x18 3, tmin := fieldNat bs 0x30 8, tmax := fieldNat bs 0x38 8,
    rayid := fieldNat bs 0x40 4, mask := fieldNat bs 0x44 1 }

/-- O and D in the format of a mode's triangle tests: F32 in modes 0 and 1, F64 in mode 2 (R317). -/
def rayIn (mode : Nat) (xs : List Nat) : List Nat := if mode = 2 then xs else xs.map narrow

def modeFmt (mode : Nat) : Fmt := if mode = 2 then fmtF64 else fmtF32

/-- The ray is invalid (R312). -/
def RayRec.bad (r : RayRec) (mode : Nat) : Bool :=
  (r.o ++ r.d ++ [r.tmin, r.tmax]).any fmtF64.isNan || (r.o ++ r.d).any fmtF64.isInf ||
  r.d.all (fun x => fmtF64.abs x = 0) || fmtF64.lt r.tmax r.tmin ||
  (rayIn mode (r.o ++ r.d)).any (modeFmt mode).isInf || (rayIn mode r.d).all (fun x => (modeFmt mode).abs x = 0)

/-- Element `i` of a list of images. -/
def el (xs : List Nat) (i : Nat) : Nat := xs.getD i 0

/-! ### The triangle test (R317, R318) -/

/-- A sheared vertex. -/
abbrev Sheared := Nat × Nat × Nat

/-- px·qy − py·qx from exact products, rounded once. -/
def edge (f : Fmt) (p q : Sheared) : Nat :=
  let a := Num.times (decodeNum f p.1) (decodeNum f q.2.1)
  let b := Num.times (decodeNum f p.2.1) (decodeNum f q.1)
  (fmaNum f envRNE a Num.one b.negate).1

/-- The sign of the exact value of px·qy − py·qx, with the tie rule: 0 where P and Q are equal in the sheared plane. -/
def edgeSign (f : Fmt) (p q : Sheared) : Int :=
  let c := cmpNum (Num.times (decodeNum f p.1) (decodeNum f q.2.1)) (Num.times (decodeNum f p.2.1) (decodeNum f q.1))
  if c ≠ 0 then c
  else if f.lt p.2.1 q.2.1 then 1
  else if f.lt q.2.1 p.2.1 then -1
  else if f.lt p.1 q.1 then 1
  else if f.lt q.1 p.1 then -1
  else 0

/-- The three sheared vertices of a triangle whose nine F32 coordinates are given. -/
def shear (mode : Nat) (r : RayRec) (vs : List Nat) : List Sheared :=
  let f := modeFmt mode
  let o := rayIn mode r.o
  let d := rayIn mode r.d
  let vs := if mode = 2 then vs.map wide else vs
  let kz := (List.range 3).foldl (fun b k => if f.lt (f.abs (el d b)) (f.abs (el d k)) then k else b) 0
  let kx := (kz + 1) % 3
  let ky := (kx + 1) % 3
  let (kx, ky) := if f.lt (el d kz) 0 then (ky, kx) else (kx, ky)
  let sx := f.div (el d kx) (el d kz)
  let sy := f.div (el d ky) (el d kz)
  let sz := f.div (f.int 1) (el d kz)
  (List.range 3).map (fun i =>
    let c := fun k => f.sub (el vs (3 * i + k)) (el o k)
    (f.fnma sx (c kz) (c kx), f.fnma sy (c kz) (c ky), f.mul sz (c kz)))

/-- The sign that at least two of three signs are. -/
def majority (a b c : Int) : Int := if a = b ∨ a = c then a else b

/-- 2^-20 × |x| is not less than |y|, exactly. -/
def withinMillionth (f : Fmt) (y x : Nat) : Bool :=
  match decodeNum f (f.abs y), decodeNum f (f.abs x) with
  | .nan _, _ => false
  | _, .nan _ => false
  | a, .fin n m e => decide (cmpNum a (.fin n m (e - 20)) ≤ 0)
  | a, b => decide (cmpNum a b ≤ 0)

/-- The test of a triangle (R317), or with `relaxed` that of a near candidate (R324): t, u, v in F64, and σ = +1. -/
def triTest (mode : Nat) (cullb relaxed : Bool) (r : RayRec) (vs : List Nat) : Option (Nat × Nat × Nat × Bool) :=
  let f := modeFmt mode
  let ws := shear mode r vs
  let v3 := fun (i : Nat) => ws.getD i (0, 0, 0)
  let (a, b, c) := (v3 0, v3 1, v3 2)
  let (eu, ev, ew) := (edge f b c, edge f c a, edge f a b)
  let (su, sv, sw) := (edgeSign f b c, edgeSign f c a, edgeSign f a b)
  let det := f.add (f.add eu ev) ew
  let m := majority su sv sw
  let edges := [(su, eu), (sv, ev), (sw, ew)]
  let signs : Bool := if relaxed then edges.all (fun e => e.1 = m || withinMillionth f e.2 det) else su = sv && sv = sw
  if su = 0 ∨ sv = 0 ∨ sw = 0 then none
  else if !signs then none
  else if cullb ∧ su = -1 then none
  else if f.abs det = 0 then none
  else
    let t := f.fma ew c.2.2 (f.fma ev b.2.2 (f.mul eu a.2.2))
    let out := fun (x : Nat) => if mode = 2 then x else wide x
    some (out (f.div t det), out (f.div ev det), out (f.div ew det), m = 1)

/-! ### Surfaces (R319 to R321) -/

/-- A surface record's numbers (R319). -/
structure Surface where
  m : List Nat
  c : Nat
  k : Nat
  even : List Nat
  odd : List Nat
  rin : Nat
  rout : Nat
  tol : Nat
  itermax : Nat
  neven : Nat
  nodd : Nat
  rim : Bool
  deriving DecidableEq, Repr

/-- The surface of a record's bytes. -/
def surfaceOf (bs : List Byte) : Surface :=
  { m := f64s bs 0 12, c := fieldNat bs 0x60 8, k := fieldNat bs 0x68 8, even := f64s bs 0x70 10, odd := f64s bs 0xC0 10,
    rin := fieldNat bs 0x110 8, rout := fieldNat bs 0x118 8, tol := fieldNat bs 0x120 8, itermax := fieldNat bs 0x128 1,
    neven := fieldNat bs 0x129 1, nodd := fieldNat bs 0x12A 1, rim := fieldNat bs 0x12B 1 % 2 = 1 }

/-- A surface record is valid (R319). -/
def surfaceOk (va : Dword) (bs : List Byte) : Bool :=
  let y := surfaceOf bs
  va.toNat % 64 = 0 && decide (1 ≤ y.itermax) && decide (y.itermax ≤ 16) && decide (y.neven ≤ 10) &&
  decide (y.nodd ≤ 10) && decide (fieldNat bs 0x12B 1 < 2) && fieldNat bs 0x134 12 = 0

/-- The ray in a surface's local coordinates: o and d. -/
def Surface.localRay (y : Surface) (r : RayRec) : List Nat × List Nat :=
  let f := fmtF64
  ((List.range 3).map (fun i =>
      f.fma (el y.m (4 * i)) (el r.o 0) (f.fma (el y.m (4 * i + 1)) (el r.o 1) (f.fma (el y.m (4 * i + 2)) (el r.o 2)
        (el y.m (4 * i + 3))))),
    (List.range 3).map (fun i =>
      f.fma (el y.m (4 * i)) (el r.d 0) (f.fma (el y.m (4 * i + 1)) (el r.d 1) (f.mul (el y.m (4 * i + 2)) (el r.d 2)))))

/-- What one evaluation at t gives: x, y, z, p, h, sq, r, F, G and Fp. -/
structure SurfEval where
  x : Nat
  y : Nat
  z : Nat
  p : Nat
  h : Nat
  sq : Nat
  r : Nat
  F : Nat
  G : Nat
  Fp : Nat
  deriving DecidableEq, Repr

/-- The even terms from `j` − 1 down: E and Ed (R320). -/
def evenTerms (y : Surface) (p : Nat) : Nat → Nat × Nat → Nat × Nat
  | 0, a => a
  | j + 1, (e, ed) =>
    let f := fmtF64
    evenTerms y p j (f.fma e p (el y.even j), f.fma ed p (f.mul (f.int (j + 2)) (el y.even j)))

/-- The odd terms from `j` − 1 down: Q and Qd (R320). -/
def oddTerms (y : Surface) (p : Nat) : Nat → Nat × Nat → Nat × Nat
  | 0, a => a
  | j + 1, (q, qd) =>
    let f := fmtF64
    oddTerms y p j (f.fma q p (el y.odd j),
      f.fma qd p (f.mul (f.mul (f.int (2 * j + 3)) (el y.odd j)) (f.div (f.int 1) (f.int 2))))

/-- One evaluation of R320 at t. -/
def surfEval (y : Surface) (o d : List Nat) (t : Nat) : SurfEval :=
  let f := fmtF64
  let kp := f.add (f.int 1) y.k
  let q := f.mul kp (f.mul y.c y.c)
  let px := f.fma t (el d 0) (el o 0)
  let py := f.fma t (el d 1) (el o 1)
  let pz := f.fma t (el d 2) (el o 2)
  let p := f.fma px px (f.mul py py)
  let h := f.fnma q p (f.int 1)
  let sq := f.sqrt h
  let sag := f.div (f.mul y.c p) (f.add (f.int 1) sq)
  let cd := f.div y.c (f.mul (f.int 2) sq)
  let (e, ed) := evenTerms y p y.neven (0, 0)
  let e := f.mul (f.mul e p) p
  let ed := f.mul ed p
  let r := if y.nodd = 0 then 0 else f.sqrt p
  let (qo, qd) := oddTerms y p y.nodd (0, 0)
  let qo := if y.nodd = 0 then 0 else f.mul (f.mul qo p) r
  let qd := if y.nodd = 0 then 0 else f.mul qd r
  let F := f.sub pz (f.add (f.add sag e) qo)
  let G := f.add (f.add cd ed) qd
  let pd := f.mul (f.int 2) (f.fma px (el d 0) (f.mul py (el d 1)))
  { x := px, y := py, z := pz, p, h, sq, r, F, G, Fp := f.fnma G pd (el d 2) }

/-- The steps of R320 from step `n` + 1 on: t and the number of steps, or a fail. -/
def newton (y : Surface) (o d : List Nat) : Nat → Nat → Nat → Option (Nat × Nat)
  | 0, _, _ => none
  | fuel + 1, n, t =>
    let f := fmtF64
    let v := surfEval y o d t
    if f.lt v.h 0 ∨ f.abs v.sq = 0 ∨ f.abs v.Fp = 0 ∨ f.isNan v.F ∨ f.isNan v.Fp then none
    else
      let δ := f.div v.F v.Fp
      let t := f.sub t δ
      if f.le (f.abs δ) y.tol then some (t, n + 1)
      else if n + 1 = y.itermax then (if f.lt y.tol (f.abs δ) then none else some (t, n + 1))
      else newton y o d fuel (n + 1) t

/-- What a surface test finds. -/
inductive SurfRes where
  | miss
  /-- It failed: NOCONV. -/
  | fail
  | hit (t u v iter : Nat)
  deriving DecidableEq, Repr

/-- The test of a surface (R320), with the aperture test (R321) unless `relaxed`. -/
def surfTest (y : Surface) (relaxed : Bool) (r : RayRec) : SurfRes :=
  let f := fmtF64
  let (o, d) := y.localRay r
  if f.abs (el d 2) = 0 then .miss
  else match newton y o d 17 0 (f.div (f.neg (el o 2)) (el d 2)) with
    | none => .fail
    | some (t, n) =>
      let px := f.fma t (el d 0) (el o 0)
      let py := f.fma t (el d 1) (el o 1)
      let p := f.fma px px (f.mul py py)
      let rin2 := f.mul y.rin y.rin
      let rout2 := f.mul y.rout y.rout
      if relaxed || (f.le rin2 p && (f.lt p rout2 || (f.eq p rout2 && y.rim))) then .hit t px py n else .miss

/-! ### Boxes, exactly -/

/-- A finite image as a whole number of 2^-1100. -/
def Num.units : Num → Int
  | .fin n m e => inUnits n m e (-1100)
  | _ => 0

/-- A quotient of whole numbers, its denominator positive. -/
abbrev Frac := Int × Int

def Frac.of (n d : Int) : Frac := if d < 0 then (-n, -d) else (n, d)
def Frac.le (a b : Frac) : Bool := decide (a.1 * b.2 ≤ b.1 * a.2)

/-- The greater lower bound, the lesser upper bound; none is no bound. -/
def maxBound : Option Frac → Option Frac → Option Frac
  | none, b => b
  | a, none => a
  | some a, some b => if Frac.le a b then some b else some a

def minBound : Option Frac → Option Frac → Option Frac
  | none, b => b
  | a, none => a
  | some a, some b => if Frac.le a b then some a else some b

/-- A bound of t: an infinity that does not bind is none. -/
def boundOf (x : Nat) : Option Frac :=
  match decodeNum fmtF64 x with
  | .fin n m e => some (Num.units (.fin n m e), 2 ^ 1100)
  | _ => none

/-- Narrows an interval of t to where the ray lies between two planes of one axis. -/
def slab (iv : Option (Option Frac × Option Frac)) (lo hi : Option Int) (o d : Int) : Option (Option Frac × Option Frac) :=
  match iv with
  | none => none
  | some (a, b) =>
    if d = 0 then
      (if (match lo with | some l => decide (l ≤ o) | none => true) && (match hi with | some h => decide (o ≤ h) | none => true)
        then some (a, b) else none)
    else
      let q := fun (p : Option Int) => p.map (fun l => Frac.of (l - o) d)
      let (near, far) := if d < 0 then (q hi, q lo) else (q lo, q hi)
      some (maxBound a near, minBound b far)

/-- The least t from TMIN on, and not above a bound where there is one, at which the ray meets a box: none where it meets none,
and a start of none where every t to minus infinity meets it. -/
def boxMeet (r : RayRec) (tmax : Option Frac) (lo hi : List (Option Int)) : Option (Option Frac) :=
  let u := fun (xs : List Nat) (i : Nat) => Num.units (decodeNum fmtF64 (el xs i))
  let iv := (List.range 3).foldl (fun iv i => slab iv (lo.getD i none) (hi.getD i none) (u r.o i) (u r.d i))
    (some (boundOf r.tmin, tmax))
  match iv with
  | none => none
  | some (a, b) =>
    match a, b with
    | some a, some b => if Frac.le a b then some (some a) else none
    | _, _ => some a

/-- A quotient rounded RDN to F64. -/
def Frac.down (a : Frac) : Nat :=
  if a.1 = 0 then 0
  else (roundNum fmtF64 { rm := 3, sat := false, ftz := false } (decide (a.1 < 0)) a.1.natAbs a.2.natAbs).1

/-! ### Scenes (R310, R311, R319) -/

/-- Why work on a lane stops early: a fault, or a line that an engine owns (R150). -/
inductive RayStop where
  | fault (e : EngErr)
  | wait
  deriving DecidableEq, Repr

/-- A record or node breaks its format (R328). -/
def brokenScene (va : Dword) : RayStop := .fault { cause := causeEngfault, va, bad := false }

/-- The ray unit reads global bytes: at home, unless an engine owns a line of them; `own` are lines of the reader. -/
def State.rayRead (s : State) (sp : Space) (own : List Nat) (va : Dword) (n : Nat) : Except RayStop (List Byte) :=
  match s.engPlaces sp .read va n with
  | .error e => .error (.fault e)
  | .ok ps =>
    if ps.any (fun p => (List.range (p.2 / 128 + 2)).any (fun i =>
        decide (128 * (p.1 / 128 + i) < p.1 + p.2) && s.lineOwned (p.1 / 128 + i) && !(own.contains (p.1 / 128 + i)))) then
      .error .wait
    else match s.engRead sp va n with
      | .error e => .error (.fault e)
      | .ok bs => .ok bs

/-- A child of a node (R310). -/
structure Child where
  kind : Nat
  count : Nat
  lo : List Nat
  hi : List Nat
  cmask : Nat
  deriving DecidableEq, Repr

/-- The valid children of a node, in child order. -/
def nodeChildren (bs : List Byte) : List Child :=
  ((List.range 8).filter (fun i => fieldNat bs 0x0F 1 / 2 ^ i % 2 = 1)).map (fun i =>
    { kind := fieldNat bs (0x18 + i) 1 / 64, count := fieldNat bs (0x18 + i) 1 % 64,
      lo := (List.range 3).map (fun a => fieldNat bs (0x20 + 3 * i + a) 1),
      hi := (List.range 3).map (fun a => fieldNat bs (0x38 + 3 * i + a) 1), cmask := fieldNat bs (0x50 + i) 1 })

/-- A node is valid (R310). -/
def nodeOk (bs : List Byte) : Bool :=
  let cs := nodeChildren bs
  ((bs.drop 0x58).take 40).all (fun b => b = 0) &&
  (cs.isEmpty || (List.range 3).all (fun a => fieldNat bs (0x0C + a) 1 ≠ 255)) &&
  cs.all (fun c => (List.range 3).all (fun a => decide (el c.lo a ≤ el c.hi a)) && ((c.kind = 0) == (c.count = 0)))

/-- Bytes of a record of a kind. -/
def leafBytes (kind : Nat) : Nat := if kind = 2 then 320 else 48

/-- The things each child holds: internal children are consecutive nodes, and leaf records follow one another, both in
child order (R310). -/
def childItems (root : Dword) : List Child → Nat → Dword → List (List Item)
  | [], _, _ => []
  | c :: r, node, leaf =>
    if c.kind = 0 then [.node (root + BitVec.ofNat 64 (128 * node))] :: childItems root r (node + 1) leaf
    else
      (List.range c.count).map (fun i => .leaf c.kind (leaf + BitVec.ofNat 64 (i * leafBytes c.kind))) ::
        childItems root r node (leaf + BitVec.ofNat 64 (c.count * leafBytes c.kind))

/-- The planes of a child's box on each axis, in exact units. -/
def childBox (bs : List Byte) (c : Child) : List (Option Int) × List (Option Int) :=
  let org := fun (a : Nat) => Num.units (decodeNum fmtF32 (fieldNat bs (4 * a) 4))
  let step := fun (a : Nat) => Num.units (.fin false 1 ((fieldNat bs (0x0C + a) 1 : Int) - 127))
  ((List.range 3).map (fun a => some (org a + (el c.lo a : Int) * step a)),
    (List.range 3).map (fun a => some (org a + (el c.hi a : Int) * step a)))

/-- Things that are visited whatever the bound. -/
def Item.todo (i : Item) : Todo := { box := none, items := [i] }

/-- What a node leads to (R310): the considered children, each with its box, where it has exact planes. -/
def nodeTodos (root : Dword) (mask : Nat) (bs : List Byte) : List Todo :=
  let cs := nodeChildren bs
  let its := childItems root cs (fieldNat bs 0x10 4) (root + BitVec.ofNat 64 (16 * fieldNat bs 0x14 4))
  let exact := (List.range 3).all (fun a => match decodeNum fmtF32 (fieldNat bs (4 * a) 4) with
    | .fin _ _ _ => true
    | _ => false)
  ((cs.zip its).filter (fun e => e.1.cmask &&& mask ≠ 0)).map (fun e =>
    { box := if exact then some (childBox bs e.1) else none, items := e.2 })

/-- A child's box, as planes on each axis. -/
abbrev Box := List (Option Int) × List (Option Int)

/-- Visits what is left of a scene (R310, R316) in an order of the unit's choosing, `c` holding its choices, and gives each
record to `f`, which says whether to stop. A child whose box `must` names is entered; any other may be. What it answers: why it
stopped early, whether `f` stopped it, and the choices, the things left and the result; none where the visit would never end. -/
def scan {α : Type} (s : State) (sp : Space) (own : List Nat) (root : Dword) (mask : Nat) (must : α → Box → Bool)
    (f : Nat → Dword → α → Except RayStop (Bool × α)) :
    Nat → Nat → List Todo → α → Option (Option RayStop × Bool × Nat × List Todo × α)
  | 0, _, _, _ => none
  | fuel + 1, c, td, a =>
    let go := scan s sp own root mask must f fuel
    match td[c % max 1 td.length]? with
    | none => some (none, false, c, [], a)
    | some t =>
      let rest := td.eraseIdx (c % max 1 td.length)
      let c := c / max 1 td.length
      match t.box, t.items with
      | some b, is =>
        if must a b then go c (is.map Item.todo ++ rest) a
        else if c % 2 = 1 then go (c / 2) (is.map Item.todo ++ rest) a
        else go (c / 2) rest a
      | none, [] => go c rest a
      | none, .node va :: more =>
        (match s.rayRead sp own va 128 with
          | .error e => some (some e, false, c, rest, a)
          | .ok bs =>
            if nodeOk bs then go c (nodeTodos root mask bs ++ more.map Item.todo ++ rest) a
            else some (some (brokenScene va), false, c, rest, a))
      | none, .leaf k va :: more =>
        (match f k va a with
          | .error e => some (some e, false, c, rest, a)
          | .ok (true, a) => some (none, true, c, more.map Item.todo ++ rest, a)
          | .ok (false, a) => go c (more.map Item.todo ++ rest) a)

/-- More things than a scene without a cycle of nodes makes a unit visit. -/
def scanFuel : Nat := 2 ^ 64

/-- Ids of a record of a kind: PRIMID, INSTID. -/
def leafIds (kind : Nat) (bs : List Byte) : Word × Word :=
  let o := if kind = 2 then 0x12C else 0x24
  (BitVec.ofNat 32 (fieldNat bs o 4), BitVec.ofNat 32 (fieldNat bs (o + 4) 4))

/-- A record keeps its format (R311, R319). -/
def leafOk (kind : Nat) (va : Dword) (bs : List Byte) : Bool :=
  match kind with
  | 1 => decide (fieldNat bs 0x2C 4 < 2)
  | 2 => surfaceOk va bs
  | _ => fieldNat bs 0x18 12 = 0 && fieldNat bs 0x2C 4 = 0

/-- The nine coordinates of a triangle record. -/
def triVerts (bs : List Byte) : List Nat := (List.range 9).map (fun i => fieldNat bs (4 * i) 4)

/-- A plane of a procedural record's box: none where it lies at infinity outwards. -/
def procPlanes (bs : List Byte) (o : Nat) : List (Option Int) :=
  (List.range 3).map (fun a => match decodeNum fmtF32 (fieldNat bs (o + 4 * a) 4) with
    | .fin n m e => some (Num.units (.fin n m e))
    | _ => none)

/-- t of a procedural record (R316), rounded: none where the ray misses its box from TMIN on. A box with a NaN has no exact planes, and what the
test gives is a free value (log 30). -/
def procTest (s : State) (r : RayRec) (bs : List Byte) : Option Nat :=
  let n := fun (o a : Nat) => decodeNum fmtF32 (fieldNat bs (o + 4 * a) 4)
  if (List.range 3).any (fun a => (n 0 a).isNan || (n 0xC a).isNan) then some (s.freeVal 900).toNat
  else if (List.range 3).any (fun a => n 0 a = .inf false || n 0xC a = .inf true ||
      (match procPlanes bs 0, procPlanes bs 0xC with
        | lo, hi => (match lo.getD a none, hi.getD a none with
          | some l, some h => decide (h < l)
          | _, _ => false))) then none
  else (boxMeet r none (procPlanes bs 0) (procPlanes bs 0xC)).map (fun a => match a with
    | some a => if Frac.le a (Num.units (decodeNum fmtF64 r.tmin), 2 ^ 1100) && (boundOf r.tmin).isSome then r.tmin
        else a.down
    | none => fmtF64.signBit + fmtF64.infImg)

/-! ### Queries (R316, R322) -/

/-- The order of hits (R316): t as an exact value, then INSTID, PRIMID and the record's address. -/
def Hit.before (a b : Hit) : Bool :=
  let f := fmtF64
  if f.lt a.t b.t then true
  else if !(f.eq a.t b.t) then false
  else if a.inst ≠ b.inst then decide (a.inst.toNat < b.inst.toNat)
  else if a.prim ≠ b.prim then decide (a.prim.toNat < b.prim.toNat)
  else decide (a.leaf.toNat < b.leaf.toNat)

/-- A primitive passes (R316). -/
def Query.passes (q : Query) (r : RayRec) (h : Hit) : Bool :=
  fmtF64.le r.tmin h.t && fmtF64.le h.t (match q.best with | some b => b.t | none => r.tmax) &&
  (match q.best with | some b => h.before b | none => true)

/-- What the test of a record finds: a hit, whether it decides by itself, and whether a surface test failed. -/
def testLeaf (s : State) (mode : Nat) (cullb relaxed : Bool) (r : RayRec) (kind : Nat) (va : Dword) (bs : List Byte) :
    Option Hit × Bool × Bool :=
  let ids := leafIds kind bs
  match kind with
  | 1 =>
    let h := (triTest mode cullb relaxed r (triVerts bs)).map (fun x =>
      { leaf := va, t := x.1, u := x.2.1, v := x.2.2.1, prim := ids.1, inst := ids.2, surf := false, front := x.2.2.2,
        proc := false, iter := 0 : Hit })
    (h, fieldNat bs 0x2C 1 % 2 = 1, false)
  | 2 =>
    (match surfTest (surfaceOf bs) relaxed r with
      | .miss => (none, true, false)
      | .fail => (none, true, true)
      | .hit t u v n =>
        (some { leaf := va, t, u, v, prim := ids.1, inst := ids.2, surf := true, front := false, proc := false, iter := n },
          true, false))
  | _ =>
    (if relaxed then none else (procTest s r bs).map (fun t =>
      { leaf := va, t, u := 0, v := 0, prim := ids.1, inst := ids.2, surf := false, front := false, proc := true,
        iter := 0 : Hit }), false, false)

/-- Visits one record (R316): stops on a candidate, and in mode ANY on the first primitive that passes. A query resumed from a
TRAV that software has changed stops on any (R322). -/
def visitLeaf (s : State) (sp : Space) (own : List Nat) (r : RayRec) (kind : Nat) (va : Dword) (q : Query) :
    Except RayStop (Bool × Query) :=
  match s.rayRead sp own va (leafBytes kind) with
  | .error e => .error e
  | .ok bs =>
    if !(leafOk kind va bs) then .error (brokenScene va)
    else
      let (h, decides, failed) := testLeaf s q.mode q.cullb false r kind va bs
      let q := { q with noconv := q.noconv || failed }
      match h with
      | none => .ok (false, q)
      | some h =>
        if !(q.passes r h) then .ok (false, q)
        else if q.loose then .ok (true, { q with best := some h })
        else if !decides then .ok (true, { q with cand := some h })
        else .ok (q.mode = 1, { q with best := some h })

/-- The box of a child meets the segment of the ray up to the current bound (R310, R316). -/
def Query.enters (r : RayRec) (q : Query) (b : Box) : Bool :=
  (boxMeet r (boundOf (match q.best with | some h => h.t | none => r.tmax)) b.1 b.2).isSome

/-- How a query's turn ends. -/
inductive QueryEnd where
  | miss (bad : Bool)
  | hit (h : Hit)
  | candidate (h : Hit)
  | fault (e : EngErr)
  deriving DecidableEq, Repr

/-- A query goes on until it ends or suspends; none where it waits, or never ends. -/
def Query.run (q : Query) (s : State) (sp : Space) (own : List Nat) (r : RayRec) : Option (Query × QueryEnd) :=
  match scan s sp own q.root r.mask (Query.enters r) (visitLeaf s sp own r) scanFuel q.seed q.todo q with
  | none => none
  | some (some .wait, _) => none
  | some (some (.fault e), _, c, td, q) => some ({ q with seed := c, todo := td }, .fault e)
  | some (none, _, c, td, q) =>
    let q := { q with seed := c, todo := td }
    match q.cand, q.best with
    | some h, _ => some (q, .candidate h)
    | none, some h => some (q, .hit h)
    | none, none => some (q, .miss false)

/-- A query resumed from a TRAV that software has changed ends as a MISS, or as some HIT of the scene (R322). -/
def Query.runLoose (q : Query) (s : State) (sp : Space) (own : List Nat) (r : RayRec) (pick : Nat) : Option (Query × QueryEnd) :=
  if pick % 2 = 0 then some (q, .miss false)
  else match { q with todo := [(Item.node q.root).todo], best := none, cand := none, seed := pick / 2 }.run s sp own r with
    | none => none
    | some (q, .hit h) => some (q, .hit h)
    | some (q, _) => some (q, .miss false)

/-- A decision is applied to the candidate of a suspended query (R322): the query, and whether it ends with its best. -/
def Query.decide (q : Query) (r : RayRec) (dec : Nat) (fields : List Byte) : Query × Bool :=
  match q.cand with
  | none => (q, false)
  | some c =>
    let h := { c with t := fieldNat fields 0x48 8, u := fieldNat fields 0x50 8, v := fieldNat fields 0x58 8, proc := false }
    let q := { q with cand := none }
    if dec = 0 ∨ !(q.passes r h) then (q, false)
    else ({ q with best := some h }, dec = 2 || q.mode = 1)

/-- What a lane's query does from its issue on: TRACE starts at the root, TRACEC goes on with a decision. -/
def laneQuery (s : State) (sp : Space) (own : List Nat) (start : Query) (recd : List Byte) (dec : Option Nat) (pick : Nat) :
    Option (Query × QueryEnd) :=
  let r := rayOf recd
  match dec with
  | none => if r.bad start.mode then some (start, .miss true) else start.run s sp own r
  | some n =>
    if start.loose then start.runLoose s sp own r pick
    else
      let (q, done) := start.decide r n recd
      match done, q.best with
      | true, some h => some (q, .hit h)
      | _, _ => q.run s sp own r

/-! ### Near candidates (R324) -/

/-- t' is at least TMIN and within 2^-20 × max(|t|, 1) of t, exactly. Between an infinite t and an infinite t' of its sign
there is no distance, and the answer is free. -/
def State.near (s : State) (r : RayRec) (t t' : Nat) : Bool :=
  fmtF64.le r.tmin t' &&
  (match decodeNum fmtF64 t, decodeNum fmtF64 t' with
    | .fin n m e, .fin n' m' e' =>
      let a := Num.units (.fin n m e)
      let b := Num.units (.fin n' m' e')
      decide ((b - a).natAbs * 2 ^ 20 ≤ max a.natAbs (2 ^ 1100))
    | .inf _, .fin _ _ _ => true
    | .inf a, .inf b => if a = b then s.freeBit 901 else true
    | _, _ => false)

/-- A hit put in its place among hits in order. -/
def insertHit (h : Hit) : List Hit → List Hit
  | [] => [h]
  | b :: r => if h.before b then h :: b :: r else b :: insertHit h r

/-- bound + b for a final t: none where no distance bounds it. -/
def nearBound (t : Nat) : Option Frac :=
  (boundOf t).map (fun a => (a.1 * 2 ^ 20 + max (a.1.natAbs : Int) (2 ^ 1100), a.2 * 2 ^ 20))

/-- A record is added to the near candidates of a hit, where it is one. -/
def Query.addNear (q : Query) (s : State) (sp : Space) (own : List Nat) (r : RayRec) (h : Hit) (kind : Nat) (va : Dword)
    (l : List Hit) : Except RayStop (Bool × List Hit) :=
  if kind = 3 ∨ va = h.leaf then .ok (false, l)
  else match s.rayRead sp own va (leafBytes kind) with
    | .error e => .error e
    | .ok bs =>
      if !(leafOk kind va bs) then .error (brokenScene va)
      else match (testLeaf s q.mode q.cullb true r kind va bs).1 with
        | some n => .ok (false, if s.near r h.t n.t then insertHit n l else l)
        | none => .ok (false, l)

/-- The near candidates among the things left: what faults is passed by; none where the unit waits. -/
def Query.allNears (q : Query) (s : State) (sp : Space) (own : List Nat) (r : RayRec) (h : Hit) :
    Nat → List Todo → List Hit → Option (List Hit)
  | 0, _, _ => none
  | fuel + 1, td, l =>
    match scan s sp own q.root r.mask (fun _ _ => true) (q.addNear s sp own r h) scanFuel 0 td l with
    | none => none
    | some (some .wait, _) => none
    | some (some (.fault _), _, _, rest, l) => q.allNears s sp own r h fuel rest l
    | some (none, _, _, _, l) => some l

/-- The near candidates of a hit, in order, whatever boxes the ray meets; none where the unit waits. What the unit cannot read
is a fault where the ray meets its boxes up to bound + b (R324, log 34). -/
def Query.nears (q : Query) (s : State) (sp : Space) (own : List Nat) (r : RayRec) (h : Hit) :
    Option (Except RayStop (List Hit)) :=
  let root := [(Item.node q.root).todo]
  match scan s sp own q.root r.mask (fun _ b => (boxMeet r (nearBound h.t) b.1 b.2).isSome) (q.addNear s sp own r h)
      scanFuel 0 root [] with
  | none => none
  | some (some e, _) => some (.error e)
  | some (none, _) => (q.allNears s sp own r h scanFuel root []).map .ok

/-! ### Results (R314, R316, R323) -/

/-- The status word (R314). -/
def rayStatus (kind mode : Nat) (h : Option Hit) (noconv bad logf : Bool) (nears cause : Nat) : Nat :=
  let b := fun (x : Bool) (n : Nat) => if x then 2 ^ n else 0
  kind + (match h with
    | some h => b h.front 4 + b h.surf 5 + b h.proc 6 + 2 ^ 8 * (if kind = 1 then h.iter else 0)
    | none => 0) + b noconv 7 + b bad 13 + b logf 14 + b (decide (4 < nears)) 15 + 2 ^ 16 * min nears 4 + 2 ^ 20 * mode +
    2 ^ 24 * cause

/-- The fields HITT to HITLEAF, or T to INSTID with HITLEAF of a log, as a query ends: t, u, v, PRIMID, INSTID, LEAF. What
the manual gives no value to is free (log 32). -/
def State.hitFields (s : State) : QueryEnd → Nat × Nat × Nat × Nat × Nat × Nat
  | .hit h => (h.t, h.u, h.v, h.prim.toNat, h.inst.toNat, h.leaf.toNat)
  | .miss _ => (fmtF64.infImg, (s.freeVal 902).toNat, (s.freeVal 903).toNat, 0xFFFFFFFF, 0xFFFFFFFF, (s.freeVal 904).toNat)
  | _ => ((s.freeVal 905).toNat, (s.freeVal 902).toNat, (s.freeVal 903).toNat, (s.freeVal 906).toNat % 2 ^ 32,
          (s.freeVal 907).toNat % 2 ^ 32, (s.freeVal 904).toNat)

/-- KIND of the status word. -/
def QueryEnd.kind : QueryEnd → Nat
  | .miss _ => 0
  | .hit _ => 1
  | .candidate _ => 2
  | .fault _ => 3

/-- The result registers (R316). -/
def resultWords (e : QueryEnd) (status : Nat) : List Word :=
  match e with
  | .hit h => [BitVec.ofNat 32 status, h.prim, h.inst, BitVec.ofNat 32 (narrow h.t)]
  | .candidate h => [BitVec.ofNat 32 status, h.prim, h.inst, BitVec.ofNat 32 (narrow h.t)]
  | _ => [BitVec.ofNat 32 status, 0xFFFFFFFF, 0xFFFFFFFF, 0x7F800000]

/-- The operation at a place of the ray path, and what it captured for a lane: its offset, its record, the decision. -/
def Flight.rayLane (a : Flight) (lane : Nat) : Nat × Nat × Nat :=
  let i := ((Mask.lanes a.act).filter (fun L => decide (L < lane))).length
  (a.vals.getD (3 + 3 * i) 0, a.vals.getD (4 + 3 * i) 0, a.vals.getD (5 + 3 * i) 0)

/-- REPLAY: the offset of a lane's ray record, captured after the rest. -/
def Flight.laneOff (a : Flight) (lane : Nat) : Nat :=
  a.vals.getD (3 + 3 * (Mask.lanes a.act).length + ((Mask.lanes a.act).filter (fun L => decide (L < lane))).length) 0

/-- A lane's work is done: its result registers are written, and the counter falls with the last lane. -/
def State.rayDone (s : State) (w : Nat) (a : Flight) (lane : Nat) (ws : List Word) : State :=
  let d := match a.dests with
    | .v n :: _ => n
    | _ => 0
  s.modWave w (fun x =>
    let x := ((List.range ws.length).zip ws).foldl (fun x e => x.land a (.v (d + e.1)) lane e.2) x
    (x.modFlight a.seq (fun b => { b with lanesLeft := b.lanesLeft &&& ~~~ (Mask.one lane) })).settleFlights)

/-- A line that another engine owns, or that an earlier access of the wave is on its way to (R150). -/
def State.lineTaken (s : State) (w : Nat) (a : Flight) (l : Nat) : Bool :=
  s.ownedFor a.exports l || (s.wave w).earlierOn a.seq l

/-- A write of a unit to global memory waits until the unit owns the operation's lines (R14, R150). -/
def State.rayWriteWaits (s : State) (w : Nat) (a : Flight) (ps : List (Nat × Nat)) : Bool :=
  (linesOf ps).any (fun l => !(a.owned.contains l) && (a.lines.contains l || s.lineTaken w a l))

/-- The unit takes ownership of all the lines of an operation, once none is taken, and the issuing cluster's copies of them
go (R14, R150). -/
def State.takeLines (s : State) (w i : Nat) : State :=
  match (s.wave w).flight[i]? with
  | none => s
  | some a =>
    if a.owns || a.lines.isEmpty || a.lanesLeft = 0 || a.lines.any (s.lineTaken w a) then s
    else (s.dropCopies (s.wave w).cluster (fun l => a.lines.contains l)).modWave w (fun x =>
      x.modFlight a.seq (fun b => { b with owns := true }))

/-- The first operation, of a ray unit or the blend units, whose lines can be taken. -/
def State.takable (s : State) : Option (Nat × Nat) :=
  s.waves.findSome? (fun e => ((List.range e.2.flight.length).find? (fun i =>
    match e.2.flight[i]? with
    | some a => !a.owns && !a.lines.isEmpty && a.lanesLeft ≠ 0 && !(a.lines.any (s.lineTaken e.1 a))
    | none => false)).map (fun i => (e.1, i)))

/-- The bytes of a log record (R323). -/
def logBytes (rayid : Nat) (f : Nat × Nat × Nat × Nat × Nat × Nat) (status : Nat) (near : List Hit) : List Byte :=
  let (t, u, v, prim, inst, leaf) := f
  leBytes 4 rayid ++ leBytes 4 prim ++ leBytes 4 inst ++ leBytes 4 status ++ leBytes 8 t ++ leBytes 8 u ++ leBytes 8 v ++
    (List.range 4).flatMap (fun i => leBytes 4 ((near.map (fun h => h.prim.toNat)).getD i 0xFFFFFFFF)) ++ leBytes 8 leaf

/-- A query ends (R316, R323, R328, R329): the log record, the ray record's fields, and the registers. -/
def State.endQuery (s : State) (w : Nat) (a : Flight) (lane off : Nat) (r : RayRec) (q : Query) (e : QueryEnd)
    (near : List Hit) : State :=
  let x := s.wave w
  let bad : Bool := match e with
    | .miss b => b
    | _ => false
  let hit := match e with
    | .hit h => some h
    | _ => none
  let cause := match e with
    | .fault e => e.cause
    | _ => 0
  let status := fun (logf : Bool) (c : Nat) => rayStatus e.kind q.mode hit (q.noconv && !bad) bad logf near.length c
  let f := s.hitFields e
  let s1 := match e with
    | .fault e => s.engFault 3 .read x.engSpace x.cluster x.csr.launchid e
    | _ => s
  let (s2, logf, cause) : State × Bool × Nat :=
    if !q.log then (s1, false, cause)
    else
      let va := BitVec.ofNat 64 (a.vals.getD 2 0 + 64 * r.rayid)
      match s1.engWrite x.engSpace va (logBytes r.rayid f (status false cause) near) with
      | .ok s' => (s', false, cause)
      | .error le => (s1.engFault 3 .write x.engSpace x.cluster x.csr.launchid le, true, le.cause)
  let st := status logf cause
  let (t, u, v, prim, inst, leaf) := f
  let bs := leBytes 8 t ++ leBytes 8 u ++ leBytes 8 v ++ leBytes 4 prim ++ leBytes 4 inst ++ leBytes 8 leaf ++ leBytes 4 st
  (s2.scrWrite x.gang (off + 0x70) bs).rayDone w a lane (resultWords e st)

/-- A query suspends on a candidate (R316, R322). What TRAV of another record keeps is none the less a query. -/
def State.suspendQuery (s : State) (w : Nat) (a : Flight) (lane off : Nat) (recd : List Byte) (q : Query) (h : Hit) : State :=
  let x := s.wave w
  let st := rayStatus 2 q.mode (some h) q.noconv false false 0 0
  let trav := (List.range 8).flatMap (fun i => leBytes 8 (s.freeVal (950 + i)).toNat)
  let older := s.travs.map (fun e => if e.gang = x.gang ∧ e.off = off then { e with stands := false } else e)
  let new : Trav := { asid := x.csr.asid, world := x.csr.world, gang := x.gang, off, stands := true, ray := recd.take 64,
                      bytes := trav, q }
  let s := { s with travs := new :: older }
  let bs := leBytes 8 h.t ++ leBytes 8 h.u ++ leBytes 8 h.v ++ leBytes 4 h.prim.toNat ++ leBytes 4 h.inst.toNat ++
    leBytes 8 h.leaf.toNat
  (((s.scrWrite x.gang (off + 0x48) bs).scrWrite x.gang (off + 0x98) (leBytes 4 st)).scrWrite x.gang (off + 0xC0)
    trav).rayDone w a lane (resultWords (.candidate h) st)

/-- Faults of the unit, in turn, of which one finds the section's merge table full: it waits (R296). -/
def State.rayFaultsWait (s : State) (x : Wave) : List EngErr → Bool
  | [] => false
  | e :: r => s.faultWaits x.cluster x.csr.asid e || (s.engFault 3 .read x.engSpace x.cluster x.csr.launchid e).rayFaultsWait x r

/-- The fault that stops an engine's write of `n` bytes. -/
def State.writeFault (s : State) (sp : Space) (va : Dword) (n : Nat) : List EngErr :=
  match s.engPlaces sp .write va n with
  | .ok _ => []
  | .error e => [e]

/-- The query that an operation runs for a lane. -/
def Flight.laneStart (a : Flight) (lane seed : Nat) : Query :=
  let start := fun (root : Dword) (mode : Nat) (cullb log : Bool) =>
    ({ root, mode, cullb, log, seed, todo := [(Item.node root).todo], noconv := false, best := none, cand := none,
       loose := false } : Query)
  match a.op with
  | .trace _ _ _ mode log cullb _ _ => start (BitVec.ofNat 64 (a.vals.getD 0 0)) mode.toNat (cullb = 1) (log = 1)
  | _ => a.queries.getD ((Mask.lanes a.act).filter (fun L => decide (L < lane))).length (start 0 0 false false)

/-- The operation is one of queries. -/
def Flight.traces (a : Flight) : Bool :=
  match a.op with
  | .trace .. => true
  | .tracec .. => true
  | _ => false

/-- A lane's query takes its turn: it ends, or suspends, as the step says; otherwise nothing happens yet. Subject: wave,
place on the ray path, lane, and the unit's choices: those of a TRACE's visits, and how a query from a changed TRAV ends.
A record that proves uncorrectable is a fault (R328). -/
def State.queryTurn (s : State) (suspends : Bool) : State :=
  let w := s.arg 0
  let lane := s.arg 2
  match (s.wave w).onPath 4 (s.arg 1) with
  | none => s
  | some a =>
    if !a.traces || !(a.lanesLeft.getLsbD lane) then s
    else
      let (off, rn, dec) := a.rayLane lane
      let recd := leBytes 256 rn
      let r := rayOf recd
      let q := a.laneStart lane (s.arg 3)
      let sp := (s.wave w).engSpace
      let logVa := BitVec.ofNat 64 (a.vals.getD 2 0 + 64 * r.rayid)
      let run : Option (Query × QueryEnd) := match s.scrBad (s.wave w).gang off 256 with
        | some o => some (q, .fault { cause := causeUncorr, va := BitVec.ofNat 64 o, bad := false })
        | none => laneQuery s sp a.owned q recd (if dec < 3 then some dec else none) (s.arg 4)
      match run with
      | none => s
      | some (q, e) =>
        match suspends, e with
        | true, .candidate h => s.suspendQuery w a lane off recd q h
        | true, _ => s
        | false, .candidate _ => s
        | false, e =>
          let waits : Bool := q.log && (match s.engPlaces sp .write logVa 64 with
            | .ok ps => s.rayWriteWaits w a ps
            | .error _ => false)
          let ends := fun (e : QueryEnd) (near : List Hit) =>
            let found := match e with
              | .fault fe => [fe]
              | _ => []
            let logged := if q.log then s.writeFault sp logVa 64 else []
            if s.rayFaultsWait (s.wave w) (found ++ logged) then s else s.endQuery w a lane off r q e near
          if waits then s
          else match e, q.log with
            | .hit h, true =>
              (match q.nears s sp a.owned r h with
                | none => s
                | some (.error .wait) => s
                | some (.error (.fault fe)) => ends (.fault fe) []
                | some (.ok near) => ends e near)
            | _, _ => ends e []

/-- RAY_QUERY_END (R316): a query ends. -/
def execRayQueryEnd (s : State) : Host.Outcome State Fault Refusal := .next (s.queryTurn false)

/-- RAY_QUERY_SUSPEND (R316): a query suspends on a candidate. -/
def execRayQuerySuspend (s : State) : Host.Outcome State Fault Refusal := .next (s.queryTurn true)

/-! ### REPLAY (R325, R326) -/

/-- x, x², x³, … by repeated multiplication, `n` of them. -/
def powers (x : Nat) : Nat → Nat → List Nat
  | 0, _ => []
  | n + 1, y => y :: powers x n (fmtF64.mul y x)

/-- A sum over i of products (R326). -/
def dot3 (a b : Nat → Nat) : Nat :=
  fmtF64.fma (a 2) (b 2) (fmtF64.fma (a 1) (b 1) (fmtF64.mul (a 0) (b 0)))

/-- A sum of terms in order. -/
def sumF64 : List Nat → Nat
  | [] => 0
  | x :: r => r.foldl fmtF64.add x

/-- The derivatives that depend on the kind of record: N, dt/dO, dt/dD, dt/dparameters, and DNDXY. -/
structure Derivs where
  n : List Nat
  dO : List Nat
  dD : List Nat
  dPar : List Nat
  dN : List Nat
  deriving DecidableEq, Repr

/-- Of a triangle. -/
def triDerivs (r : RayRec) (vs : List Nat) (t u v : Nat) : Derivs :=
  let f := fmtF64
  let p := fun (k i : Nat) => wide (el vs (3 * k + i))
  let e := fun (k i : Nat) => f.sub (p k i) (p 0 i)
  let n := (List.range 3).map (fun i =>
    let (j, k) := ((i + 1) % 3, (i + 2) % 3)
    f.sub (f.mul (e 1 j) (e 2 k)) (f.mul (e 1 k) (e 2 j)))
  let den := dot3 (el n) (el r.d)
  let par := fun (c : Nat) => n.map (fun m => f.div (f.mul c m) den)
  { n,
    dO := n.map (fun m => f.div (f.neg m) den),
    dD := n.map (fun m => f.div (f.neg (f.mul t m)) den),
    dPar := par (f.sub (f.sub (f.int 1) u) v) ++ par u ++ par v ++ List.replicate 25 0,
    dN := [0, 0, 0] }

/-- G' (R326). -/
def surfG' (y : Surface) (kp p sq r : Nat) : Nat :=
  let f := fmtF64
  let pw := f.int 1 :: powers p 9 p
  let ev := sumF64 ((List.range y.neven).map (fun j =>
    f.mul (f.mul (f.int (((j + 2) * (j + 1) : Nat) : Int)) (el y.even j)) (el pw j)))
  let od := sumF64 ((List.range y.nodd).map (fun j =>
    f.mul (f.mul (f.div (f.int (((2 * j + 3) * (2 * j + 1) : Nat) : Int)) (f.int 4)) (el y.odd j)) (el pw j)))
  f.add (f.add (f.div (f.mul kp (f.mul (f.mul y.c y.c) y.c)) (f.mul (f.int 4) (f.mul (f.mul sq sq) sq))) ev) (f.div od r)

/-- Of a surface, at the final t. -/
def surfDerivs (r : RayRec) (y : Surface) (t : Nat) : Derivs :=
  let f := fmtF64
  let (o, d) := y.localRay r
  let e := surfEval y o d t
  let rr := f.sqrt e.p
  let kp := f.add (f.int 1) y.k
  let g2 := f.mul (f.int 2) e.G
  let gq := [f.neg (f.mul g2 e.x), f.neg (f.mul g2 e.y), f.int 1]
  let one := f.add (f.int 1) e.sq
  let one2 := f.mul one one
  let pp := f.mul e.p e.p
  let fO := fun (j : Nat) => dot3 (el gq) (fun i => el y.m (4 * i + j))
  let dC := f.neg (f.add (f.div e.p one) (f.div (f.mul (f.mul kp (f.mul y.c y.c)) pp) (f.mul e.sq one2)))
  let dK := f.div (f.neg (f.mul (f.mul (f.mul y.c y.c) y.c) pp)) (f.mul (f.mul (f.int 2) e.sq) one2)
  let pw := powers e.p 11 e.p
  let dE := (List.range 10).map (fun j => f.neg (el pw (j + 1)))
  let dO' := (List.range 10).map (fun j => f.neg (f.mul (el pw j) rr))
  let w := (List.range 3).map (fun i => f.fma t (el r.d i) (el r.o i)) ++ [f.int 1]
  let dM := (List.range 12).map (fun i => f.mul (el gq (i / 4)) (el w (i % 4)))
  let byFp := fun (x : Nat) => f.div (f.neg x) e.Fp
  let g' := surfG' y kp e.p e.sq rr
  let dn := fun (a b : Nat) => f.mul (f.mul (f.int 4) (f.mul a b)) g'
  { n := gq,
    dO := (List.range 3).map (fun j => byFp (fO j)),
    dD := (List.range 3).map (fun j => byFp (f.mul t (fO j))),
    dPar := ([dC, dK] ++ dE ++ dO' ++ dM).map byFp,
    dN := [f.sub (f.neg g2) (dn e.x e.x), f.neg (dn e.x e.y), f.sub (f.neg g2) (dn e.y e.y)] }

/-- The bytes of an output record with STATUS 0 (R326): 0x70 of them, or all. -/
def outputBytes (full : Bool) (r : RayRec) (t : Nat) (g : Derivs) : List Byte :=
  let f := fmtF64
  let w := fun (xs : List Nat) => xs.flatMap (leBytes 8)
  let δ := fun (i j : Nat) => if i = j then f.int 1 else 0
  let nine := fun (h : Nat → Nat → Nat) => (List.range 9).map (fun k => h (k / 3) (k % 3))
  leBytes 8 0 ++ w ([t] ++ (List.range 3).map (fun i => f.fma t (el r.d i) (el r.o i)) ++ g.n ++ g.dO ++ g.dD) ++
    (if full then
      w (g.dPar ++ nine (fun i j => f.add (δ i j) (f.mul (el r.d i) (el g.dO j))) ++
        nine (fun i j => f.add (f.mul t (δ i j)) (f.mul (el r.d i) (el g.dD j))) ++ g.dN ++ [0, 0, 0])
    else [])

/-- What REPLAY finds for a lane (R325): the bytes written at the lane's output address. -/
def State.replayLane (s : State) (sp : Space) (own : List Nat) (full : Bool) (logVa : Dword) (r : RayRec) :
    Except RayStop (List Byte) :=
  match s.rayRead sp own logVa 64 with
  | .error e => .error e
  | .ok lg =>
    let st := fieldNat lg 0x0C 4
    let mode := st / 2 ^ 20 % 4
    let surf : Bool := st / 32 % 2 = 1
    if st % 16 ≠ 1 then .ok (leBytes 4 2)
    else if mode = 3 then .ok (leBytes 4 1)
    else
      let kind := if surf then 2 else 1
      let leaf : Dword := BitVec.ofNat 64 (fieldNat lg 0x38 8)
      match s.rayRead sp own leaf (leafBytes kind) with
      | .error e => .error e
      | .ok bs =>
        if !(leafOk kind leaf bs) then .error (brokenScene leaf)
        else
          let same := fun (h : Hit) => h.t = fieldNat lg 0x10 8 && h.u = fieldNat lg 0x18 8 && h.v = fieldNat lg 0x20 8 &&
            h.prim.toNat = fieldNat lg 4 4 && h.inst.toNat = fieldNat lg 8 4
          match (testLeaf s mode false false r kind leaf bs).1 with
          | none => .ok (leBytes 4 1)
          | some h =>
            if !(same h) then .ok (leBytes 4 1)
            else .ok (outputBytes full r h.t
              (if surf then surfDerivs r (surfaceOf bs) h.t else triDerivs r (triVerts bs) h.t h.u h.v))

/-- REPLAY_LANE_END (R325): a lane's output record is written. Subject: wave, place on the ray path, lane. -/
def execReplayLaneEnd (s : State) : Host.Outcome State Fault Refusal :=
  let w := s.arg 0
  let lane := s.arg 2
  .next (match (s.wave w).onPath 4 (s.arg 1) with
    | none => s
    | some a =>
      match a.op with
      | .replay _ _ _ full _ =>
        if !(a.lanesLeft.getLsbD lane) then s
        else
          let x := s.wave w
          let (logVa, outVa, rn) := a.rayLane lane
          let put := fun (found : List EngErr) (bs : List Byte) =>
            let fault := fun (s : State) (acc : Access) (e : EngErr) => s.engFault 3 acc x.engSpace x.cluster x.csr.launchid e
            if s.rayFaultsWait x (found ++ s.writeFault x.engSpace (BitVec.ofNat 64 outVa) bs.length) then s
            else match s.engPlaces x.engSpace .write (BitVec.ofNat 64 outVa) bs.length with
              | .error e => (fault (found.foldl (fun s e => fault s .read e) s) .write e).rayDone w a lane []
              | .ok ps => if s.rayWriteWaits w a ps then s
                else ((found.foldl (fun s e => fault s .read e) s).putPieces ps bs).rayDone w a lane []
          let found : Except RayStop (List Byte) := match s.scrBad x.gang (a.laneOff lane) 256 with
            | some o => .error (.fault { cause := causeUncorr, va := BitVec.ofNat 64 o, bad := false })
            | none => s.replayLane x.engSpace a.owned (full = 1) (BitVec.ofNat 64 logVa) (rayOf (leBytes 256 rn))
          match found with
          | .error .wait => s
          | .error (.fault e) => put [e] (leBytes 4 (3 + 256 * e.cause))
          | .ok bs => put [] bs
      | _ => s)

/-! ### The instructions (R313, R315) -/

/-- TRAPARG of RAY: the subcode and the lowest failing lane. -/
def rayArg (sub lane : Nat) : Dword := BitVec.ofNat 64 (sub + 256 * lane)

/-- An earlier access of the wave to these scratch ranges is on its way: the unit reads after it (R150). -/
def Wave.scratchBusy (x : Wave) (os : List (Nat × Nat)) (n : Nat) : Bool :=
  x.flight.any (fun b => b.scratch && b.accs.any (fun c => os.any (fun o =>
    decide (c.pa < o.2 + n) && decide (o.2 < c.pa + c.size))))

/-- The ray record offsets of lanes. -/
def State.recordOffs (s : State) (w : Nat) (act : Mask) (a : Code) : List (Nat × Nat) :=
  (Mask.lanes act).map (fun L => (L, (s.readV w a.toNat L).toNat))

/-- The log base (R313). -/
def State.logBase (s : State) (w : Nat) (n : BitVec 4) : Dword :=
  Dword.ofWords (s.readS w (2 * n.toNat)) (s.readS w (2 * n.toNat + 1))

/-- The registers of a log base. -/
def logRegs (n : BitVec 4) : List Reg := [.s (2 * n.toNat), .s (2 * n.toNat + 1)]

/-- Check 4 of R315. -/
def logCheck (base : Dword) : Option (Nat × Dword) :=
  if !(canonical base) then some (causeProt, base)
  else if base.toNat % 64 ≠ 0 then some (causeMisalign, base)
  else none

/-- The physical lines of writes that translate: the unit takes them from issue on (R150, R323). -/
def State.rayLines (s : State) (x : Wave) (vas : List Dword) (n : Nat) : List Nat :=
  linesOf (vas.flatMap (fun va => s.areaPlaces x.engSpace .write (va, n)))

/-- Sends work to the ray unit: the counter rises, and the lines written are taken, where they can be. -/
def sendRay (f : Focus) (s : State) (op : Instr) (act : Mask) (dests : List Reg) (vals : List Nat) (lines : List Nat)
    (queries : List Query) : Res :=
  let t := s.launchFlight f.wave { memFlight f 4 .other false [] dests act with op, vals, lanesLeft := act, lines, queries }
  .done (if lines.isEmpty then t else t.takeLines f.wave ((t.wave f.wave).flight.length - 1))

/-- The suspended query that TRAV of a wave's ray record holds (R322): by its bytes one of the wave's address space and world
(R6). The unit knows the bytes that it has written at the record's place. Those of another record go on as that record's query
where the ray is its ray. With another ray, and where the unit has written other bytes by a free bit, they pass as a query that
software has changed (log 31). -/
def State.travAt (s : State) (x : Wave) (off : Nat) : Option Query :=
  let bs := s.scrRead x.gang (off + 0xC0) 64
  let mine := s.travs.filter (fun e => e.asid = x.csr.asid && e.world = x.csr.world)
  let here := mine.find? (fun e => e.stands && e.gang = x.gang && e.off = off)
  match here.filter (fun e => e.bytes = bs), mine.find? (fun e => e.bytes = bs) with
  | some e, _ => some e.q
  | none, some e => some { e.q with loose := e.q.loose || decide (e.ray ≠ s.scrRead x.gang off 64) }
  | none, none => here.bind (fun e => if s.freeBit (2 ^ 100 + off) then some { e.q with loose := true } else none)

/-- What a query of R316 captures of its lanes: offset, record and decision. -/
def State.queryVals (s : State) (g : Nat) (os : List (Nat × Nat)) (dec : Nat → Nat) : List Nat :=
  os.flatMap (fun o => [o.2, leNat (s.scrRead g o.2 256), dec o.1])

/-- The log addresses of lanes. -/
def State.logVas (s : State) (g : Nat) (base : Dword) (os : List (Nat × Nat)) : List Dword :=
  os.map (fun o => base + BitVec.ofNat 64 (64 * leNat (s.scrRead g (o.2 + 0x40) 4)))

/-- TRACE (R313, R315, R316). -/
def execTrace (d a b : Code) (mode : BitVec 2) (log cullb : BitVec 1) (logn : BitVec 4) (S : Stall) :
    State → Host.Outcome State Fault Refusal :=
  issue S
    (fun f s =>
      let x := s.wave f.wave
      { lanes := true, ok := vOkAl x d 4 4 && vOk x a 1 && hOk b,
        reads := vRegs a 1 ++ hRegs b ++ (if log = 1 then logRegs logn else []) ++ s.activeRegs f.wave f.split,
        writes := vRegs d 4, ra := .suppress })
    (fun f s =>
      let x := s.wave f.wave
      let act := s.live f.wave f.split
      let h := s.readH f.wave b.toNat
      let root := handleAddr h
      let base := s.logBase f.wave logn
      let os := s.recordOffs f.wave act a
      if act = 0 then .done s
      else if pathFull x 4 then .hold
      else if handleType h ≠ 5 then .trap causeRay (rayArg 1 (Mask.lowest act))
      else if !(canonical root) then .trap causeProt root
      else if root.toNat % 128 ≠ 0 then .trap causeRay (rayArg 2 (Mask.lowest act))
      else match (if log = 1 then logCheck base else none) with
        | some (c, t) => .trap c t
        | none =>
          match scratchForm 256 x.scrLimit os with
          | some (c, t) => .trap c t
          | none =>
            if x.scratchBusy os 256 then .hold
            else sendRay f s (.trace d a b mode log cullb logn S) act (vRegs d 4)
              ([root.toNat, 0, base.toNat] ++ s.queryVals x.gang os (fun _ => 3))
              (if log = 1 then s.rayLines x (s.logVas x.gang base os) 64 else []) [])

/-- The lanes of TRACEC whose suspended query logs. -/
def State.loggingLanes (s : State) (w : Nat) (os : List (Nat × Nat)) : List (Nat × Nat) :=
  let x := s.wave w
  os.filter (fun o => o.2 % 256 = 0 && decide (o.2 + 256 ≤ x.scrLimit) && (match s.travAt x o.2 with
    | some q => q.log
    | none => false))

/-- TRACEC (R313, R315, R316, R322). -/
def execTracec (d a b : Code) (logn : BitVec 4) (S : Stall) : State → Host.Outcome State Fault Refusal :=
  issue S
    (fun f s =>
      let x := s.wave f.wave
      let act := s.live f.wave f.split
      { lanes := true, ok := vOkAl x d 4 4 && vOk x a 1 && vOk x b 1,
        reads := vRegs a 1 ++ vRegs b 1 ++
          (if (s.loggingLanes f.wave (s.recordOffs f.wave act a)).isEmpty then [] else logRegs logn) ++
          s.activeRegs f.wave f.split,
        writes := vRegs d 4, ra := .suppress })
    (fun f s =>
      let x := s.wave f.wave
      let act := s.live f.wave f.split
      let base := s.logBase f.wave logn
      let os := s.recordOffs f.wave act a
      let logs := s.loggingLanes f.wave os
      let dec := fun L => (s.readV f.wave b.toNat L).toNat
      if act = 0 then .done s
      else if pathFull x 4 then .hold
      else match (if logs.isEmpty then none else logCheck base) with
        | some (c, t) => .trap c t
        | none =>
          match scratchForm 256 x.scrLimit os with
          | some (c, t) => .trap c t
          | none =>
            if x.scratchBusy os 256 then .hold
            else match os.find? (fun o => (s.travAt x o.2).isNone) with
              | some o => .trap causeRay (rayArg 3 o.1)
              | none =>
                match os.find? (fun o => decide (2 < dec o.1)) with
                | some o => .trap causeRay (rayArg 4 o.1)
                | none =>
                  sendRay f s (.tracec d a b logn S) act (vRegs d 4)
                    ([0, 0, base.toNat] ++ s.queryVals x.gang os dec)
                    (s.rayLines x (s.logVas x.gang base logs) 64) (os.filterMap (fun o => s.travAt x o.2)))

/-- REPLAY (R313, R315, R325). -/
def execReplay (d a b : Code) (full : BitVec 1) (S : Stall) : State → Host.Outcome State Fault Refusal :=
  issue S
    (fun f s =>
      let x := s.wave f.wave
      { lanes := true, ok := vOk x d 2 && vOk x a 2 && vOk x b 1,
        reads := vRegs d 2 ++ vRegs a 2 ++ vRegs b 1 ++ s.activeRegs f.wave f.split, ra := .suppress })
    (fun f s =>
      let x := s.wave f.wave
      let act := s.live f.wave f.split
      let logs := s.pairAddrs f.wave act a
      let outs := s.pairAddrs f.wave act d
      let os := s.recordOffs f.wave act b
      if act = 0 then .done s
      else if pathFull x 4 then .hold
      else match (logs.zip outs).findSome? (fun e => globalForm 64 [e.1, e.2]) with
        | some (c, t) => .trap c t
        | none =>
          match scratchForm 256 x.scrLimit os with
          | some (c, t) => .trap c t
          | none =>
            if x.scratchBusy os 256 then .hold
            else sendRay f s (.replay d a b full S) act []
              ([0, 0, 0] ++ ((logs.zip outs).zip os).flatMap (fun e =>
                [e.1.1.2.toNat, e.1.2.2.toNat, leNat (s.scrRead x.gang e.2.2 256)]) ++ os.map Prod.snd)
              (s.rayLines x (outs.map (fun e => e.2)) 576) [])

end Sys2Proof.Machine
end

