-- ==== Sys2Proof/Machine/Graphics.lean ====
section
/-! DEFINITION. The graphics class: draw records (R331, R332), PRIMEMIT and the raster engines (R334 to R338, R344), pixel
waves (R339), ATTR (R340), the ordered interlock (R341), and export and blending (R342). -/

namespace Sys2Proof.Machine

/-! ### Draw records (R332) -/

/-- A target of a draw record. -/
structure Target where
  base : Dword
  fmt : Nat
  mode : Nat
  deriving DecidableEq, Repr

/-- A draw record. -/
structure Draw where
  entry : Dword
  args : Dword
  attrbase : Dword
  zbase : Dword
  lockbase : Dword
  locklen : Nat
  vregs : Nat
  samples : Nat
  zwrite : Bool
  zfunc : Nat
  ordered : Bool
  earlyz : Bool
  width : Nat
  height : Nat
  pitchpx : Nat
  rt : List Target
  deriving DecidableEq, Repr

/-- The record of 128 bytes. -/
def drawOf (bs : List Byte) : Draw :=
  let n := fieldNat bs
  let d := fun o => BitVec.ofNat 64 (n o 8)
  { entry := d 0, args := d 8, attrbase := d 0x10, zbase := d 0x18, lockbase := d 0x20, locklen := n 0x28 4,
    vregs := n 0x2C 1, samples := n 0x2D 1, zwrite := n 0x2E 1 / 128 = 1, zfunc := n 0x2E 1 % 4, ordered := n 0x2F 1 / 2 % 2 = 1,
    earlyz := n 0x2F 1 % 2 = 1, width := n 0x30 2, height := n 0x32 2, pitchpx := n 0x34 4,
    rt := [0x40, 0x50].map (fun o => { base := d o, fmt := n (o + 8) 1, mode := n (o + 9) 1 }) }

/-- A draw record is valid (R332). -/
def drawOk (bs : List Byte) : Bool :=
  let d := drawOf bs
  let n := fieldNat bs
  canonical d.entry && d.entry.toNat % 4 = 0 && (d.zfunc = 0 || d.zbase.toNat % 64 = 0) && d.lockbase.toNat % 128 = 0 &&
  d.locklen % 128 = 0 && decide (2 ≤ d.vregs) && decide (d.vregs ≤ 16) && decide (d.samples ≤ 3) &&
  n 0x2E 1 / 4 % 32 = 0 && decide (n 0x2F 1 < 4) && decide (1 ≤ d.width) && decide (d.width ≤ 16384) &&
  decide (1 ≤ d.height) && decide (d.height ≤ 16384) && decide (d.width ≤ d.pitchpx) && n 0x38 8 = 0 && n 0x60 32 = 0 &&
  d.rt.all (fun t => t.base.toNat % 64 = 0 && decide (t.fmt ≤ 4) && decide (t.mode ≤ 2)) && n 0x4A 6 = 0 && n 0x5A 6 = 0

/-- Sample positions in sixteenths of a pixel (R332). -/
def samplePos (samples : Nat) : List (Nat × Nat) :=
  match samples with
  | 0 => [(8, 8)]
  | 1 => [(4, 12), (12, 4)]
  | 2 => [(2, 6), (10, 2), (6, 14), (14, 10)]
  | _ => [(1, 9), (3, 3), (5, 13), (7, 7), (9, 1), (11, 11), (13, 5), (15, 15)]

/-- Where a sample of a pixel lies in a plane of the record (R332). -/
def Draw.sampleVa (d : Draw) (base : Dword) (bpp smp x y : Nat) : Dword :=
  base + BitVec.ofNat 64 (((smp * d.height + y) * d.pitchpx + x) * bpp)

/-- Bytes of a pixel of a format. -/
def targetBpp (fmt : Nat) : Nat := if fmt = 2 then 8 else if fmt = 4 then 16 else 4

/-- The record of a primitive. -/
def Prim.record (p : Prim) : Draw := drawOf p.draw

/-! ### Regions and geometry (R331, R336, R337) -/

/-- A coordinate snapped to 1/256 pixel (R336): none where it has no snapped place. -/
def snap (x : Word) : Option Int :=
  match decodeNum fmtF32 x.toNat with
  | .fin n m e =>
    let (k, _) := if e + 8 < 0 then roundAt 0 n m (2 ^ (-(e + 8)).toNat) 0 else (m * 2 ^ (e + 8).toNat, false)
    if k < 2 ^ 22 then some (if n then -(k : Int) else k) else none
  | _ => none

/-- Coordinate `c` of vertex `k`: X, Y, Z, RW. -/
def Prim.vert (p : Prim) (k c : Nat) : Word := p.verts.getD (4 * k + c) 0

/-- The snapped X and Y of the vertices. -/
def Prim.snapped (p : Prim) : Option (List (Int × Int)) :=
  match snap (p.vert 0 0), snap (p.vert 0 1), snap (p.vert 1 0), snap (p.vert 1 1), snap (p.vert 2 0), snap (p.vert 2 1) with
  | some a, some b, some c, some d, some e, some f => some [(a, b), (c, d), (e, f)]
  | _, _, _, _, _, _ => none

/-- The least and the greatest of numbers. -/
def rangeOf : List Int → Int × Int
  | [] => (0, 0)
  | x :: r => r.foldl (fun b y => (min b.1 y, max b.2 y)) (x, x)

/-- The sections that receive a primitive (R331). -/
def Prim.sections (p : Prim) : List Nat :=
  match p.snapped with
  | none => []
  | some vs =>
    let (x0, x1) := rangeOf (vs.map Prod.fst)
    let (y0, y1) := rangeOf (vs.map Prod.snd)
    let span := fun (a b : Int) =>
      (List.range (min 8 (b / 16384 - a / 16384).toNat.succ)).map (fun (i : Nat) => a / 16384 + Int.ofNat i)
    ((span x0 x1).flatMap (fun rx => (span y0 y1).map (fun ry => ((rx + 3 * ry) % 8).toNat))).eraseDups

/-- E_ij(P). -/
def edgeFn (a b : Int × Int) (px py : Int) : Int := (b.1 - a.1) * (py - a.2) - (b.2 - a.2) * (px - a.1)

/-- A primitive set up: its vertices, and A. -/
structure Setup where
  v0 : Int × Int
  v1 : Int × Int
  v2 : Int × Int
  area : Int
  deriving DecidableEq, Repr

/-- Sets up a primitive, unless it is discarded (R336). -/
def Prim.setup (p : Prim) : Option Setup :=
  let bad := (List.range 3).any (fun k => (List.range 4).any (fun c =>
    match decodeNum fmtF32 (p.vert k c).toNat with
    | .fin n m _ => c = 3 && (n || m = 0)
    | _ => true))
  match bad, p.snapped with
  | false, some [a, b, c] =>
    let area := edgeFn a b c.1 c.2
    if area = 0 ∨ (p.cull = 1 ∧ area < 0) ∨ (p.cull = 2 ∧ 0 < area) then none else some { v0 := a, v1 := b, v2 := c, area }
  | _, _ => none

/-- FRONT. -/
def Setup.front (t : Setup) : Bool := decide (0 < t.area)

/-- E_12, E_20 and E_01 at a point, before any negation. -/
def Setup.edges (t : Setup) (px py : Int) : List Int :=
  [edgeFn t.v1 t.v2 px py, edgeFn t.v2 t.v0 px py, edgeFn t.v0 t.v1 px py]

/-- Edge (i, j) is top-left after the negation of a primitive whose A is negative. -/
def topLeft (a b : Int × Int) : Bool := decide (b.2 < a.2) || (b.2 = a.2 && decide (a.1 < b.1))

/-- The point of a sample, in 1/256 pixel. -/
def samplePoint (x y : Nat) (pos : Nat × Nat) : Int × Int := (256 * x + 16 * pos.1, 256 * y + 16 * pos.2)

/-- A sample is covered (R336). -/
def Setup.covers (t : Setup) (x y : Nat) (pos : Nat × Nat) : Bool :=
  let (px, py) := samplePoint x y pos
  let pairs := if t.front then [(t.v1, t.v2), (t.v2, t.v0), (t.v0, t.v1)] else [(t.v2, t.v1), (t.v0, t.v2), (t.v1, t.v0)]
  pairs.all (fun e => let v := edgeFn e.1 e.2 px py; decide (0 < v) || (v = 0 && topLeft e.1 e.2))

/-- A finite F32 in units of 2^-149. -/
def f32Units (x : Word) : Int :=
  match decodeNum fmtF32 x.toNat with
  | .fin n m e => inUnits n m e (-149)
  | _ => 0

/-- A quotient rounded once to F32; of zero, +0. -/
def roundQuot (num den : Int) : Nat :=
  if num = 0 ∨ den = 0 then 0
  else (roundNum fmtF32 envRNE (decide (num < 0) ^^ decide (den < 0)) num.natAbs den.natAbs).1

/-- Σ of the edges at a point with a coordinate of each vertex. -/
def Setup.sum (t : Setup) (p : Prim) (c : Nat) (px py : Int) : Int :=
  ((t.edges px py).zip ((List.range 3).map (fun k => f32Units (p.vert k c)))).foldl (fun n e => n + e.1 * e.2) 0

/-- u, or v, at a pixel (R337): k is the vertex whose weight it is. -/
def Setup.bary (t : Setup) (p : Prim) (k x y : Nat) : Nat :=
  let (px, py) := samplePoint x y (8, 8)
  roundQuot ((t.edges px py).getD k 0 * f32Units (p.vert k 3)) (t.sum p 3 px py)

/-- Depth at a sample (R337). -/
def Setup.depth (t : Setup) (p : Prim) (x y : Nat) (pos : Nat × Nat) : Nat :=
  let (px, py) := samplePoint x y pos
  let z := roundQuot (t.sum p 2 px py) (t.area * 2 ^ 149)
  if fmtF32.signBit ≤ z then 0 else min z 0x3F800000

/-- The quads of a primitive with a covered sample in a section's regions: their origins and coverage (R336, R339). -/
def Setup.quads (t : Setup) (d : Draw) (sec : Nat) : List (Nat × Nat × Nat) :=
  let (x0, x1) := rangeOf [t.v0.1, t.v1.1, t.v2.1]
  let (y0, y1) := rangeOf [t.v0.2, t.v1.2, t.v2.2]
  let span := fun (a b : Int) (n : Nat) =>
    let lo := (max 0 (a / 256)).toNat / 2
    (List.range ((min ((n : Int) - 1) (b / 256)).toNat / 2 + 1 - lo)).map (fun i => 2 * (lo + i))
  if x1 < 0 ∨ y1 < 0 then []
  else
    ((span y0 y1 d.height).flatMap (fun y => (span x0 x1 d.width).map (fun x => (x, y)))).filterMap (fun o =>
      if (o.1 / 64 + 3 * (o.2 / 64)) % 8 ≠ sec then none
      else
        let cov := (List.range 4).foldl (fun n j =>
          let x := o.1 + j % 2
          let y := o.2 + j / 2
          if x < d.width ∧ y < d.height then
            (((List.range 8).zip (samplePos d.samples)).filter (fun e => t.covers x y e.2)).foldl (fun n e => n + 2 ^ (8 * j + e.1)) n
          else n) 0
        if cov = 0 then none else some (o.1, o.2, cov))

/-! ### PRIMEMIT (R333, R334) -/

/-- A pixel wave (R339). -/
def Wave.isPixel (x : Wave) : Bool := x.origin = 2

/-- A gang may still emit: not all of its waves have ended (R335). -/
def Gang.streamOpen (g : Gang) : Bool := g.live && decide (g.ended.length < g.waves)

/-- A gang of the task with a GANGIDX below `n` may still emit: it is open, or is not placed yet. -/
def State.earlierOpen (s : State) (t n : Nat) : Bool :=
  let k := s.task t
  s.gangs.any (fun e => e.2.streamOpen && e.2.task = t && decide (e.2.gidx < n)) ||
    (k.state = .started && ((List.range (k.gangs - k.nextGang)).any (fun i =>
      let (x, y, z) := k.coords (k.nextGang + i)
      decide (x + k.gx * (y + k.gy * z) < n))))

/-- The stream of a gang is the oldest open one (R334): no earlier gang of its task is open, and no task before it has one. -/
def State.oldestStream (s : State) (g : Gang) : Bool :=
  !(s.earlierOpen g.task g.gidx) &&
    !(s.gangs.any (fun e => e.2.streamOpen && decide ((s.task e.2.task).order < (s.task g.task).order)))

/-- A section's store takes `n` more primitives of wave `i` of a gang: room is kept for the next PRIMEMIT of the oldest stream,
which is one of the first wave of its gang that has not ended (R335). -/
def State.storeTakes (s : State) (g : Gang) (i sec n : Nat) : Bool :=
  let used := (s.raster sec).store.length
  decide (used + n + (if s.oldestStream g && (List.range i).all g.ended.contains then 0 else 64) ≤ 4096)

/-- PRIMEMIT (R333, R334). While a store has no room it is tried again, and has changed nothing. -/
def execPrimemit (a b : Code) (cull : BitVec 2) (S : Stall) (lit : Option Word) : State → Host.Outcome State Fault Refusal :=
  issue S
    (fun f s =>
      let x := s.wave f.wave
      { lanes := true, ok := vOkAl x a 16 16 && pairSrcOk false b,
        reads := vRegs a 16 ++ pairRegs f.split b ++ s.activeRegs f.wave f.split, ra := .suppress })
    (fun f s =>
      let x := s.wave f.wave
      let act := s.active f.wave f.split
      let va := s.readPair f.wave f.split lit b
      if x.isPixel then engTrap 50
      else if act = 0 then .done s
      else match checkVa s (s.space f.wave) .read 128 va with
        | .trap c => .trap c va
        | .miss bad => .xlate false bad (accessBits .read) 0xFF va []
        | .ok pa =>
          if s.badAt pa 128 then .trap causeUncorr va
          else if s.lineOwned (pa / 128) ∨ !(s.mayLoad f.wave f pa 128) then .hold
          else
            let bs := s.homeRead pa 128
            let s := s.shade f.wave x.seq pa 128
            if !(drawOk bs) then engTrap 51
            else
              let g := s.gang x.gang
              let prims := (Mask.lanes act).map (fun L =>
                let v := fun (i : Nat) => s.readV f.wave (a.toNat + i) L
                ({ task := g.task, gidx := g.gidx, widx := x.idx, count := x.seq, lane := L, draw := bs, drawVa := va,
                   cull := cull.toNat, verts := (List.range 12).map v, primid := v 12, idx := [v 13, v 14, v 15],
                   asid := x.csr.asid, ttbase := x.csr.ttbase, world := x.csr.world } : Prim))
              let bound := fun (sec : Nat) => prims.filter (fun p => p.sections.contains sec)
              if (List.range 8).any (fun sec => !(bound sec).isEmpty && !(s.storeTakes g x.idx sec (bound sec).length)) then .hold
              else
                let s := (List.range 8).foldl (fun s sec =>
                  if (bound sec).isEmpty then s else s.modRaster sec (fun r => { r with store := r.store ++ bound sec })) s
                .done (s.modWave f.wave (fun x => { x with seq := x.seq + 1 })))

/-! ### Primitive order and depth (R335, R338) -/

/-- One primitive comes before another of its task (R335). -/
def Prim.before (p q : Prim) : Bool :=
  let k := fun (p : Prim) => [p.gidx, p.widx, p.count, p.lane]
  (k p).lex (k q)

/-- A primitive may be taken: none of its task that comes before it is in the store or can still be emitted. -/
def State.takeable (s : State) (r : Raster) (p : Prim) : Bool :=
  !(r.store.any (fun q => q.task = p.task && q.before p)) && !(s.earlierOpen p.task p.gidx) &&
    !(s.gangs.any (fun e => e.2.streamOpen && e.2.task = p.task && e.2.gidx = p.gidx &&
      (List.range p.widx).any (fun i => decide (i < e.2.waves) && !(e.2.ended.contains i))))

/-- The space of the raster engine of a section for a primitive: its own world (R378). -/
def State.rasterSpace (s : State) (sec : Nat) (p : Prim) : Space :=
  { asid := p.asid, ttbase := p.ttbase, secure := (s.raster sec).secure, tlbs := [320 + sec] }

/-- What a unit of the raster path meets at a sample's place. -/
inductive Touched where
  | at (pa : Nat)
  /-- Refused, or uncorrectable: the sample is left alone (log 36). -/
  | no
  /-- An engine outside the raster path owns the line. -/
  | wait
  | miss (e : EngErr)
  deriving DecidableEq, Repr

/-- Touches the `n` bytes of a sample. -/
def State.touchSample (s : State) (sp : Space) (acc : Access) (n : Nat) (va : Dword) : Touched :=
  match checkVa s sp acc n va with
  | .trap _ => .no
  | .miss bad => .miss { cause := causeXlate, va, bad }
  | .ok pa => if s.ownedFor true (pa / 128) then .wait else if acc ≠ .write ∧ s.badAt pa n then .no else .at pa

/-- The first place that is not ready: what the unit waits for. -/
def firstMiss (ts : List Touched) : Option (Option EngErr) :=
  ts.findSome? (fun t => match t with
    | .wait => some none
    | .miss e => some (some e)
    | _ => none)

/-- A unit of the raster path waits: for a page, with a record whose requester the manual does not name (log 36). -/
def State.rasterWaits (s : State) (sec : Nat) (sp : Space) (acc : Access) (launchid : Word) : Option EngErr → State
  | none => s
  | some e => s.engFault (1 + (s.freeVal 910).toNat % 6) acc sp (8 * sec) launchid e

/-- ZFUNC (R338). -/
def depthPasses (zfunc z old : Nat) : Bool :=
  match zfunc with
  | 0 => true
  | 1 => fmtF32.lt z old
  | 2 => fmtF32.le z old
  | _ => true

/-- How the depth plane is accessed. -/
def Draw.zAccess (d : Draw) : Access := if d.zwrite then .readWrite else .read

/-- Tests and writes a sample's depth (R338): the state, and whether it passes. -/
def State.depthTest (s : State) (d : Draw) (t : Touched) (z : Nat) : State × Bool :=
  match t with
  | .at pa =>
    if depthPasses d.zfunc z (s.readNat pa 4) then (if d.zwrite then s.writeMem pa (leBytes 4 z) else s, true) else (s, false)
  | _ => (s, s.freeBit 911)

/-- The covered samples of a lane of a quad. -/
def Quad.samples (q : Quad) (j : Nat) : List Nat := (List.range 8).filter (fun i => q.cover / 2 ^ (8 * j + i) % 2 = 1)

/-- The pixel of lane `j` of a quad (R339). -/
def Quad.pixel (q : Quad) (j : Nat) : Nat × Nat := (q.x + j % 2, q.y + j / 2)

/-- Every covered sample of a quad: lane, sample. -/
def Quad.all (q : Quad) : List (Nat × Nat) := (List.range 4).flatMap (fun j => (q.samples j).map (fun i => (j, i)))

/-- An earlier primitive of the task covers one of these samples of a pixel. -/
def Raster.covered (r : Raster) (task ord px py samples : Nat) (f : LaneCov → Bool) : Bool :=
  r.cov.any (fun c => c.task = task && decide (c.ord < ord) && c.px = px && c.py = py && Nat.land c.samples samples ≠ 0 && f c)

/-- The early test of a quad (R338): the state, and the coverage left. -/
def State.earlyQuad (s : State) (sp : Space) (d : Draw) (t : Setup) (q : Quad) : State × Quad :=
  q.all.foldl (fun e k =>
    let (x, y) := q.pixel k.1
    let z := t.depth q.prim x y ((samplePos d.samples).getD k.2 (8, 8))
    let (s, ok) := e.1.depthTest d (e.1.touchSample sp d.zAccess 4 (d.sampleVa d.zbase 4 k.2 x y)) z
    (s, if ok then e.2 else { e.2 with cover := e.2.cover - 2 ^ (8 * k.1 + k.2) })) (s, q)

/-- The coverage of a quad's lanes as the interlock and the blend units keep it (R341). -/
def Quad.covs (q : Quad) (late : Bool) : List LaneCov :=
  (List.range 4).filterMap (fun j =>
    let c := q.cover / 2 ^ (8 * j) % 256
    if c = 0 then none
    else some { task := q.prim.task, ord := q.ord, px := (q.pixel j).1, py := (q.pixel j).2, samples := c, wave := none,
                unlocked := false, late })

/-- A primitive more of its stream: 64 make a batch (R344). -/
def Raster.batchStep (r : Raster) (p : Prim) : List (Nat × Nat × Nat) :=
  let n := match r.batch.find? (fun b => b.1 = p.task && b.2.1 = p.gidx) with
    | some b => b.2.2
    | none => 0
  let rest := r.batch.filter (fun b => !(b.1 = p.task && b.2.1 = p.gidx))
  if n + 1 = 64 then rest else rest ++ [(p.task, p.gidx, n + 1)]

/-- The engine stands at a batch boundary: no stream is inside a batch to which primitives may still come (R344). -/
def State.batchBoundary (s : State) (r : Raster) : Bool :=
  r.batch.all (fun b => !(r.store.any (fun p => p.task = b.1 && p.gidx = b.2.1)) &&
    !(s.gangs.any (fun e => e.2.streamOpen && e.2.task = b.1 && e.2.gidx = b.2.1)))

/-- The quads of a primitive rasterised before, that no wave has been launched with: with the samples that passed (R338, R344). -/
def Raster.quadsAgain (r : Raster) (sec : Nat) (p : Prim) (ord : Nat) : List Quad :=
  match p.setup with
  | none => []
  | some t => (t.quads p.record sec).filterMap (fun q =>
      let cover := r.cov.foldl (fun n c =>
        if c.task = p.task && c.ord = ord && c.wave.isNone && c.px / 2 = q.1 / 2 && c.py / 2 = q.2.1 / 2 then
          n + c.samples * 2 ^ (8 * (c.px % 2 + 2 * (c.py % 2)))
        else n) 0
      if cover = 0 then none else some { prim := p, ord, x := q.1, y := q.2.1, cover })

/-- Rasterises a primitive taken from the store. -/
def State.rasterise (s : State) (sec : Nat) (p : Prim) : State :=
  let r := s.raster sec
  let d := p.record
  let ord := r.ord + 1
  let take := fun (s : State) => s.modRaster sec (fun r =>
    { r with store := r.store.erase p, ord, batch := r.batchStep p })
  match p.setup with
  | none => take s
  | some t =>
    let qs : List Quad := (t.quads d sec).map (fun q => { prim := p, ord, x := q.1, y := q.2.1, cover := q.2.2 })
    let sp := s.rasterSpace sec p
    let add := fun (s : State) (qs : List Quad) => (take s).modRaster sec (fun r =>
      { r with waiting := r.waiting ++ qs, cov := r.cov ++ qs.flatMap (fun q => q.covs (!d.earlyz && d.zfunc ≠ 0)) })
    if !d.earlyz || d.zfunc = 0 then add s qs
    else
      let places := qs.flatMap (fun q => q.all.map (fun k =>
        s.touchSample sp d.zAccess 4 (d.sampleVa d.zbase 4 k.2 (q.pixel k.1).1 (q.pixel k.1).2)))
      let before : Bool := qs.any (fun q => (List.range 4).any (fun j =>
        r.covered p.task ord (q.pixel j).1 (q.pixel j).2 (q.cover / 2 ^ (8 * j) % 256) (fun c => c.late)))
      if before then s
      else match firstMiss places with
        | some e => s.rasterWaits sec sp d.zAccess ((s.task p.task).launchid) e
        | none =>
          let (s, qs) := qs.foldl (fun e q =>
            let (s, q) := e.1.earlyQuad sp d t q
            (s, if q.cover = 0 then e.2 else e.2 ++ [q])) (s, [])
          add s qs

/-- PRIMITIVE_RASTERISE (R335 to R338): a raster engine takes the next primitive of a task's streams. Subject: section,
and which of the tasks whose next primitive may be taken. -/
def execPrimitiveRasterise (s : State) : Host.Outcome State Fault Refusal :=
  let sec := s.arg 0
  let r := s.raster sec
  .next (if r.saved ∨ 8 ≤ sec then s
    else match choose (r.store.filter (s.takeable r)) (s.arg 1) with
      | none => s
      | some p => s.rasterise sec p)

/-- RASTER_ENGINE_SAVE (R344): firmware saves a raster engine at a batch boundary. What is kept of the batch in flight is its
primitives, whose quads are not all launched. Subject: section. -/
def execRasterEngineSave (s : State) : Host.Outcome State Fault Refusal :=
  let r := s.raster (s.arg 0)
  .next (if s.arg 0 < 8 && !r.saved && s.batchBoundary r then
      s.modRaster (s.arg 0) (fun r =>
        { r with saved := true, waiting := [], again := distinct (r.waiting.map (fun q => (q.prim, q.ord))) })
    else s)

/-- RASTER_BATCH_RESUME (R344): a saved engine rasterises the batch in flight again, but for the quads launched before, and goes
on. Subject: section. -/
def execRasterBatchResume (s : State) : Host.Outcome State Fault Refusal :=
  .next (if s.arg 0 < 8 && (s.raster (s.arg 0)).saved then
      s.modRaster (s.arg 0) (fun r => { r with
        saved := false, again := [], waiting := r.again.flatMap (fun e => r.quadsAgain (s.arg 0) e.1 e.2) })
    else s)

/-! ### Pixel waves (R339) -/

/-- Two quads cover a common sample. -/
def Quad.shares (p q : Quad) : Bool := p.x = q.x && p.y = q.y && Nat.land p.cover q.cover ≠ 0

/-- The quads of a pixel wave: of consecutive primitives of one draw record, at most `n`; with ORDERED = 1 no two share a
covered sample. -/
def gather (n : Nat) : List Quad → List Quad → List Quad
  | got, [] => got
  | [], q :: r => gather n [q] r
  | h :: got, q :: r =>
    let same := q.prim.task = h.prim.task && q.prim.drawVa = h.prim.drawVa && q.prim.draw = h.prim.draw &&
      q.prim.asid = h.prim.asid && q.prim.ttbase = h.prim.ttbase && q.prim.world = h.prim.world
    if n ≤ got.length + 1 ∨ !same ∨ (h.prim.record.ordered ∧ (h :: got).any q.shares) then h :: got
    else gather n (h :: got ++ [q]) r

/-- The registers v0 to v5 and v8 to v11 of a lane of a pixel wave. -/
def Quad.laneRegs (q : Quad) (j : Nat) : List (Nat × Nat) :=
  match q.prim.setup with
  | none => []
  | some t =>
    let (x, y) := q.pixel j
    [(0, t.bary q.prim 1 x y), (1, t.bary q.prim 2 x y), (2, x + 65536 * y), (3, t.depth q.prim x y (8, 8)),
     (4, q.cover / 2 ^ (8 * j) % 256 + (if t.front then 256 else 0)), (5, q.prim.primid.toNat),
     (8, (q.prim.idx.getD 0 0).toNat), (9, (q.prim.idx.getD 1 0).toNat), (10, (q.prim.idx.getD 2 0).toNat)]

/-- The vector registers of a pixel wave. -/
def pixelRegs (qs : List Quad) : Map Word :=
  ((List.range qs.length).zip qs).foldl (fun v e => (List.range 4).foldl (fun v j =>
    (e.2.laneRegs j).foldl (fun v p => mapSet 0 v (64 * p.1 + 4 * e.1 + j) (BitVec.ofNat 32 p.2)) v) v) []

/-- The coverage of launched quads belongs to their wave. -/
def claimCov (qs : List Quad) (w : Nat) (c : LaneCov) : LaneCov :=
  if qs.any (fun q => q.prim.task = c.task && q.ord = c.ord && q.x / 2 = c.px / 2 && q.y / 2 = c.py / 2) then
    { c with wave := some w } else c

/-- PIXEL_WAVE_LAUNCH (R269, R339): a pixel wave is launched on a cluster of the section; one of priority 0 that no cluster of it
seats pre-empts (R21, R277). Subject: section, the most quads it
takes (0: 16), and the cluster in the section. -/
def execPixelWaveLaunch (s : State) : Host.Outcome State Fault Refusal :=
  let s := s.sweep
  let sec := s.arg 0
  let n := if s.arg 1 = 0 then 16 else min 16 (s.arg 1)
  let c := 8 * sec + s.arg 2 % 8
  let r := s.raster sec
  let qs := gather n [] r.waiting
  .next (match qs with
    | [] => s
    | h :: _ =>
      let k := s.task h.prim.task
      let d := h.prim.record
      match s.ctx k.ctx with
      | none => s
      | some x =>
        if r.saved || decide (8 ≤ sec) || !(s.worldFits c x) then s
        else match s.seatsOn c 1 d.vregs with
          | none =>
            if (s.saveHead x 1).isNone then s.askSaveq x
            else s.parkGangs (s.seatVictims k.prio d.vregs
              (((List.range 8).map (fun i => 8 * sec + i)).filter (fun c => s.worldFits c x)))
          | some seats =>
            match s.popAreas x 1 with
            | none => s.askSaveq x
            | some (areas, s) =>
              let s := s.discardRanges c x k
              let g : Gang := { s.newGang h.prim.task c k seats [] with
                gidx := 0xFFFFFFFF, vregs := d.vregs,
                quota := (List.range 4).foldl (fun m i =>
                  mapSet 0 m i (d.vregs * (seats.filter (fun p => p.1 = i)).length)) [] }
              let w := s.orders + 1
              let y := startWave s w 0 g k x (areas.getD 0 0)
              let y := { y with origin := 2, quads := qs }
              let y := { y with
                v := pixelRegs qs, p := mapSet 0 [] 0 y.liveLanes,
                splits := startSplits s d.entry (lowLanes (4 * qs.length)),
                s := [d.args.lo, d.args.hi, d.attrbase.lo, d.attrbase.hi].foldl
                  (fun (m : Map Word × Nat) v => (mapSet 0 m.1 m.2 v, m.2 + 1)) (([] : Map Word), 0) |>.1 }
              let s := (s.setWave w y).modGang w (fun _ => { g with ids := [(0, w)] })
              { s.modRaster sec (fun r => { r with
                  waiting := r.waiting.drop qs.length, cov := r.cov.map (claimCov qs w) }) with orders := w })

/-! ### ATTR (R340) -/

/-- ATTR. -/
def execAttr (d a b : Code) (first : BitVec 5) (count : BitVec 3) (mode k : BitVec 2) (basen : BitVec 4) (stride : BitVec 6)
    (S : Stall) : State → Host.Outcome State Fault Refusal :=
  let n := count.toNat + 1
  let regs := vRegs a 3 ++ baseRegs basen
  let uv := if mode = 1 then vRegs b 2 else []
  issue S
    (fun f s =>
      let x := s.wave f.wave
      { lanes := true, ok := vOkAl x d n (pow2From n 4 1) && vOkAl x a 4 4 && vOk x b 2,
        reads := regs ++ uv ++ s.activeRegs f.wave f.split, writes := vRegs d n, ra := .suppress })
    (fun f s =>
      let act := s.active f.wave f.split
      let base := s.readBase f.wave basen
      let lanes := Mask.lanes act
      let addr := fun (L c i : Nat) => base + BitVec.ofNat 64
        (4 * (stride.toNat * (s.readV f.wave (a.toNat + i) L).toNat + first.toNat + c))
      let cells := lanes.flatMap (fun L => (List.range n).flatMap (fun c => (List.range 3).map (fun i => (L, c, i))))
      let uvs := lanes.flatMap (fun L => [(s.readV f.wave b.toNat L).toNat, (s.readV f.wave (b.toNat + 1) L).toNat])
      let header := 2 + 2 * lanes.length
      let r := runGlobal f s act
        { acc := .read, size := 4, addrs := cells.map (fun e => (e.1, addr e.1 e.2.1 e.2.2)), addrRegs := regs,
          dests := vRegs d n, loads := true, path := 0,
          make := fun ps => { memFlight f 0 .attr false
              ((ps.zip ((List.range cells.length).zip cells)).map (fun e =>
                { lane := e.1.1, va := e.1.2.1.toNat, pa := e.1.2.2, size := 4, reg := d.toNat + e.2.2.2.1, sgn := false,
                  data := [], cmp := [], target := header + e.2.1 })) (vRegs d n) act with
              vals := [mode.toNat, k.toNat] ++ uvs ++ List.replicate cells.length 0 } }
      match r with
      | .xlate _ bad acc scope va ds => .xlate false bad acc scope va ds
      | r => r)

/-! ### The ordered interlock (R341) -/

/-- The draw record of a pixel wave. -/
def Wave.record (x : Wave) : Draw :=
  match x.quads with
  | q :: _ => q.prim.record
  | [] => drawOf []

/-- What PIXLOCK and PIXUNLOCK state. -/
def pixPre (f : Focus) (s : State) : Pre :=
  { lanes := true, reads := s.activeRegs f.wave f.split, ra := .suppress }

/-- PIXLOCK: its split waits for the grant. -/
def execPixlock (S : Stall) : State → Host.Outcome State Fault Refusal :=
  issue S pixPre
    (fun f s =>
      let x := s.wave f.wave
      let act := s.active f.wave f.split
      if !x.isPixel then engTrap 49
      else if !x.record.ordered then engTrap 48
      else if act = 0 then .done s
      else sendHeld f s (hopOf f S (.pixlock S) 0 (s.live f.wave f.split) 0 [] true))

/-- PIXUNLOCK. -/
def execPixunlock (S : Stall) : State → Host.Outcome State Fault Refusal :=
  issue S pixPre
    (fun f s =>
      let x := s.wave f.wave
      let act := s.active f.wave f.split
      if !x.isPixel then engTrap 49
      else if act = 0 then .done s
      else sendFree f s (hopOf f S (.pixunlock S) 0 (s.live f.wave f.split) 0 [] false))

/-- The quad and the lane in it of a lane of a pixel wave. -/
def Wave.laneQuad (x : Wave) (L : Nat) : Option Quad := x.quads[L / 4]?

/-- The coverage that keeps a lane from the lock (R341): of an earlier primitive, not unlocked, its wave not ended. -/
def State.lockBlocks (s : State) (x : Wave) (L : Nat) : List LaneCov :=
  match x.laneQuad L with
  | none => []
  | some q =>
    let (px, py) := q.pixel (L % 4)
    (s.raster (sectionOf x.cluster)).cov.filter (fun c =>
      c.task = q.prim.task && decide (c.ord < q.ord) && c.px = px && c.py = py &&
        Nat.land c.samples (q.cover / 2 ^ (8 * (L % 4)) % 256) ≠ 0 && !c.unlocked &&
        (match c.wave with
          | some v => !(s.wave v).isOver
          | none => true))

/-- The range of a pixel wave's interlock as a bound range at device scope. -/
def Wave.lockRange (x : Wave) : Binding :=
  { slice := 0, isAddr := true, obj := 0, index := 0, base := x.record.lockbase, len := x.record.locklen, scope := 3,
    asid := x.csr.asid, gang := x.gang, cluster := x.cluster, wave := 0, world := x.csr.world }

/-- An acquire over the interlock's range (R146, R341). -/
def State.lockAcquire (s : State) (w : Nat) : State :=
  let x := s.wave w
  if (s.cluster x.cluster).copies.isEmpty then s
  else
    let es := x.lockRange.extents s (s.space w)
    s.dropCopies x.cluster (fun l => es.any (fun e => decide (128 * l < e.1 + e.2) && decide (e.1 < 128 * l + 128)))

/-- Every earlier export of the wave, and write to the range, is performed (R145, R341). -/
def State.lockReleased (s : State) (w : Nat) (h : HomeOp) : Bool :=
  let x := s.wave w
  !(x.flight.any (fun a => decide (a.seq < h.seq) && !a.scratch &&
    (((a.accs.isEmpty || a.more) && a.pending) ||
      a.accs.any (fun c => !c.fixed && x.lockRange.covers (BitVec.ofNat 64 c.va) c.size))))

/-- Lanes of a pixel wave release the lock. -/
def State.unlockLanes (s : State) (w : Nat) (m : Mask) : State :=
  let x := s.wave w
  let mine := fun (c : LaneCov) => (Mask.lanes m).any (fun L => match x.laneQuad L with
    | some q => c.task = q.prim.task && c.ord = q.ord && (c.px, c.py) = q.pixel (L % 4)
    | none => false)
  (s.modWave w (fun x => { x with locked := x.locked &&& ~~~ m })).modRaster (sectionOf x.cluster) (fun r =>
    { r with cov := r.cov.map (fun c => if c.wave = some w && mine c then { c with unlocked := true } else c) })

/-- PIXLOCK_GRANT (R341): an operation of the interlock acts: a PIXLOCK completes, or a PIXUNLOCK is delivered. Subject: wave,
and the operation's place among those on their way. -/
def execPixlockGrant (s : State) : Host.Outcome State Fault Refusal :=
  let w := s.arg 0
  let x := s.wave w
  .next (match s.hopAt w (s.arg 1) with
    | none => s
    | some h =>
      match h.op with
      | .pixlock _ =>
        if (Mask.lanes (h.act &&& ~~~ x.locked)).any (fun L => !(s.lockBlocks x L).isEmpty) then s.waitHome w h
        else ((s.modWave w (fun x => { x with locked := x.locked ||| h.act })).lockAcquire w).answer w h
      | .pixunlock _ =>
        if s.lockReleased w h then (s.unlockLanes w (h.act &&& x.locked)).doneHop w h else s
      | _ => s)

/-- The most urgent priority of the PIXLOCKs that wait on lanes of a parked wave (R341). -/
def State.lockWaiters (s : State) (v : Nat) : List Nat :=
  s.waves.filterMap (fun e =>
    if e.2.life = .resident && e.2.hops.any (fun h => (match h.op with | .pixlock _ => true | _ => false) &&
        (Mask.lanes (h.act &&& ~~~ e.2.locked)).any (fun L => (s.lockBlocks e.2 L).any (fun c => c.wave = some v))) then
      some e.2.csr.prio
    else none)

/-! ### Export and blending (R342) -/

/-- The target of a PIXEXP. -/
def Draw.target (d : Draw) (t : BitVec 1) : Target := d.rt.getD t.toNat { base := 0, fmt := 0, mode := 0 }

/-- Where the samples of a lane lie in the target and in the depth plane, with their sizes. -/
def Quad.exportVas (q : Quad) (t : Target) (j : Nat) : List (Dword × Nat) :=
  let d := q.prim.record
  let (x, y) := q.pixel j
  (q.samples j).flatMap (fun i =>
    (if t.fmt = 0 then [] else [(d.sampleVa t.base (targetBpp t.fmt) i x y, targetBpp t.fmt)]) ++
      (if d.earlyz || d.zfunc = 0 || !d.zwrite then [] else [(d.sampleVa d.zbase 4 i x y, 4)]))

/-- PIXEXP (R333, R342): the colours, and with ZW the depths, go to the section's blend units, which take the lines that they
will write as soon as they can (R150, log 37). -/
def execPixexp (a : Code) (target zw : BitVec 1) (S : Stall) : State → Host.Outcome State Fault Refusal :=
  let n := if zw = 1 then 8 else 4
  let k := if zw = 1 then 5 else 4
  issue S
    (fun f s => { lanes := true, ok := vOkAl (s.wave f.wave) a n n, reads := vRegs a k ++ s.activeRegs f.wave f.split,
                  ra := .suppress })
    (fun f s =>
      let x := s.wave f.wave
      let act := s.live f.wave f.split
      if !x.isPixel then engTrap 49
      else if act = 0 then .done s
      else if pathFull x 1 then .hold
      else
        let vas := (Mask.lanes act).flatMap (fun L => match x.laneQuad L with
          | some q => q.exportVas (q.prim.record.target target) (L % 4)
          | none => [])
        let sp := match x.quads with
          | q :: _ => s.rasterSpace (sectionOf x.cluster) q.prim
          | [] => s.space f.wave
        let lines := (vas.filterMap (fun e => match checkVa s sp .write 1 e.1 with
          | .ok pa => some (pa / 128)
          | _ => none)).eraseDups
        let t := s.launchFlight f.wave
          { memFlight f 1 .other false [] [] act with
            op := .pixexp a target zw S, lanesLeft := act, lines,
            vals := (Mask.lanes act).flatMap (fun L =>
              (List.range 5).map (fun i => if i < k then (s.readV f.wave (a.toNat + i) L).toNat else 0)) }
        .done (t.takeLines f.wave ((t.wave f.wave).flight.length - 1)))

/-- Channel `c` of a stored sample as F32 (R342). -/
def loadChannel (fmt : Nat) (bs : List Byte) (c : Nat) : Nat :=
  match fmt with
  | 1 => roundQuot (fieldNat bs c 1) 255
  | 2 => (cvtFloat fmtF16 fmtF32 envRNE (fieldNat bs (2 * c) 2)).1
  | 3 => fieldNat bs 0 4
  | _ => fieldNat bs (4 * c) 4

/-- The bytes of a channel of the target's format (R342). -/
def storeChannel (fmt r : Nat) : List Byte :=
  match fmt with
  | 1 =>
    let x := minImg fmtF32 (maxImg fmtF32 r 0) 0x3F800000
    let n := match decodeNum fmtF32 x with
      | .fin _ m e => if e < 0 then (roundAt 0 false (m * 255) (2 ^ (-e).toNat) 0).1 else m * 2 ^ e.toNat * 255
      | _ => 0
    leBytes 1 n
  | 2 => leBytes 2 (cvtFloat fmtF32 fmtF16 { rm := 0, sat := true, ftz := false } r).1
  | _ => leBytes 4 r

/-- What a channel becomes (R342). -/
def blendChannel (mode src srcA old : Nat) : Nat :=
  let f := fmtF32
  match mode with
  | 0 => if f.isNan src then f.nanImg else src
  | 1 =>
    let α := minImg f (maxImg f srcA 0) 0x3F800000
    f.fma α (f.sub src old) old
  | _ => f.add src old

/-- Channels of a format. -/
def targetChannels (fmt : Nat) : Nat := if fmt = 3 then 1 else 4

/-- Writes a sample's colour. -/
def State.blendSample (s : State) (t : Target) (p : Touched) (src : List Nat) : State :=
  match p with
  | .at pa =>
    let old := s.readBytes pa (targetBpp t.fmt)
    s.writeMem pa ((List.range (targetChannels t.fmt)).flatMap (fun c =>
      storeChannel t.fmt (blendChannel t.mode (el src c) (el src 3) (loadChannel t.fmt old c))))
  | _ => s

/-- How a target is accessed. -/
def Target.access (t : Target) : Access := if t.mode = 0 then .write else .readWrite

/-- The export of a lane (R338, R342), where its places are ready: the depth test of a late draw, then the blend. -/
def State.exportLane (s : State) (sp : Space) (q : Quad) (t : Target) (zw : Bool) (j : Nat) (src : List Nat) : State :=
  let d := q.prim.record
  let (x, y) := q.pixel j
  (q.samples j).foldl (fun s i =>
    let (s, ok) :=
      if d.earlyz || d.zfunc = 0 then (s, true)
      else
        let z := if zw then el src 4 else match q.prim.setup with
          | some g => g.depth q.prim x y ((samplePos d.samples).getD i (8, 8))
          | none => 0
        s.depthTest d (s.touchSample sp d.zAccess 4 (d.sampleVa d.zbase 4 i x y)) z
    if ok && t.fmt ≠ 0 then
      s.blendSample t (s.touchSample sp t.access (targetBpp t.fmt) (d.sampleVa t.base (targetBpp t.fmt) i x y)) src
    else s) s

/-- The export of a lane may be performed: no earlier primitive's export of its samples is still to come (R342). In one
wave only those of the same PIXEXP come first. -/
def State.exportTurn (s : State) (w : Nat) (a : Flight) (q : Quad) (j : Nat) : Bool :=
  let x := s.wave w
  let (px, py) := q.pixel j
  !((s.raster (sectionOf x.cluster)).covered q.prim.task q.ord px py (q.cover / 2 ^ (8 * j) % 256) (fun c =>
    if c.wave = some w then
      (Mask.lanes a.lanesLeft).any (fun L => match x.laneQuad L with
        | some p => p.ord = c.ord && p.pixel (L % 4) = (c.px, c.py)
        | none => false)
    else true))

/-- BLEND_EXPORT (R338, R342): the blend units perform a lane's export of the first PIXEXP that has one; ST falls with
the last lane. Subject: wave, and the lane's place among those left. -/
def execBlendExport (s : State) : Host.Outcome State Fault Refusal :=
  let w := s.arg 0
  let x := s.wave w
  let sec := sectionOf x.cluster
  .next (match x.flight.find? (fun a => (match a.op with | .pixexp .. => true | _ => false) && a.lanesLeft ≠ 0) with
    | none => s
    | some a =>
      match (Mask.lanes a.lanesLeft)[s.arg 1]?, a.op with
      | some L, .pixexp _ target zw _ =>
        (match x.laneQuad L with
          | none => s
          | some q =>
            let j := L % 4
            let d := q.prim.record
            let t := d.target target
            let sp := s.rasterSpace sec q.prim
            let i := ((Mask.lanes a.act).filter (fun M => decide (M < L))).length
            let src := (a.vals.drop (5 * i)).take 5
            let (px, py) := q.pixel j
            let depths := if d.earlyz || d.zfunc = 0 then [] else (q.samples j).map (fun k =>
              s.touchSample sp d.zAccess 4 (d.sampleVa d.zbase 4 k px py))
            let colours := if t.fmt = 0 then [] else (q.samples j).map (fun k =>
              s.touchSample sp t.access (targetBpp t.fmt) (d.sampleVa t.base (targetBpp t.fmt) k px py))
            let fenced : Bool := x.flight.any (fun b => decide (b.seq < a.after) && b.pending) ||
              x.hops.any (fun h => h.isFence && decide (h.seq < a.seq))
            let places := (depths ++ colours).filterMap (fun t => match t with
              | .at pa => some (pa, 1)
              | _ => none)
            if fenced || s.rayWriteWaits w a places || !(s.exportTurn w a q j) then s
            else match firstMiss depths with
              | some e => s.rasterWaits sec sp d.zAccess x.csr.launchid e
              | none =>
                match firstMiss colours with
                | some e => s.rasterWaits sec sp t.access x.csr.launchid e
                | none =>
                  let s := s.dropCopies x.cluster (fun l => !(a.lines.contains l) && places.any (fun p => p.1 / 128 = l))
                  (s.exportLane sp q t (zw = 1) j src).modWave w (fun x =>
                    (x.modFlight a.seq (fun b => { b with lanesLeft := b.lanesLeft &&& ~~~ (Mask.one L) })).settleFlights))
      | _, _ => s)

end Sys2Proof.Machine
end

