-- ==== Sys2Proof/Machine/System.lean ====
section
/-! DEFINITION. The system class (R278 to R303): traps and returns, CSRs, translation maintenance, bank modes, moving wave
state, and PARK. The functions of SMC are in Platform.lean. -/

namespace Sys2Proof.Machine

/-- What a SYS instruction states: no lanes, and a run-ahead ends before it (R299). -/
def sysPre (priv ok : Bool) (reads writes : List Reg) : Pre := { priv, ok, reads, writes, ra := .stop }

/-! ### TRAP, BRK, HALT, RTE (R281, R283, R284) -/

/-- TRAP. -/
def execTrap (a : Code) (S : Stall) (lit : Option Word) : State → Host.Outcome State Fault Refusal :=
  issue S (fun f _ => sysPre false (srcOk false a) (srcRegs f.split a) [])
    (fun f s => .raise causeSwtrap f.next ((s.readSrc f.wave f.split lit a).setWidth 64))

/-- BRK. -/
def execBrk (S : Stall) : State → Host.Outcome State Fault Refusal :=
  issue S (fun _ _ => sysPre false true [] []) (fun _ _ => .trap causeBrk 0)

/-- HALT. -/
def execHalt (S : Stall) : State → Host.Outcome State Fault Refusal :=
  issue S (fun _ _ => sysPre true true [] []) (fun f s => .quit ((s.issued f).die f.wave none))

/-- An unassigned encoding traps at its issue (R48). -/
def execUnassignedEncoding (_ : Word) : State → Host.Outcome State Fault Refusal :=
  issue 0 (fun _ _ => { ra := .stop }) (fun _ _ => .trap causeIllegal 0)

/-- RTE; outside handler mode it is ILLEGAL (R279). -/
def execRte (S : Stall) : State → Host.Outcome State Fault Refusal :=
  issue S (fun _ _ => sysPre true true [.splits] [])
    (fun f s => if (s.wave f.wave).csr.handler then .jump (s.returnTrap f.wave) else .trap causeIllegal 0)

/-! ### The CSR map (R285) -/

/-- The CSR numbers there are. -/
def csrKnown (n : Nat) : Bool :=
  decide (n ≤ 4) || (decide (8 ≤ n) && decide (n ≤ 0x0D)) || (decide (0x10 ≤ n) && decide (n ≤ 0x13)) || n = 0x20 || n = 0x21 ||
  (decide (0x100 ≤ n) && decide (n ≤ 0x10C)) || n = 0x110 || n = 0x111 || n = 0x120 || n = 0x121 ||
  (decide (0x130 ≤ n) && decide (n ≤ 0x132)) || (decide (0x140 ≤ n) && decide (n ≤ 0x148)) || n = 0x150 || n = 0x151

/-- WAVEINFO and GANGINFO (R274). -/
def State.waveInfo (s : State) (w : Nat) : Word :=
  let x := s.wave w
  let g := s.gang x.gang
  BitVec.ofNat 32 (x.slot % 32 * 2 ^ 16 + x.core % 4 * 2 ^ 14 + (s.task g.task).prio % 4 * 2 ^ 12 + x.role % 4 * 2 ^ 10 +
    (g.waves - 1) % 32 * 2 ^ 5 + x.idx % 32)

def State.gangInfo (s : State) (w : Nat) : Word :=
  let k := s.task (s.gang (s.wave w).gang).task
  BitVec.ofNat 32 (k.vregs % 32 * 2 ^ 23 + k.field 0x24 2 % 1024 * 2 ^ 13 + k.field 0x1E 2 % 8192)

/-- SRAMMAP of banks `b` to `b + 15`. -/
def State.sramMap (s : State) (c b : Nat) : Word :=
  BitVec.ofNat 32 (packElems 2 ((((s.cluster c).banks).drop b).take 16))

/-- The value of a CSR (R285); of CYCLE's halves, the low half and the latched high half. -/
def State.readCsr (s : State) (w n : Nat) : Word :=
  let x := s.wave w
  let c := x.csr
  match n with
  | 0x000 => BitVec.ofNat 32 s.clk
  | 0x001 => c.cycleLatch
  | 0x002 => s.waveInfo w
  | 0x003 => s.gangInfo w
  | 0x004 => c.launchid
  | 0x008 => c.wst.lo
  | 0x009 => Dword.hi c.wst
  | 0x00A => Dword.lo c.fetchtab
  | 0x00B => Dword.hi c.fetchtab
  | 0x00C => Dword.lo c.codebase
  | 0x00D => Dword.hi c.codebase
  | 0x010 => c.scrbase
  | 0x011 => c.scrsize
  | 0x012 => BitVec.ofNat 32 (s.accWindow w).1
  | 0x013 => BitVec.ofNat 32 (s.accWindow w).2
  | 0x020 => c.wavectl
  | 0x021 => c.fpstat
  | 0x100 => BitVec.ofNat 32 c.trapcause
  | 0x101 => Dword.lo c.trappc
  | 0x102 => Dword.hi c.trappc
  | 0x103 => Dword.lo c.traparg
  | 0x104 => Dword.hi c.traparg
  | 0x105 => BitVec.ofNat 32 (c.trapsplit % 8 + (if x.nextPend.isSome then 8 else 0))
  | 0x106 => Dword.lo c.trapvec
  | 0x107 => Dword.hi c.trapvec
  | 0x108 => Dword.lo c.savearea
  | 0x109 => Dword.hi c.savearea
  | 0x10A => c.savesize
  | 0x10B => (if c.handler then 2 else 0) + (if c.priv then 1 else 0)
  | 0x10C => BitVec.ofNat 32 (c.raPages % 32 * 256 + c.raInsns % 128)
  | 0x110 => BitVec.ofNat 32 c.prio
  | 0x111 => BitVec.ofNat 32 c.world
  | 0x120 => s.sramMap x.cluster 0
  | 0x121 => s.sramMap x.cluster 16
  | 0x130 => Dword.lo c.ttbase
  | 0x131 => Dword.hi c.ttbase
  | 0x132 => BitVec.ofNat 32 c.asid
  | 0x148 => c.tsavemode
  | 0x150 => Dword.lo s.framedeadline
  | 0x151 => Dword.hi s.framedeadline
  | n => c.tsave.getD (n - 0x140) 0

/-- The bits of a CSR that software must write zero (R285). -/
def csrZero (n : Nat) : Word :=
  match n with
  | 0x008 => 7
  | 0x00A => 31
  | 0x020 => 0xFFFFC0FC
  | 0x021 => 0xFFFFFFC0
  | 0x100 => 0xFFFFFFC0
  | 0x105 => 0xFFFFFFF0
  | 0x10B => 0xFFFFFFFC
  | 0x10C => 0xFFFFE080
  | 0x110 => 0xFFFFFFFC
  | 0x148 => 0xFFFFE000
  | _ => 0

/-- A 64-bit CSR with its low or high half written. -/
def setLo (x : Dword) (v : Word) : Dword := Dword.ofWords v (Dword.hi x)

def setHi (x : Dword) (v : Word) : Dword := Dword.ofWords (Dword.lo x) v

/-- The CSRs of a wave after a write of one of its own (R285): read-only ones stay. -/
def Csrs.write (c : Csrs) (n : Nat) (v : Word) : Csrs :=
  match n with
  | 0x008 => { c with wst := setLo c.wst v }
  | 0x009 => { c with wst := setHi c.wst v }
  | 0x00A => { c with fetchtab := setLo c.fetchtab v }
  | 0x00B => { c with fetchtab := setHi c.fetchtab v }
  | 0x020 => { c with wavectl := v }
  | 0x021 => { c with fpstat := c.fpstat &&& ~~~ v }
  | 0x100 => { c with trapcause := v.toNat }
  | 0x101 => { c with trappc := setLo c.trappc v }
  | 0x102 => { c with trappc := setHi c.trappc v }
  | 0x103 => { c with traparg := setLo c.traparg v }
  | 0x104 => { c with traparg := setHi c.traparg v }
  | 0x105 => { c with trapsplit := v.toNat % 8 }
  | 0x106 => { c with trapvec := setLo c.trapvec v }
  | 0x107 => { c with trapvec := setHi c.trapvec v }
  | 0x108 => { c with savearea := setLo c.savearea v }
  | 0x109 => { c with savearea := setHi c.savearea v }
  | 0x10A => { c with savesize := v }
  | 0x110 => { c with prio := v.toNat % 4 }
  | 0x148 => { c with tsavemode := v }
  | n => if 0x140 ≤ n ∧ n < 0x148 then { c with tsave := c.tsave.set (n - 0x140) v } else c

/-- The state after a CSR is written. -/
def State.writeCsr (s : State) (w n : Nat) (v : Word) : State :=
  match n with
  | 0x150 => { s with framedeadline := setLo s.framedeadline v }
  | 0x151 => { s with framedeadline := setHi s.framedeadline v }
  | n => s.modWave w (fun x => { x with csr := x.csr.write n v })

/-- A read of CYCLE's low half latches its high half. -/
def State.latchCycle (s : State) (w n : Nat) : State :=
  if n = 0 then s.modWave w (fun x => { x with csr := { x.csr with cycleLatch := BitVec.ofNat 32 (s.clk / 2 ^ 32) } }) else s

/-- What CSRR and CSRW state: privilege by CSR (R279); an unassigned CSR comes before it (R49). -/
def csrPre (n : Nat) (ok : Bool) (reads writes : List Reg) : Pre :=
  if csrKnown n then { sysPre (decide (0x100 ≤ n)) ok reads writes with privArg := n } else sysPre false true [] []

/-- Reads CSR `n` to a scalar destination. -/
def csrRead (d : Code) (n : Nat) (S : Stall) : State → Host.Outcome State Fault Refusal :=
  issue S (fun f _ => csrPre n (dstOk d) [] (srcRegs f.split d))
    (fun f s =>
      let v := s.readCsr f.wave n
      if !(csrKnown n) || dstBad d v then .trap causeIllegal 0
      else .done ((s.latchCycle f.wave n).writeDst f.wave f.split 1 d v))

/-- Writes a scalar to CSR `n`. -/
def csrWrite (d : Code) (n : Nat) (S : Stall) (lit : Option Word) : State → Host.Outcome State Fault Refusal :=
  issue S (fun f _ => csrPre n (srcOk false d) (srcRegs f.split d) [])
    (fun f s =>
      let v := s.readSrc f.wave f.split lit d
      if !(csrKnown n) || v &&& csrZero n ≠ 0 then .trap causeIllegal 0 else .done (s.writeCsr f.wave n v))

/-- CSRR (R285). -/
def execCsrr (d : Code) (c : BitVec 14) (S : Stall) : State → Host.Outcome State Fault Refusal := csrRead d c.toNat S

/-- CSRW (R285). -/
def execCsrw (d : Code) (c : BitVec 14) (S : Stall) (lit : Option Word) : State → Host.Outcome State Fault Refusal :=
  csrWrite d c.toNat S lit

/-- CYCLE_LATCH_READ (R285): a CSRR of CYCLE's low half. -/
def execCycleLatchRead (d : Code) (S : Stall) : State → Host.Outcome State Fault Refusal := csrRead d 0 S

/-- FPSTAT_WRITE (R68): a CSRW of FPSTAT clears the flags whose bits are 1. -/
def execFpstatWrite (d : Code) (S : Stall) (lit : Option Word) : State → Host.Outcome State Fault Refusal :=
  csrWrite d 0x021 S lit

/-- FRAMEDEADLINE_WRITE (R343): a CSRW of a half of FRAMEDEADLINE. -/
def execFramedeadlineWrite (d : Code) (hi : BitVec 1) (S : Stall) (lit : Option Word) :
    State → Host.Outcome State Fault Refusal :=
  csrWrite d (0x150 + hi.toNat) S lit

/-- CNTRD (R293). -/
def execCntrd (d : Code) (S : Stall) : State → Host.Outcome State Fault Refusal :=
  issue S (fun f _ => sysPre false (pairDstOk d) [] (pairRegs f.split d))
    (fun f s => .done (s.writePair f.wave f.split 1 d
      (BitVec.ofNat 64 (packElems 6 ((List.range 8).map (s.wave f.wave).counter)))))

/-! ### TLBINV (R298, R391) -/

/-- Removes the TLB entries for which `f` holds. -/
def State.dropTlbs (s : State) (f : TlbEntry → Bool) : State :=
  { s with tlbs := (s.tlbs.map (fun e => (e.1, e.2.filter (fun t => !(f t))))).filter (fun e => !e.2.isEmpty) }

/-- A wave's splits that wait on a merge entry. -/
def Wave.waiters (x : Wave) (asid page : Nat) : List (Nat × Dword) :=
  (List.range 5).filterMap (fun k => match (x.split k).wait with
    | .merge a p va => if a = asid ∧ p = page then some (k, va) else Option.none
    | _ => Option.none)

/-- The waves that wait on a merge entry go on: they reissue, or take XLATE at their instructions (R298). -/
def State.answerWaves (s : State) (asid page : Nat) (refused : Bool) : State :=
  s.waveIds.foldl (fun s w =>
    let ws := (s.wave w).waiters asid page
    let s := if ws.isEmpty then s else s.modWave w (fun x => ws.foldl (fun x q => x.modSplitKept q.1 (fun p =>
      { p with wait := .none, next := max p.next s.clk,
               pend := if refused ∧ q.1 < 4 then some { cause := causeXlate, pc := p.pc, arg := q.2 } else p.pend })) x)
    let s := s.modWave w (fun x => { x with
      ra := x.ra.map (fun r => if r.asid = asid ∧ r.page = page then { r with outcome := if refused then 2 else 1 } else r),
      flight := if x.csr.asid = asid then x.flight.map (fun a =>
        if a.page.any (fun p => p.1 = page) then { a with page := if a.refused || refused then a.page else Option.none, refused := a.refused || refused } else a)
        else x.flight })
    if !refused || ws.isEmpty then s
    else match ws.find? (fun q => q.1 = 4) with
      | some q => s.raiseTrap w 4 { cause := causeXlate, pc := ((s.wave w).split 4).pc, arg := q.2 }
      | none => s.takePending w) s

/-- The distributor's tasks that wait on a merge entry (R276, R277). -/
def State.answerTasks (s : State) (asid page : Nat) (refused : Bool) : State :=
  (mapKeys s.tasks).foldl (fun s t =>
    let k := s.task t
    if k.wait = some (asid, page) then
      match refused, s.ctx k.ctx with
      | true, some c => s.dropTask t c (if k.state = .popped then k.record else handleAddr k.done)
      | _, _ => s.modTask t (fun k => { k with wait := none, retryAt := s.clk })
    else s) s

/-- TLBINV (R298): 0 PAGE, 1 ASIDALL, 2 ALL, 3 RESOLVE, 4 REFUSE. -/
def State.tlbinv (s : State) (op asid : Nat) (va : Dword) : State :=
  let page := pageOf va
  match op with
  | 1 => s.dropTlbs (fun t => t.asid = asid && !(t.pte.getLsbD 8))
  | 2 => s.dropTlbs (fun _ => true)
  | _ =>
    let s := s.dropTlbs (fun t => t.hit asid va)
    if op = 0 ∨ !(s.merges.any (fun m => m.asid = asid && m.page = page)) then s
    else
      let refused : Bool := op = 4
      let s := { s with merges := s.merges.filter (fun m => !(m.asid = asid && m.page = page)),
                        nl := s.nl.map (fun (c : NlCmd) => if c.asid = asid ∧ c.page = some page then
                          { c with page := none, refused := c.refused || refused } else c) }
      (s.answerWaves asid page refused).answerTasks asid page refused

/-- TLBINV with an operation. -/
def tlbinvIssue (op : Nat) (a : Code) (asid : BitVec 16) (S : Stall) (lit : Option Word) :
    State → Host.Outcome State Fault Refusal :=
  issue S (fun f _ => sysPre true (pairSrcOk false a) (pairRegs f.split a) [])
    (fun f s => .done (s.tlbinv op asid.toNat (s.readPair f.wave f.split lit a)))

/-- TLBINV PAGE (R298). -/
def execTlbinvPage (a : Code) (asid : BitVec 16) (S : Stall) (lit : Option Word) :
    State → Host.Outcome State Fault Refusal := tlbinvIssue 0 a asid S lit

/-- TLBINV ASIDALL (R298). -/
def execTlbinvAsidall (a : Code) (asid : BitVec 16) (S : Stall) (lit : Option Word) :
    State → Host.Outcome State Fault Refusal := tlbinvIssue 1 a asid S lit

/-- TLBINV ALL (R298). -/
def execTlbinvAll (a : Code) (asid : BitVec 16) (S : Stall) (lit : Option Word) :
    State → Host.Outcome State Fault Refusal := tlbinvIssue 2 a asid S lit

/-- TLBINV RESOLVE (R298). -/
def execTlbinvResolve (a : Code) (asid : BitVec 16) (S : Stall) (lit : Option Word) :
    State → Host.Outcome State Fault Refusal := tlbinvIssue 3 a asid S lit

/-- TLBINV REFUSE (R298). -/
def execTlbinvRefuse (a : Code) (asid : BitVec 16) (S : Stall) (lit : Option Word) :
    State → Host.Outcome State Fault Refusal := tlbinvIssue 4 a asid S lit

/-! ### SRAMCFG (R302) -/

/-- A bank of `size` units can hold some of the `used` units that `n` banks hold: never when nothing is used, certainly when
the other banks cannot hold all of it, and else as the device has placed it (log 21). -/
def State.bankUsed (s : State) (used size n : Nat) : Bool :=
  if used = 0 then false else if size * (n - 1) < used then true else s.freeBit 610

/-- A line is owned, or an atomic holds it, in the cluster's cache: some write of its waves or engines is under way. -/
def State.cacheHeld (s : State) (c : Nat) : Bool :=
  (s.waves.any (fun e => e.2.cluster = c && e.2.flight.any (fun a => !a.scratch && a.kind.writes && !a.accs.isEmpty)) ||
    (s.cluster c).copyCmds.any (fun q => !q.lines.isEmpty)) && s.freeBit 611

/-- Something keeps a bank from leaving its mode (R302). -/
def State.bankBusy (s : State) (c mode : Nat) : Bool :=
  let n := ((s.cluster c).banks.filter (fun b => b = mode)).length
  match mode with
  | 0 => s.cacheHeld c
  | 1 => s.bankUsed (128 * n - s.freeScratch c) 128 n
  | _ => s.bankUsed (131072 * n - s.fifoFree c) 131072 n

/-- SRAMCFG (R302). -/
def execSramcfg (d a : Code) (mode : BitVec 2) (S : Stall) (lit : Option Word) :
    State → Host.Outcome State Fault Refusal :=
  issue S (fun f _ => sysPre true (dstOk d && srcOk false a) (srcRegs f.split a) (srcRegs f.split d))
    (fun f s =>
      let c := (s.wave f.wave).cluster
      let s := s.sweep
      let cl := s.cluster c
      let b := (s.readSrc f.wave f.split lit a).toNat
      let put := fun (s : State) (n : Word) => Res.done (s.writeDst f.wave f.split 1 d n)
      let now := cl.banks.getD b 0
      let open' := cl.closed.filter (fun i => i ≠ b)
      let t := if now = 0 then s.dropCopies c (fun l => cl.lineBank l = b) else s
      if 31 < b then .trap causeIllegal 0
      else if now = mode.toNat then put (s.modCluster c (fun cl => { cl with closed := open' })) 0
      else if now = 0 ∧ (cl.banks.filter (fun m => m = 0)).length = 1 then put s 2
      else if s.bankBusy c now then
        put (if now = 0 then t.modCluster c (fun cl => { cl with closed := b :: open' }) else s) 1
      else put (t.modCluster c (fun cl => { cl with closed := open', banks := cl.banks.set b mode.toNat })) 0)

/-! ### Moving wave state (R291, R292) -/

/-- A fault of these instructions starts no run-ahead (R299). -/
def noAhead : Res → Res
  | .xlate _ bad acc scope va d => .xlate false bad acc scope va d
  | r => r

/-- The addresses of the 16-byte units of `n` bytes. -/
def unitAddrs (va : Dword) (n : Nat) : LaneAddrs := (List.range (n / 16)).map (fun i => (i, va + BitVec.ofNat 64 (16 * i)))

/-- The elementary accesses of such units. -/
def unitAccs (data : List Byte) (ps : List (Nat × Dword × Nat)) : List Acc :=
  ps.flatMap (fun p => elementary 0 p.2.1.toNat p.2.2 16 0 false ((data.drop (16 * p.1)).take 16) 0)

/-- Stores bytes on the ST path (R291). -/
def moveOut (f : Focus) (s : State) (va : Dword) (bs : List Byte) : Res :=
  noAhead (runGlobal f s (BitVec.allOnes 64)
    { acc := .write, size := 16, addrs := unitAddrs va bs.length, addrRegs := [], dests := [], loads := false, path := 1,
      make := fun ps => memFlight f 1 .store false (unitAccs bs ps) [] 0 })

/-- Loads bytes and goes on with them (R291); it holds while the load may not be performed. -/
def moveIn (f : Focus) (s : State) (va : Dword) (n : Nat) (k : List Byte → Res) : Res :=
  let sp := s.space f.wave
  let as := unitAddrs va n
  match globalForm 16 as with
  | some (c, a) => .trap c a
  | none =>
    match missing s sp as with
    | m :: _ => .xlate false m.2.2 (accessBits .read) 0xFF m.2.1 []
    | [] =>
      let ps := physical s sp .read as
      match forbidden ps with
      | some a => .trap causeProt a
      | none =>
        let x := s.wave f.wave
        let accs := unitAccs [] (ps.map (fun p => (p.1, p.2.1, p.2.2.1)))
        let a := { memFlight f 0 .load false accs [] 0 with seq := x.seq, after := x.fenceSeq }
        if !(accs.all (s.mayPerform f.wave a)) then .hold
        else match accs.find? (fun c => s.badAt c.pa c.size) with
          | some c => .trap causeUncorr (uncArg c.va 0)
          | none => k (accs.flatMap (fun c => s.readBy x.cluster c.pa c.size))

/-- What the six instructions state. -/
def movePre (a b : Code) (reads : List Reg) : Focus → State → Pre :=
  fun f _ => sysPre true (pairSrcOk false a && srcOk false b && litOnce [a, b])
    (pairRegs f.split a ++ srcRegs f.split b ++ reads) []

/-- The index, checked, and the address. -/
def withIndex (f : Focus) (s : State) (a b : Code) (lit : Option Word) (n : Nat) (k : Nat → Dword → Res) : Res :=
  let i := s.readSrc f.wave f.split lit b
  if n ≤ i.toNat then .trap causeIllegal (i.setWidth 64) else k i.toNat (s.readPair f.wave f.split lit a)

/-- A split record in the layout of R86. -/
def splitBytes (clk : Nat) (handler : Bool) (p : Split) : List Byte :=
  let p := if handler then p else p.woken clk
  leBytes 8 p.pc.toNat ++ leBytes 8 p.own.toNat ++ leBytes 8 p.exec.toNat ++ leBytes 1 p.state ++ leBytes 1 p.depth ++
    leBytes 2 0 ++ leBytes 4 p.wake

/-- SPLITRD (R291). -/
def execSplitrd (a b : Code) (S : Stall) (lit : Option Word) : State → Host.Outcome State Fault Refusal :=
  issue S (movePre a b [.splits])
    (fun f s => withIndex f s a b lit 4 (fun i va =>
      let x := s.wave f.wave
      moveOut f s va (splitBytes s.clk x.csr.handler (x.split i))))

/-- SPLITWR (R291). -/
def execSplitwr (a b : Code) (S : Stall) (lit : Option Word) : State → Host.Outcome State Fault Refusal :=
  issue S (movePre a b [])
    (fun f s => withIndex f s a b lit 4 (fun i va => moveIn f s va 32 (fun bs =>
      let pc : Dword := BitVec.ofNat 64 (fieldNat bs 0 8)
      let st := fieldNat bs 0x18 1
      let d := fieldNat bs 0x19 1
      let wake := fieldNat bs 0x1C 4
      if 4 < st ∨ 32 < d ∨ fieldNat bs 0x1A 2 ≠ 0 ∨ !(canonical pc) ∨ pc.toNat % 4 ≠ 0 then .trap causeIllegal 0
      else .done (s.modSplit f.wave i (fun p =>
        { p with pc, own := BitVec.ofNat 64 (fieldNat bs 8 8), exec := BitVec.ofNat 64 (fieldNat bs 0x10 8), state := st,
                 depth := d, wake, wakeAt := s.clk + wake })))))

/-- Entries held in the core: the lowest position and how many. -/
def Split.coreEntries (p : Split) : Nat × Nat := (p.depth - min p.depth 8, min p.depth 8)

/-- DSTKRD (R291). -/
def execDstkrd (a b : Code) (S : Stall) (lit : Option Word) : State → Host.Outcome State Fault Refusal :=
  issue S (movePre a b [.splits])
    (fun f s => withIndex f s a b lit 4 (fun i va =>
      let (lo, c) := ((s.wave f.wave).split i).coreEntries
      moveOut f s va ((List.range 8).flatMap (fun j =>
        if j < c then entryBytes (mapGet Entry.zero ((s.wave f.wave).split i).stack (lo + j)) else List.replicate 16 0))))

/-- DSTKWR (R291). -/
def execDstkwr (a b : Code) (S : Stall) (lit : Option Word) : State → Host.Outcome State Fault Refusal :=
  issue S (movePre a b [])
    (fun f s => withIndex f s a b lit 4 (fun i va => moveIn f s va 128 (fun bs =>
      let (lo, c) := ((s.wave f.wave).split i).coreEntries
      let es := (List.range c).map (fun j => entryOfBytes ((bs.drop (16 * j)).take 16))
      if !(es.all Entry.ok) then .trap causeIllegal 0
      else .done (s.modSplit f.wave i (fun p => { p with
        stack := ((List.range c).zip es).foldl (fun m e => mapSet Entry.zero m (lo + e.1) e.2) p.stack })))))

/-- A membership slot in the layout of R169. -/
def membBytes (m : Memb) : List Byte :=
  leBytes 8 m.handle.toNat ++ leBytes 8 m.mask.toNat ++ leBytes 8 m.arrived.toNat ++ leBytes 8 m.pending.toNat ++
    leBytes 8 m.early.toNat ++ leBytes 8 m.waiting.toNat ++ leBytes 4 m.phase.toNat ++ List.replicate 12 0

/-- CLMEMB (R291). -/
def execClmemb (a b : Code) (S : Stall) (lit : Option Word) : State → Host.Outcome State Fault Refusal :=
  issue S (movePre a b [])
    (fun f s => withIndex f s a b lit 8 (fun i va =>
      moveOut f s va (membBytes (mapGet Memb.empty (s.wave f.wave).memb i))))

/-- A membership slot from its image. -/
def membOfBytes (bs : List Byte) : Memb :=
  let m := fun o => (BitVec.ofNat 64 (fieldNat bs o 8) : Dword)
  { handle := m 0, mask := m 8, arrived := m 0x10, pending := m 0x18, early := m 0x20, waiting := m 0x28,
    phase := BitVec.ofNat 32 (fieldNat bs 0x30 4) }

/-- A slot after `n` completions. -/
def Memb.completeN (m : Memb) : Nat → Memb
  | 0 => m
  | n + 1 => m.complete.completeN n

/-- CLRESTORE (R292). -/
def execClrestore (a b : Code) (S : Stall) (lit : Option Word) : State → Host.Outcome State Fault Refusal :=
  issue S (movePre a b [])
    (fun f s => withIndex f s a b lit 8 (fun i va => moveIn f s va 64 (fun bs =>
      let x := s.wave f.wave
      let m := membOfBytes bs
      let put := fun (m : Memb) (s : State) => s.modWave f.wave (fun x => { x with memb := mapSet Memb.empty x.memb i m })
      let e := handleEntry m.handle
      let c := s.clause e
      let d := (c.phase - m.phase).toNat
      if handleType m.handle = 0 then .done (put Memb.empty s)
      else if handleType m.handle ≠ 1 ∨ !(s.clauseLive m.handle x.csr.asid x.csr.world) then clauseTrap 2
      else if 2 < d then .trap causeIllegal 0
      else .done (put { m.completeN d with phase := c.phase } (s.setClause e { c with parked := c.parked - 1 })))))

/-! ### PARK (R287) -/

/-- A token record in the layout of R252. -/
def tokenBytes (t : Token) : List Byte :=
  leBytes 8 t.failmask.toNat ++ leBytes 8 (if t.failmask = 0 then 0 else
    t.id % 2 ^ 20 + 2 ^ 20 * ((t.dcount - 1) % 32) + 2 ^ 25 * (t.dreg % 128) + 2 ^ 32 * (t.subcode % 16) +
      (if t.unc then 2 ^ 36 else 0))

/-- HEADER and TOKENS of the save area (R290). -/
def parkBytes (x : Wave) (clk : Nat) : List Byte :=
  leBytes 4 0x4B524150 ++ leBytes 1 x.blocks ++ leBytes 1 0 ++ leBytes 2 0 ++ leBytes 8 x.age ++ leBytes 8 clk ++
    List.replicate 40 0 ++ (List.range 8).flatMap (fun k => tokenBytes (mapGet Token.idle x.k k))

/-- What the device keeps of a parked wave (R287); its memberships stand at the homes (R168). -/
def Wave.park (x : Wave) : Wave :=
  { Wave.none with
    life := .parked, cluster := x.cluster, gang := x.gang, idx := x.idx, role := x.role, origin := x.origin,
    blocks := x.blocks, age := x.age, seq := x.seq, memb := x.memb, quads := x.quads, locked := x.locked, gbars := x.gbars, area := x.area,
    uncs := x.uncs.map (fun u => { u with regs := [] }),
    csr := { Csrs.zero with
      prio := x.csr.prio, asid := x.csr.asid, ttbase := x.csr.ttbase, world := x.csr.world, priv := x.csr.priv,
      trapvec := x.csr.trapvec, savearea := x.csr.savearea, savesize := x.csr.savesize, launchid := x.csr.launchid } }

/-- Where the 192 bytes of HEADER and TOKENS stand (R290), or the first address that fails and how: two places where SAVEAREA lies
so that they cross the end of a page. Each line is a place of its own. -/
def parkPlaces (s : State) (sp : Space) (va : Dword) : Except (Dword × Check) (List (Nat × Nat)) :=
  let m := min 192 (65536 - va.toNat % 65536)
  let next := va + BitVec.ofNat 64 m
  match checkVa s sp .write 64 va with
  | .ok pa =>
    if m = 192 then .ok (cutLines [(pa, 192)])
    else (match checkVa s sp .write 1 next with
      | .ok qa => .ok (cutLines [(pa, m), (qa, 192 - m)])
      | c => .error (next, c))
  | c => .error (va, c)

/-- PARK (R287). -/
def execPark (S : Stall) : State → Host.Outcome State Fault Refusal :=
  issue S (fun _ _ => sysPre true true [] [])
    (fun f s =>
      let x := s.wave f.wave
      if !x.csr.handler || x.csr.trapcause ≠ causePreempt then .trap causeIllegal 0
      else if x.counter 1 ≠ 0 then .hold
      else match parkPlaces s (s.space f.wave) x.csr.savearea with
        | .error (va, .trap c) => .trap c va
        | .error (va, .miss bad) => .xlate false bad (accessBits .write) 0xFF va []
        | .error (va, .ok _) => .trap causeIllegal va
        | .ok ps =>
          if ps.any (fun p => s.lineOwned (p.1 / 128)) then .hold
          else
            let s := s.writeSpan x.cluster ps (parkBytes x s.clk)
            let s := s.countParked f.wave (· + 1)
            let s := s.modGang x.gang (fun g => { g with quota := mapSet 0 g.quota x.core (mapGet 0 g.quota x.core - x.blocks) })
            .quit ((s.issued f).setWave f.wave x.park))

end Sys2Proof.Machine
end

