-- ==== Sys2Proof/Machine/Agents.lean ====
section
/-! DEFINITION. Steps that the device and its firmware take on waves: waking and granting (R95, R101, R102), the end of
run-ahead and rollback (R299, R300), kills (R283), and pre-emption, eviction and resume (R286 to R289). -/

namespace Sys2Proof.Machine

/-- The wave is resident, alive, and outside its handler. -/
def Wave.running (x : Wave) : Bool := x.life = .resident && !x.died && !x.csr.handler

/-- SLEEP_WAKE (R101): a sleeping split wakes when WAKE is zero. Subject: wave, split. -/
def execSleepWake (s : State) : Host.Outcome State Fault Refusal :=
  let w := s.arg 0
  let k := s.arg 1
  let x := s.wave w
  let p := x.split k
  .next (if x.running ∧ x.ra.isNone ∧ k < 4 ∧ p.state = 3 then
      let t := max s.clk p.wakeAt
      { s.modWave w (fun x => { x.modSplit k (fun p => { p with state := 1, wake := 0, next := max p.next t }) with
        readySince := max x.readySince t }) with clk := t }
    else s)

/-- REGCLAIM_GRANT (R102): the oldest request of a gang's waves on a core is served when the pool holds its blocks; the new
registers read zero. The limits on B + n were checked at issue; where two splits of the wave wait in CLAIM each is served
without another check (DESIGN CHOICE, log 63). A run-ahead's checkpoint receives the blocks too. Subject: wave, split. -/
def execRegclaimGrant (s : State) : Host.Outcome State Fault Refusal :=
  let w := s.arg 0
  let k := s.arg 1
  let x := s.wave w
  .next (match (x.split k).claim with
    | some (n, o, next, S) =>
      if x.running ∧ (x.split k).state = 4 ∧ n ≤ s.pool x.gang x.core ∧ s.olderClaim x.gang x.core o = false then
        s.modWave w (fun x =>
          (x.modSplitKept k (fun p =>
            { p with state := 1, claim := Option.none, pc := next, next := s.nextAfter w k S })).addBlocks n)
      else s
    | none => s)

/-- WAVE_STARVING (R95): a wave that has had a ready split for 512 clk without issuing is starving. Subject: wave. -/
def execWaveStarving (s : State) : Host.Outcome State Fault Refusal :=
  let w := s.arg 0
  let x := s.wave w
  .next (if x.starves s.clk then s.modWave w (fun x => { x with starving := true })
    else s)

/-! ### Run-ahead and rollback (R299, R300) -/

/-- RUNAHEAD_END (R299): a run-ahead that has reached a limit, or that an event ends, ends. Subject: wave. -/
def execRunaheadEnd (s : State) : Host.Outcome State Fault Refusal :=
  let x := s.wave (s.arg 0)
  .next (match x.ra with
    | some r => if r.over x.preempt then s.stopAhead (s.arg 0) else s
    | none => s)

/-- The wave as it was at the faulting instruction, with the counts of its last run-ahead (R300). -/
def Wave.restore (x : Wave) (r : RunAhead) : Wave :=
  let gone := x.flight.filter (fun a => decide (r.fromSeq ≤ a.seq))
  let y := gone.foldl (fun (y : Wave) a => y.setCounter a.path (y.counter a.path - 1)) x
  { y with
    v := r.cp.v, s := r.cp.s, p := r.cp.p, h := r.cp.h, mode := r.cp.mode, splits := r.cp.splits, board := r.cp.board,
    badRegs := r.cp.badRegs ++ y.badRegs.filter (fun e => match e.1 with
      | .k _ => true
      | _ => false),
    flight := (x.flight.filter (fun a => decide (a.seq < r.fromSeq))).map (fun a => { a with raKilled := [] }),
    uncs := x.uncs.map (fun u => { u with ahead := 0 }),
    csr := { x.csr with fpstat := r.cp.fpstat, raPages := r.pages.length, raInsns := r.insns }, ra := Option.none }

/-- The batch record of a run-ahead (R300): none where it created no merge entry. -/
def State.batchRecord (s : State) (w : Nat) (r : RunAhead) : State :=
  if r.created.isEmpty then s
  else s.sendFault (waveRec (s.wave w) false r.access r.scope r.va (r.page :: r.created.filter (fun p => p ≠ r.page)))

/-- ROLLBACK (R300, R301): the loads of a run-ahead that has ended have returned; the checkpoint is restored, the record is
sent, and the split waits on its page or goes on. Subject: wave. -/
def execRollback (s : State) : Host.Outcome State Fault Refusal :=
  let w := s.arg 0
  let x := s.wave w
  .next (match x.ra with
    | none => s
    | some r =>
      if !r.stopped || x.flight.any (fun a => decide (r.fromSeq ≤ a.seq) && !a.finished) then s
      else if x.badCheckpoint then s.die w none
      else
        let s := (s.batchRecord w r).modWave w (fun x => x.restore r)
        let s := if x.preempt then s.abandonHeld w else s
        let set := fun (f : Split → Split) => s.modSplit w r.split (fun p => f { p with next := max p.next s.clk })
        State.takePending (match r.outcome with
        | 0 => set (fun p => { p with wait := if x.preempt then .none else .merge r.asid r.page r.va })
        | 1 => set (fun p => p)
        | _ => set (fun p => { p with pend := some { cause := causeXlate, pc := p.pc, arg := r.va } })) w)

/-! ### Kills, pre-emption, eviction and resume -/

/-- FIRMWARE_KILL (R283). Subject: wave. -/
def execFirmwareKill (s : State) : Host.Outcome State Fault Refusal :=
  let w := s.arg 0
  let x := s.wave w
  .next (if (x.life = .parked || (x.life = .resident && !x.ended)) && !x.died then s.die w (some (deathRec x 0 0)) else s)

/-- PREEMPT_REQUEST (R282, R286): firmware pre-empts a wave. Subject: wave. -/
def execPreemptRequest (s : State) : Host.Outcome State Fault Refusal := .next (s.preemptWave (s.arg 0))

/-- Phase 1 of a pre-emption has drained (R286). -/
def State.drained (s : State) (w : Nat) : Bool :=
  let x := s.wave w
  x.ra.isNone && [0, 2, 3, 4, 5, 6, 7].all (fun i => x.counter i = 0) &&
    (List.range 8).all (fun i => !(mapGet Token.idle x.k i).pending) && x.hops.all (fun h => h.holding) && !(s.nlBusy w)

/-- PREEMPT_ENTRY (R286): once phase 1 has drained, the wave takes PREEMPT. Subject: wave. -/
def execPreemptEntry (s : State) : Host.Outcome State Fault Refusal :=
  let w := s.arg 0
  let x := s.wave w
  .next (if !x.preempt || !x.running || x.ended then s
    else if s.drained w then
      (s.modWave w (fun x => { x with
        preempt := false, pend := some { cause := causePreempt, pc := 0, arg := 0 } })).takePending w
    else s.rushRows w)

/-- The waves of a gang that are left, by WAVEIDX: all parked and alive. -/
def State.allParked (s : State) (g : Nat) : Bool :=
  let y := s.gang g
  y.live && y.areas.isEmpty && decide (y.released.length < y.waves) &&
    (List.range y.waves).all (fun i => y.released.contains i || (s.wave (mapGet 0 y.ids i)).life = .parked)

/-- SCRIMG of a gang: its address, from WAVEIDX 0's save area (R290). -/
def State.scrImg (s : State) (g : Nat) : Dword :=
  (s.wave (mapGet 0 (s.gang g).ids 0)).csr.savearea + BitVec.ofNat 64 (0x8E00 + 512 * (s.gang g).accRows)

/-- The space of WAVEIDX 0's save area. -/
def State.imgSpace (s : State) (g : Nat) : Space := s.space (mapGet 0 (s.gang g).ids 0)

/-- A command that writes the gang's scratch window, or still reads it, is in flight (R186, R306). -/
def State.windowBusy (s : State) (g : Nat) : Bool :=
  s.clusters.any (fun e => e.2.copyCmds.any (fun q =>
    (q.gang = g && (!q.accepted || q.readsWindow)) || (q.outs s e.1).any (fun p => p.1 = some g))) ||
    !(s.gangMx g).cmds.isEmpty

/-- GANG_EVICT (R288, R306): a gang whose waves are all parked, and whose space R277 needs, gives up its window and rows, once no
command writes its window or reads it any more. Subject: gang. -/
def execGangEvict (s : State) : Host.Outcome State Fault Refusal :=
  let g := s.arg 0
  let y := s.gang g
  let w0 := s.wave (mapGet 0 y.ids 0)
  .next (if !(s.allParked g) || y.evicted || w0.life ≠ .parked || !(s.spaceNeeded g) || s.windowBusy g then s
    else match s.engPlaces (s.imgSpace g) .write (s.scrImg g) (1024 * y.scrKib),
        checkVa s (s.imgSpace g) .write 1 (w0.csr.savearea + 5) with
      | .ok ps, .ok flag =>
        ((s.putPieces ps (s.scrRead g 0 (1024 * y.scrKib))).writeBy y.cluster flag [1]).modGang g (fun y =>
          { y with scratch := [], evicted := true })
      | _, _ => s)

/-- A lane of the wave waits on a phase of a clause that has not completed: an operation of the wave waits at the home, or an
arrival of it stands over a trap or a park (R168, R170). -/
def Wave.waitsOn (x : Wave) (h : Dword) : Bool :=
  let m := x.membOf h
  (x.life = .resident || x.life = .parked) &&
    (x.hops.any (fun q => q.onClause && q.reached && q.hnd = h && !(q.arrived.isSome && m.settled q.act)) ||
      !(m.settled m.waiting))

/-- A lane of the wave is a member that has not arrived in the phase that a lane waits on: the most urgent priority of such
waiters, or of PIXLOCKs that wait on its lanes (R22, R170, R341). -/
def State.waitedFor (s : State) (x : Wave) : Option Nat :=
  lowestOf (s.lockWaiters (mapGet 0 (s.gang x.gang).ids x.idx) ++ (List.range 8).flatMap (fun j =>
    let m := mapGet Memb.empty x.memb j
    if m.handle = 0 ∨ m.mask &&& ~~~ m.arrived &&& ~~~ m.pending = 0 then []
    else s.waves.filterMap (fun e => if e.2.waitsOn m.handle then some e.2.csr.prio else none)))

/-- The place of a parked wave in the resume order: lower first (R21, R22, R170). -/
def State.resumeRank (s : State) (x : Wave) : Nat :=
  let own := 2 * x.csr.prio + 1
  match s.waitedFor x with
  | some p => min own (2 * p)
  | none => own

/-- An evicted gang's window and rows are reserved again and its scratch is restored (R288). -/
def State.restoreGang (s : State) (g rb : Nat) : Option State :=
  let y := s.gang g
  match s.engPlaces (s.imgSpace g) .read (s.scrImg g) (1024 * y.scrKib) with
  | .error _ => none
  | .ok ps =>
    let bs := ps.flatMap (fun p => s.readBytes p.1 p.2)
    some (({ s with badScratch := s.badScratch.filter (fun e => e.1 ≠ g) }.modGang g (fun y => { y with
      scratch := scrPut [] 0 bs, evicted := false, rb, scrPlace := (s.freeVal 601).toNat % 2 ^ 32 })).giveRows y.cluster
        rb y.accRows)

/-- A token from its record (R252). -/
def tokenOfBytes (bs : List Byte) : Token :=
  let f := fieldNat bs 0 8
  let n := fieldNat bs 8 8
  if f = 0 then Token.idle
  else { Token.idle with failmask := BitVec.ofNat 64 f, id := n % 2 ^ 20, dcount := n / 2 ^ 20 % 32 + 1,
                         dreg := n / 2 ^ 25 % 128, subcode := n / 2 ^ 32 % 16, unc := n / 2 ^ 36 % 2 = 1 }

/-- A parked wave as it resumes (R289). -/
def Wave.resumed (x : Wave) (k : Task) (g : Gang) (seat : Nat × Nat) (clk : Nat) (tokens : List Byte) : Wave :=
  { x with
    life := .resident, core := seat.1, slot := seat.2, memb := [], splits := List.replicate 5 Split.free,
    k := (List.range 8).foldl (fun m i => mapSet Token.idle m i (tokenOfBytes ((tokens.drop (16 * i)).take 16))) [],
    readySince := clk,
    csr := { x.csr with
      codebase := k.entryVa &&& ~~~ 0xFFFF#64, scrbase := BitVec.ofNat 32 g.scrPlace,
      scrsize := BitVec.ofNat 32 (1024 * g.scrKib) } }

/-- WAVE_RESUME (R288, R289): a parked wave is placed on its cluster, the first in the resume order that can be, and enters
its handler with RESUME; none is while a gang of priority 0 needs the space (R277, log 69), and one of priority 0 that finds no room
pre-empts (R21). Subject: wave; the run of rows that an evicted gang takes. -/
def execWaveResume (s : State) : Host.Outcome State Fault Refusal :=
  let s := s.sweep
  let w := s.arg 0
  let x := s.wave w
  let first := s.waves.any (fun e => e.2.cluster = x.cluster && s.canResume e.2 &&
    decide (s.resumeRank e.2 < s.resumeRank x))
  .next (if x.life = .parked && !(s.canResume x) then s.parkGangs (s.resumeVictims x)
    else if !(s.canResume x) || first || s.spaceNeeded x.gang then s
    else
      let g := s.gang x.gang
      let back := if g.evicted then
          (choose (s.freeRuns x.cluster g.accRows) (s.arg 1)).bind (fun rb => s.restoreGang x.gang rb)
        else some s
      match back, s.resumeSeat x, s.engRead (s.space w) (x.csr.savearea + 0x40) 128 with
      | some s, some seat, .ok tokens =>
        let g := s.gang x.gang
        let s := s.setWave w (x.resumed (s.task g.task) g seat s.clk tokens)
        (s.modGang x.gang (fun g => { g with
          seats := g.seats.set x.idx seat, quota := mapSet 0 g.quota seat.1 (mapGet 0 g.quota seat.1 + x.blocks) })).raiseTrap w 4
            { cause := causeResume, pc := 0, arg := 0 }
      | _, _, _ => s)

end Sys2Proof.Machine
end

