-- ==== Sys2Proof/Machine/Neighbour.lean ====
section
/-! DEFINITION. The neighbour-list class (R353 to R368): grid records, the geometry, NLGRID, NLINS, NLPAIRS and NLSTAT at issue,
and the engine's acceptance, turn and end of a command. -/

namespace Sys2Proof.Machine

/-! ### Grid records (R353 to R356) -/

/-- A grid record (R353). -/
structure Grid where
  magic : Nat
  status : Nat
  npart : Nat
  cap : Nat
  per : Nat
  home : Nat
  len : List Nat
  rc : Nat
  skin : Nat
  cell : Nat
  n : List Nat
  cells : Dword
  ovf : Dword
  ovfCap : Nat
  ovfUsed : Nat
  lostMin : Nat
  disp : Dword
  pos : Dword
  /-- The RZ fields are zero. -/
  zero : Bool
  deriving DecidableEq, Repr

/-- Reads a record from its 128 bytes. -/
def gridOf (bs : List Byte) : Grid :=
  let f := fieldNat bs
  let d := fun o => BitVec.ofNat 64 (f o 8)
  { magic := f 0 4, status := f 4 4, npart := f 8 4, cap := f 12 1, per := f 13 1 % 8, home := f 14 1 % 8,
    len := [f 0x10 4, f 0x14 4, f 0x18 4], rc := f 0x1C 4, skin := f 0x20 4, cell := f 0x24 4,
    n := [f 0x28 2, f 0x2A 2, f 0x2C 2], cells := d 0x30, ovf := d 0x38, ovfCap := f 0x40 4, ovfUsed := f 0x44 4,
    lostMin := f 0x48 4, disp := d 0x50, pos := d 0x58,
    zero := decide (f 13 1 < 8) && f 15 1 = 0 && f 0x2E 2 = 0 && f 0x61 31 = 0 }

/-- A finite F32 image in units of 2^-149. -/
def nlUnits (x : Nat) : Int :=
  match decodeNum fmtF32 x with
  | .fin n m e => inUnits n m e (-149)
  | _ => 0

/-- An F32 image is finite. -/
def f32Finite (x : Nat) : Bool := !(fmtF32.isNan x) && !(fmtF32.isInf x)

def f32Positive (x : Nat) : Bool := f32Finite x && decide (0 < nlUnits x)

/-- An array address is canonical and aligned. -/
def arrayOk (va : Dword) (al : Nat) : Bool := canonical va && va.toNat % al = 0

/-- Cells of a grid. -/
def Grid.ncell (g : Grid) : Nat := el g.n 0 * el g.n 1 * el g.n 2

/-- The record is valid (R354). -/
def Grid.valid (g : Grid) : Bool :=
  g.magic = 0x4452474E && decide (1 ≤ g.npart) && decide (g.npart ≤ 2 ^ 24) && decide (1 ≤ g.cap) && decide (g.cap ≤ 64) &&
    g.zero && g.len.all f32Positive && f32Positive g.rc && (f32Finite g.skin && decide (g.skin < 2 ^ 31)) &&
    f32Finite g.cell && decide (nlUnits g.rc + nlUnits g.skin ≤ nlUnits g.cell) &&
    g.n.all (fun n => decide (1 ≤ n) && decide (n ≤ 1024)) && decide (g.ncell ≤ 2 ^ 22) && decide (g.ovfCap ≤ 2 ^ 24) &&
    arrayOk g.cells 64 && arrayOk g.ovf 8 && arrayOk g.disp 16 && arrayOk g.pos 16 &&
    (List.range 3).all (fun a => decide ((el g.n a : Int) * nlUnits g.cell ≤ nlUnits (el g.len a)))

/-- Axis `a` is periodic. -/
def Grid.periodic (g : Grid) (a : Nat) : Bool := g.per.testBit a

/-- The cut-off is more than half the box on a periodic axis (R354). -/
def Grid.cutBad (g : Grid) : Bool :=
  (List.range 3).any (fun a => g.periodic a && decide (nlUnits (el g.len a) < 2 * nlUnits g.rc))

/-- A BUILD has completed (R355). -/
def Grid.built (g : Grid) : Bool := g.status.testBit 31

/-- Bytes of a cell (R356). -/
def Grid.cellBytes (g : Grid) : Nat := 64 * ((4 * (g.cap + 1) + 63) / 64)

/-- The addresses of a cell, an overflow entry, and a particle's entries in DISP and POS. -/
def Grid.cellVa (g : Grid) (c : Nat) : Dword := g.cells + BitVec.ofNat 64 (g.cellBytes * c)
def Grid.ovfVa (g : Grid) (k : Nat) : Dword := g.ovf + BitVec.ofNat 64 (8 * k)
def Grid.dispVa (g : Grid) (p : Nat) : Dword := g.disp + BitVec.ofNat 64 (16 * p)
def Grid.posVa (g : Grid) (p : Nat) : Dword := g.pos + BitVec.ofNat 64 (16 * p)

/-- The four arrays: address and length. -/
def Grid.arrays (g : Grid) : List (Dword × Nat) :=
  if g.valid then [(g.cells, g.cellBytes * g.ncell), (g.ovf, 8 * g.ovfCap), (g.disp, 16 * g.npart), (g.pos, 16 * g.npart)]
  else []

/-! ### Geometry (R357) -/

/-- wrap(x). -/
def Grid.wrap (g : Grid) (a x : Nat) : Nat :=
  if g.periodic a then
    let w := (roundFin fmtF32 envRNE false (nlUnits x % nlUnits (el g.len a)).toNat (-149)).1
    if w = el g.len a then 0 else w
  else x

/-- cellax(w). A position outside the box on a periodic axis, which only a foreign write leaves, acts as the nearest cell
(R356). -/
def Grid.cellAx (g : Grid) (a w : Nat) : Nat :=
  min (el g.n a - 1) (nlUnits w * (el g.n a : Int) / nlUnits (el g.len a)).toNat

/-- The cell of a position. -/
def Grid.cellOf (g : Grid) (pos : List Nat) : Nat :=
  g.cellAx 0 (el pos 0) + el g.n 0 * (g.cellAx 1 (el pos 1) + el g.n 1 * g.cellAx 2 (el pos 2))

/-- Twice a difference is more than a box length. -/
def overHalf (d len : Nat) : Bool :=
  match decodeNum fmtF32 d with
  | .inf neg => !neg
  | .nan _ => false
  | .fin _ _ _ => decide (nlUnits len < 2 * nlUnits d)

/-- mi(b, a0). -/
def Grid.mi (g : Grid) (a b a0 : Nat) : Nat :=
  let l := el g.len a
  let d := fmtF32.sub b a0
  if !(g.periodic a) then d
  else if overHalf d l then fmtF32.sub d l
  else if overHalf (fmtF32.neg d) l then fmtF32.add d l
  else d

/-- The components from one position to another, and dist2. -/
def Grid.between (g : Grid) (b a0 : List Nat) : List Nat := (List.range 3).map (fun a => g.mi a (el b a) (el a0 a))

def dist2 (d : List Nat) : Nat :=
  fmtF32.fma (el d 2) (el d 2) (fmtF32.fma (el d 1) (el d 1) (fmtF32.mul (el d 0) (el d 0)))

/-- RC2 and H2. -/
def Grid.rc2 (g : Grid) : Nat := fmtF32.mul g.rc g.rc
def Grid.h2 (g : Grid) : Nat :=
  match decodeNum fmtF32 g.skin with
  | .fin _ m e => (roundFin fmtF32 envRNE false (m * m) (2 * e - 2)).1
  | _ => 0

/-! ### The instructions at issue (R358 to R360) -/

/-- The grid of a handle (R360, checks 1 to 3). -/
def withGrid (h : Dword) (k : Dword → Res) : Res :=
  let va := handleAddr h
  if handleType h ≠ 6 then .trap causeNle 1
  else if !(canonical va) then .trap causeProt va
  else if va.toNat % 128 ≠ 0 then .trap causeNle 2
  else k va

/-- A command of the issuing wave. -/
def nlCmd (f : Focus) (s : State) (op : Instr) (S : Stall) (grid : Dword) (act : Mask) (vals : List Nat) : NlCmd :=
  let x := s.wave f.wave
  { wave := f.wave, split := f.split, seq := x.seq, op, act, sec := sectionOf x.cluster, grid,
    vals := [f.next.toNat, S.toNat] ++ vals, arrived := false, turned := false, status := 0, page := none, refused := false,
    asid := x.csr.asid, ttbase := x.csr.ttbase, world := x.csr.world, launchid := x.csr.launchid, cluster := x.cluster,
    areas := [], pa := 0, head := [] }

/-- Sends a command; the CPY counter rises with those that it counts (R359). -/
def State.sendNl (s : State) (c : NlCmd) : State :=
  { s with nl := s.nl ++ [c] }.modWave c.wave (fun x =>
    { (if nlCounted c then x.raiseCpy c.seq else x) with seq := x.seq + 1 })

/-- NLGRID (R362). -/
def execNlgrid (d a : Code) (op : BitVec 2) (S : Stall) : State → Host.Outcome State Fault Refusal :=
  issue S (fun f _ => { ok := dstOk d && hOk a, reads := hRegs a, writes := srcRegs f.split d, ra := .suppress })
    (fun f s => withGrid (s.readH f.wave a.toNat) (fun g =>
      if pathFull (s.wave f.wave) 6 then .hold
      else .wait (s.sendNl (nlCmd f s (.nlgrid d a op S) S g 0 []))))

/-- NLINS (R363): each lane's particle index and position are read at issue. -/
def execNlins (d a b : Code) (mode : BitVec 2) (S : Stall) : State → Host.Outcome State Fault Refusal :=
  issue S
    (fun f s => { lanes := true, ok := vOkAl (s.wave f.wave) d 3 4 && hOk a && vOk (s.wave f.wave) b 1,
                  reads := vRegs d 3 ++ hRegs a ++ vRegs b 1 ++ s.activeRegs f.wave f.split, ra := .suppress })
    (fun f s =>
      let act := s.active f.wave f.split
      if act = 0 then .done s
      else withGrid (s.readH f.wave a.toNat) (fun g =>
        if pathFull (s.wave f.wave) 6 then .hold
        else .done (s.sendNl (nlCmd f s (.nlins d a b mode S) S g act
          ((Mask.lanes act).flatMap (fun L => (s.readV f.wave b.toNat L).toNat ::
            (List.range 3).map (fun i => (s.readV f.wave (d.toNat + i) L).toNat)))))))

/-- SKIP of NLPAIRS names a scalar register, or 127 for zero. -/
def skipOk (c : Code) : Bool := decide (c.toNat < 96) || c = 127

/-- NLPAIRS (R366): the ring, the first slot and SKIP are read at issue. -/
def execNlpairs (d a b : Code) (hring : BitVec 4) (full : BitVec 1) (skip : BitVec 7) (slots : BitVec 12) (S : Stall)
    (lit : Option Word) : State → Host.Outcome State Fault Refusal :=
  issue S
    (fun f _ => { ok := dstOk d && hOk a && pairSrcOk false b && skipOk skip,
                  reads := hRegs a ++ pairRegs f.split b ++ srcRegs f.split skip ++ [.h hring.toNat],
                  writes := srcRegs f.split d, ra := .suppress })
    (fun f s => withGrid (s.readH f.wave a.toNat) (fun g =>
      withRing f s (s.readH f.wave hring.toNat) (fun pa r =>
        let i := (s.readPair f.wave f.split lit b).toNat
        if i < r.rel ∨ r.resv < i + slots.toNat + 1 then .trap causeNle 3
        else if r.slotLog < 5 then .trap causeNle 4
        else if pathFull (s.wave f.wave) 6 then .hold
        else .wait (s.sendNl (nlCmd f s (.nlpairs d a b hring full skip slots S lit) S g 0
          [pa, i, (s.readSrc f.wave f.split none skip).toNat])))))

/-- NLSTAT (R367). -/
def execNlstat (d a : Code) (S : Stall) : State → Host.Outcome State Fault Refusal :=
  issue S (fun f _ => { ok := dstOk d && hOk a, reads := hRegs a, writes := srcRegs f.split d, ra := .suppress })
    (fun f s => withGrid (s.readH f.wave a.toNat) (fun g =>
      .wait (s.sendNl (nlCmd f s (.nlstat d a S) S g 0 []))))

/-! ### The engine: which one, its space, its lines -/

/-- The bytes of a grid's record as they stand, where its address translates. -/
def State.gridBytes (s : State) (c : NlCmd) : Option (Nat × List Byte) :=
  match translate s { asid := c.asid, ttbase := c.ttbase, secure := true, tlbs := [256 + c.cluster] } c.grid with
  | .ok pa _ => some (pa, s.readBytes pa 128)
  | _ => none

/-- The section whose engine performs a command (R361): HOME of a built grid, else the issuing cluster's. -/
def State.nlHome (s : State) (c : NlCmd) : Nat :=
  match s.gridBytes c with
  | some (_, bs) => if (gridOf bs).built then (gridOf bs).home else c.sec
  | none => c.sec

/-- The engine's space: it acts in its own world (R378), and never in more than the world of the wave that issued the
command, whatever stands in the record's HOME (R6). -/
def State.nlSpace (s : State) (c : NlCmd) : Space :=
  { asid := c.asid, ttbase := c.ttbase, secure := decide (c.world = 1) && s.nlSecure.getD (s.nlHome c) false,
    tlbs := [256 + c.cluster, 320 + s.nlHome c] }

/-- Two commands are on one grid: by its address, or by its record's place. -/
def State.sameGrid (s : State) (a b : NlCmd) : Bool :=
  (a.asid = b.asid && a.grid = b.grid) ||
    (match s.gridBytes a, s.gridBytes b with
      | some x, some y => x.1 = y.1
      | _, _ => false)

/-- The places of a command's record and arrays, and of its slots, as far as their pages permit the access. -/
def State.nlGridAreas (s : State) (c : NlCmd) (acc : Access) : List (Nat × Nat) :=
  match s.gridBytes c with
  | none => []
  | some (pa, bs) => (pa, 128) :: ((gridOf bs).arrays).flatMap (s.areaPlaces (s.nlSpace c) acc)

/-- The value that a command captured at a place (R9). -/
def NlCmd.val (c : NlCmd) (i : Nat) : Nat := c.vals.getD (i + 2) 0

/-- Slots of an NLPAIRS. -/
def NlCmd.slots (c : NlCmd) : Nat :=
  match c.op with
  | .nlpairs _ _ _ _ _ _ n _ _ => n.toNat + 1
  | _ => 0

def State.nlSlotAreas (s : State) (c : NlCmd) : List (Nat × Nat) :=
  let r := s.ringHead (c.val 0)
  (List.range c.slots).flatMap (fun j => s.areaPlaces (s.nlSpace c) .write (r.slot (c.val 1 + j), 2 ^ r.slotLog))

/-- A command's destinations (R150, R356, R366), and all the places that it touches. -/
def State.nlDests (s : State) (c : NlCmd) : List (Nat × Nat) :=
  match c.op with
  | .nlpairs .. => (s.nlGridAreas c .write).take 1 ++ s.nlSlotAreas c
  | .nlstat .. => []
  | _ => s.nlGridAreas c .write

def State.nlPlaces (s : State) (c : NlCmd) : List (Nat × Nat) :=
  distinct (s.nlGridAreas c .read ++ s.nlGridAreas c .write ++ s.nlSlotAreas c)

/-- Another engine owns a line of these places: a copy engine, a ray unit, or the engine of another grid. -/
def State.areasOwned (s : State) (c : NlCmd) (ps : List (Nat × Nat)) : Bool :=
  s.clusters.any (fun e => e.2.copyCmds.any (fun b => b.lines.any (lineIn ps))) ||
    s.waves.any (fun e => e.2.flight.any (fun a => a.owned.any (lineIn ps))) ||
    s.nl.any (fun b => b.arrived && !(s.sameGrid b c) && b.areas.any (fun p => ps.any (fun q =>
      decide (p.1 / 128 ≤ (q.1 + q.2 - 1) / 128) && decide (q.1 / 128 ≤ (p.1 + p.2 - 1) / 128))))

/-- An access of the command's wave that comes before it, to a line of these places, is on its way (R150). -/
def State.nlBehind (s : State) (c : NlCmd) (ps : List (Nat × Nat)) : Bool :=
  (s.wave c.wave).flight.any (fun a => decide (a.seq < c.seq) && !a.scratch &&
    (a.more || a.accs.any (fun q => !q.fixed && lineIn ps (q.pa / 128))))

/-! ### Acceptance (R359, R361) -/

/-- The command at a place, where it may arrive: the commands of one wave on one grid arrive in issue order, and earlier
accesses of the wave to the command's lines come first (R150). -/
def State.nlArrivable (s : State) (k : Nat) : Option NlCmd :=
  match s.nl[k]? with
  | none => none
  | some c =>
    if c.arrived || (s.nl.take k).any (fun b => b.wave = c.wave && !b.arrived && s.sameGrid b c) ||
        s.nlBehind c (s.nlPlaces c) || s.areasOwned c (s.nlDests c) then none
    else some c

/-- NL_COMMAND_ARRIVE (R361): the command takes its place in its grid's order, the engine owns its destinations, and the
CPY counter falls. Subject: the command's place. -/
def execNlCommandArrive (s : State) : Host.Outcome State Fault Refusal :=
  .next (match s.nlArrivable (s.arg 0) with
    | none => s
    | some c =>
      let areas := s.nlDests c
      let s := { s with nl := s.nl.eraseIdx (s.arg 0) ++ [{ c with arrived := true, areas }] }
      let s := s.dropCopies c.cluster (lineIn areas)
      if nlCounted c then s.modWave c.wave (fun x => x.acceptCpy c.seq) else s)

/-! ### Memory-side work: the record's fields and the arrays -/

/-- Work under way: the state, the record's fields that change, and the failure that stopped it. -/
structure NlRun where
  s : State
  status : Nat
  ovfUsed : Nat
  lostMin : Nat
  err : Option (EngErr × Access)

/-- A change of the fields, unless a failure has stopped the work (R368). -/
def NlRun.upd (r : NlRun) (f : NlRun → NlRun) : NlRun := if r.err.isSome then r else f r

/-- The engine reads; nothing once it has stopped. -/
def NlRun.get (r : NlRun) (sp : Space) (va : Dword) (n : Nat) : List Byte × NlRun :=
  match r.err, r.s.engRead sp va n with
  | some _, _ => ([], r)
  | none, .ok bs => (bs, r)
  | none, .error e => ([], { r with err := some (e, .read) })

/-- An engine's write that meets an uncorrectable sector fails. What it has written the engine reads back as written. -/
def State.nlWrite (s : State) (sp : Space) (va : Dword) (bs : List Byte) : Except EngErr State :=
  match s.engPlaces sp .write va bs.length with
  | .error e => .error e
  | .ok ps =>
    if ps.any (fun p => s.badAt p.1 p.2) then .error { cause := causeUncorr, va, bad := false }
    else
      let t := s.putPieces ps bs
      .ok { t with view := s.view.map (fun v =>
        let u := State.putPieces { s with mem := v.mem, badSectors := v.badSectors } ps bs
        { v with mem := u.mem, badSectors := u.badSectors }) }

/-- The engine writes. -/
def NlRun.put (r : NlRun) (sp : Space) (va : Dword) (bs : List Byte) : NlRun :=
  match r.err, r.s.nlWrite sp va bs with
  | some _, _ => r
  | none, .ok s => { r with s }
  | none, .error e => { r with err := some (e, .write) }

/-- Sets bits of STATUS. -/
def NlRun.mark (r : NlRun) (bits : Nat) : NlRun := r.upd (fun r => { r with status := Nat.lor r.status bits })

/-- bin(p) (R363). -/
def NlRun.bin (r : NlRun) (sp : Space) (g : Grid) (p : Nat) (pos : List Nat) : NlRun :=
  let c := g.cellOf pos
  let a := g.cellVa c
  let (bs, r) := r.get sp a 4
  let n := leNat bs
  let word := fun (r : NlRun) (x : Nat) => r.put sp (g.dispVa p + 12) (leBytes 4 x)
  if n < g.cap then word ((r.put sp (a + BitVec.ofNat 64 (4 * (n + 1))) (leBytes 4 p)).put sp a (leBytes 4 (n + 1))) c
  else if r.ovfUsed < g.ovfCap then
    ((word ((r.put sp (g.ovfVa r.ovfUsed) (leBytes 4 c ++ leBytes 4 p)).upd
      (fun r => { r with ovfUsed := r.ovfUsed + 1 })) c).mark 4)
  else (word r 0xFFFFFFFE).upd (fun r => { r with status := Nat.lor r.status 2, lostMin := min r.lostMin p })

/-- DISP word 3 of a particle that is absent, and the words of a position. -/
def absentWord : Nat := 0xFFFFFFFF

def posWords (bs : List Byte) : List Nat := [fieldNat bs 0 4, fieldNat bs 4 4, fieldNat bs 8 4]

def posBytes (ws : List Nat) : List Byte := ws.flatMap (leBytes 4)

/-- BUILD and REBIN (R362). -/
def NlRun.grid (r : NlRun) (sp : Space) (g : Grid) (rebin : Bool) : NlRun :=
  let r := r.upd (fun r => { r with status := 2 ^ 31 })
  let r := (List.range g.ncell).foldl (fun r c => r.put sp (g.cellVa c) (leBytes 4 0)) r
  let r := r.upd (fun r => { r with ovfUsed := 0, lostMin := absentWord })
  (List.range g.npart).foldl (fun (r : NlRun) p =>
    if rebin then
      let (w, r) := r.get sp (g.dispVa p + 12) 4
      if r.err.isSome ∨ leNat w = absentWord then r
      else
        let (bs, r) := r.get sp (g.posVa p) 12
        (r.put sp (g.dispVa p) bs).bin sp g p (posWords bs)
    else r.put sp (g.dispVa p + 12) (leBytes 4 absentWord)) r

/-- One lane of an NLINS (R363, R364): its particle and position. -/
def NlRun.insert (r : NlRun) (sp : Space) (g : Grid) (update : Bool) (p : Nat) (xyz : List Nat) : NlRun :=
  if !g.built || !g.valid || g.cutBad || decide (g.npart ≤ p) || !(xyz.all f32Finite) then r.mark 8
  else
    let (w, r) := r.get sp (g.dispVa p + 12) 4
    let absent : Bool := leNat w = absentWord
    if r.err.isSome then r
    else if update && absent then r.mark 8
    else
      let pos := (List.range 3).map (fun a => g.wrap a (el xyz a))
      let r := r.put sp (g.posVa p) (posBytes pos ++ leBytes 4 0)
      if absent then (r.put sp (g.dispVa p) (posBytes pos)).bin sp g p pos
      else
        let (bs, r) := r.get sp (g.dispVa p) 12
        if r.err.isNone ∧ fmtF32.lt g.h2 (dist2 (g.between pos (posWords bs))) then r.mark 1 else r

/-- The lanes of an NLINS in turn: four captured values each. -/
def NlRun.inserts (r : NlRun) (sp : Space) (g : Grid) (update : Bool) : List Nat → NlRun
  | p :: x :: y :: z :: rest => (r.insert sp g update p [x, y, z]).inserts sp g update rest
  | _ => r

/-- STATUS with the failure that stopped a command (R355, R368). -/
def faultStatus (status cause : Nat) : Nat :=
  Nat.lor (status % 2 ^ 24 + status / 2 ^ 30 * 2 ^ 30) (16 + cause % 64 * 2 ^ 24)

/-- A translation fault that finds its section's merge table full: it waits (R296). -/
def NlRun.waits (r : NlRun) (asid home : Nat) : Bool :=
  match r.err with
  | none => false
  | some (e, _) => e.cause = causeXlate && !(r.s.hasMerge home asid (pageOf e.va)) && r.s.mergeFull home

/-- The failure of a command is recorded in STATUS, and a translation fault is reported (R368). -/
def NlRun.settle (r : NlRun) (c : NlCmd) (sp : Space) (home : Nat) : NlRun :=
  match r.err with
  | none => r
  | some (e, acc) =>
    { r with
      status := faultStatus r.status e.cause,
      s := if e.cause = causeXlate then
          r.s.mergeFault home c.asid (pageOf e.va) (engineRec (if e.bad then 3 else 2) 4 acc c.asid c.cluster
            (if sp.secure then 1 else 0) c.launchid e.va)
        else r.s }

/-- The record's STATUS, OVFUSED and LOSTMIN are written. -/
def NlRun.commit (r : NlRun) (pa : Nat) : State :=
  ((r.s.writeMem (pa + 4) (leBytes 4 r.status)).writeMem (pa + 0x44) (leBytes 4 r.ovfUsed)).writeMem
    (pa + 0x48) (leBytes 4 r.lostMin)

/-! ### The pair stream (R365, R366) -/

/-- A pair of the stream: its particles, the components from i to j, dist2, and whether a member is lost. -/
structure NlPair where
  i : Nat
  j : Nat
  d : List Nat
  d2 : Nat
  lost : Bool
  deriving DecidableEq, Repr

/-- A particle as the stream reads it: absent, or its position and whether it is lost. -/
def State.particle (s : State) (sp : Space) (g : Grid) (p : Nat) : Except EngErr (Option (List Nat × Bool)) :=
  match s.engRead sp (g.dispVa p + 12) 4 with
  | .error e => .error e
  | .ok w =>
    if leNat w = absentWord then .ok none
    else match s.engRead sp (g.posVa p) 12 with
      | .error e => .error e
      | .ok bs => .ok (some (posWords bs, decide (leNat w = absentWord - 1)))

/-- The stream, in ascending (i, j); a failure stands where the pair's members are first read. -/
def Grid.stream (g : Grid) (full : Bool) (ps : List (Nat × Except EngErr (Option (List Nat × Bool)))) :
    List (Except EngErr NlPair) :=
  ps.flatMap (fun a => match a.2 with
    | .error e => [.error e]
    | .ok none => []
    | .ok (some x) => ps.flatMap (fun b =>
      if b.1 = a.1 ∨ (!full ∧ b.1 < a.1) then []
      else match b.2 with
        | .error e => [.error e]
        | .ok none => []
        | .ok (some y) =>
          let d := g.between y.1 x.1
          if fmtF32.le (dist2 d) g.rc2 then [.ok { i := a.1, j := b.1, d, d2 := dist2 d, lost := x.2 || y.2 }] else []))

/-- The record of a pair (R365). -/
def NlPair.bytes (p : NlPair) : List Byte :=
  leBytes 4 p.i ++ leBytes 4 p.j ++ posBytes p.d ++ leBytes 4 p.d2 ++ List.replicate 8 0

/-- Where an NLPAIRS writes and stops: the ring, its first slot, pairs per slot, slots, and SKIP. -/
structure NlOut where
  ring : RHead
  first : Nat
  perSlot : Nat
  slots : Nat
  skip : Nat

/-- Streams pairs into the slots (R366) from stream position `q` on, `m` of them written, `lost` where a pair with a lost
member has passed: the pairs written, and ENDCODE. -/
def NlRun.emit (r : NlRun) (sp : Space) (o : NlOut) : List (Except EngErr NlPair) → Nat → Nat → Bool → NlRun × Nat × Nat
  | [], _, m, _ => (r, m, 0)
  | .error e :: _, _, m, _ => ({ r with err := some (e, .read) }, m, 3)
  | .ok p :: rest, q, m, lost =>
    if q < o.skip then r.emit sp o rest (q + 1) m (lost || p.lost)
    else if m = o.slots * o.perSlot then (r, m, 1)
    else if p.lost && !lost then (r, m, 2)
    else
      let r := r.put sp (o.ring.slot (o.first + m / o.perSlot) + BitVec.ofNat 64 (32 * (m % o.perSlot))) p.bytes
      if r.err.isSome then (r, m, 3) else r.emit sp o rest (q + 1) (m + 1) lost

/-- Ends the slots of an NLPAIRS in ascending order (R180, R366, R368). -/
def State.endSlots (s : State) (sp : Space) (pa : Nat) (o : NlOut) (m : Nat) (cause : Option Nat) : State :=
  (List.range o.slots).foldl (fun s j =>
    s.ringEnd sp pa (o.first + j) (slotStatus (if j = m / o.perSlot then cause else none)
      (min o.perSlot (m - j * o.perSlot)))) s

/-- Where an NLPAIRS writes, from its ring as it stands. -/
def State.nlOut (s : State) (c : NlCmd) : NlOut :=
  let ring := s.ringHead (c.val 0)
  { ring, first := c.val 1, perSlot := 2 ^ (ring.slotLog - 5), slots := c.slots, skip := c.val 2 }

/-- The pairs of an NLPAIRS are written (R366): the work, the pairs written, and ENDCODE. -/
def NlRun.pairs (r : NlRun) (o : NlOut) (sp : Space) (g : Grid) (full : Bool) : NlRun × Nat × Nat :=
  let ps := (List.range g.npart).map (fun p => (p, r.s.particle sp g p))
  r.emit sp o (g.stream full ps) 0 0 false

/-- An NLPAIRS ends (R366, R368): its record takes `m` and ENDCODE, and its slots end. -/
def NlRun.endPairs (r : NlRun) (c : NlCmd) (o : NlOut) (sp : Space) (home m code : Nat) : State :=
  let cause := if code = 2 then some causeNle else r.err.map (fun e => e.1.cause)
  let s := (r.settle c sp home).commit c.pa
  let s := (s.writeMem (c.pa + 0x4C) (leBytes 4 m)).writeMem (c.pa + 0x60) (leBytes 1 code)
  s.endSlots sp (c.val 0) o m cause

/-! ### Turns and ends (R361, R366, R368) -/

/-- No command that arrived earlier on the grid is left. -/
def State.nlFirst (s : State) (k : Nat) (c : NlCmd) : Bool :=
  !((s.nl.take k).any (fun b => b.arrived && s.sameGrid b c))

/-- sd is written and the split goes on (R359), unless its wave is gone; a trap that waited for it is taken. -/
def State.nlAnswer (s : State) (c : NlCmd) (d : Code) (x : Word) : State :=
  let y := s.wave c.wave
  let p := y.split c.split
  if y.life ≠ .resident ∨ y.died ∨ p.wait ≠ .home then s
  else
    let s :=
      if dstBad d x then (s.modSplit c.wave c.split (fun p => { p with wait := .none })).raiseTrap c.wave c.split
        { cause := causeIllegal, pc := p.pc, arg := 0 }
      else (s.writeDst c.wave c.split 1 d x).release c.wave c.split (BitVec.ofNat 64 (c.vals.getD 0 0)) (c.vals.getD 1 1)
    s.takePending c.wave

/-- The command is over. -/
def State.nlDrop (s : State) (k : Nat) : State := { s with nl := s.nl.eraseIdx k }

/-- A held split's sd waits while another split of its wave runs ahead: a rollback would undo it (R299, R300). -/
def State.nlWaits (s : State) (c : NlCmd) : Bool :=
  let y := s.wave c.wave
  y.life = .resident && !y.died && y.ra.isSome && (match c.op with
    | .nlins .. => false
    | _ => (y.split c.split).wait = .home)

/-- The record's line cannot be read or written (R368). -/
def State.nlUnreadable (s : State) (k : Nat) (c : NlCmd) (cause : Nat) : State :=
  let s := s.nlDrop k
  match c.op with
  | .nlgrid d .. => s.nlAnswer c d 5
  | .nlpairs d .. => s.nlAnswer c d 5
  | .nlstat d .. => s.nlAnswer c d (BitVec.ofNat 32 (2 ^ 30 + cause % 64 * 2 ^ 24))
  | _ => s

/-- Whether a command waits for the record's page, cannot use it, or has it at this place. -/
inductive NlRecord where
  | at (pa : Nat)
  | no (cause : Nat)
  | miss (bad : Bool)
  deriving DecidableEq, Repr

def State.nlRecord (s : State) (c : NlCmd) : NlRecord :=
  let acc := match c.op with
    | .nlstat .. => Access.read
    | _ => Access.readWrite
  if c.refused then .no causeXlate
  else match checkVa s (s.nlSpace c) acc 128 c.grid with
    | .miss bad => .miss bad
    | .trap cause => .no cause
    | .ok pa => if s.badAt pa 128 then .no causeUncorr else .at pa

/-- What sd takes at the turn of an NLGRID (R362), and of an NLPAIRS (R366). -/
def Grid.gridStatus (g : Grid) (rebin : Bool) : Nat :=
  if !g.valid then 1 else if g.cutBad then 2 else if rebin && !g.built then 3 else 0

def Grid.pairStatus (g : Grid) : Nat :=
  if !g.valid || g.cutBad then 6
  else if !g.built then 4
  else if g.status.testBit 4 then 3
  else if g.status.testBit 0 then 1
  else if g.status.testBit 1 then 2
  else 0

/-- The turn of a command whose record stands at `pa` with these bytes. Its destinations are those of its acceptance and
those that the record names now, whose copies in the issuing cluster go (R150, R356). -/
def State.nlTurn (s : State) (k : Nat) (c : NlCmd) (pa : Nat) (head : List Byte) : State :=
  let g := gridOf head
  let go := fun (s : State) (status : Nat) =>
    let dests := s.nlDests c
    let found := dests.filter (fun p => !(c.areas.contains p))
    let s := { s with nl := s.nl.set k { c with turned := true, status, pa, head, areas := distinct (c.areas ++ dests) } }
    if found.isEmpty then s else s.dropCopies c.cluster (lineIn found)
  match c.op with
  | .nlgrid d _ op _ =>
    let st := g.gridStatus (op = 1)
    if st = 0 then (go s 0).nlAnswer c d 0
    else
      let s := if op = 0 then s.writeMem (pa + 4) (leBytes 4 (g.status % 2 ^ 31)) else s
      (s.nlDrop k).nlAnswer c d (BitVec.ofNat 32 st)
  | .nlpairs d .. =>
    let st := g.pairStatus
    if st = 0 ∨ st = 2 then (go s st).nlAnswer c d (BitVec.ofNat 32 st)
    else (s.nlDrop k).nlAnswer c d (BitVec.ofNat 32 st)
  | .nlstat d .. =>
    let areas := s.nlGridAreas c .read ++ s.nlGridAreas c .write
    ((s.nlDrop k).dropCopies c.cluster (lineIn areas)).nlAnswer c d (BitVec.ofNat 32 g.status)
  | _ => go s 0

/-- NL_COMMAND_TURN (R361, R362, R366 to R368): once every earlier command on the grid has ended, the command reads its
record, and sd is written. A record whose page does not translate makes it wait for firmware. Subject: the command's
place. -/
def execNlCommandTurn (s : State) : Host.Outcome State Fault Refusal :=
  let k := s.arg 0
  .next (match s.nl[k]? with
    | none => s
    | some c =>
      if !c.arrived || c.turned || c.page.isSome || !(s.nlFirst k c) || s.nlWaits c || s.nlBehind c (s.nlPlaces c) ||
          s.areasOwned c (s.nlPlaces c) then s
      else match s.nlRecord c with
        | .at pa => s.nlTurn k c pa (s.asRead.readBytes pa 128)
        | .no cause => s.nlUnreadable k c cause
        | .miss bad =>
          let sec := s.nlHome c
          if !(s.hasMerge sec c.asid (pageOf c.grid)) && s.mergeFull sec then s
          else
            let acc := match c.op with
              | .nlstat .. => Access.read
              | _ => Access.readWrite
            { s.mergeFault sec c.asid (pageOf c.grid) (engineRec (if bad then 3 else 2) 4 acc c.asid c.cluster
                (if (s.nlSpace c).secure then 1 else 0) c.launchid c.grid) with
              nl := s.nl.set k { c with page := some (pageOf c.grid) } })

/-- NL_COMMAND_END (R362, R363, R366, R368): the memory-side part of a command whose turn has come is performed, its slots
end, and the next command on the grid may take its turn. A translation fault that finds the merge table full waits there
(R296). Subject: the command's place. -/
def execNlCommandEnd (s : State) : Host.Outcome State Fault Refusal :=
  let k := s.arg 0
  .next (match s.nl[k]? with
    | none => s
    | some c =>
      if !c.arrived || !c.turned || s.areasOwned c (s.nlPlaces c) then s
      else
        let g := gridOf c.head
        let home := s.nlHome c
        let sp := s.nlSpace c
        let r : NlRun := { s, status := g.status, ovfUsed := g.ovfUsed, lostMin := g.lostMin, err := none }
        match c.op with
        | .nlgrid _ _ op _ =>
          let r := r.grid sp g (op = 1)
          if r.waits c.asid home then s
          else
            let t := (r.settle c sp home).commit c.pa
            (if op = 0 ∧ r.err.isNone then t.writeMem (c.pa + 14) (leBytes 1 c.sec) else t).nlDrop k
        | .nlins _ _ _ mode _ =>
          let r := r.inserts sp g (mode = 1) (c.vals.drop 2)
          if r.waits c.asid home then s else ((r.settle c sp home).commit c.pa).nlDrop k
        | .nlpairs _ _ _ _ full _ _ _ _ =>
          let t := r.pairs (s.nlOut c) sp g (full = 1)
          if t.1.waits c.asid home then s else (t.1.endPairs c (s.nlOut c) sp home t.2.1 t.2.2).nlDrop k
        | _ => s.nlDrop k)

end Sys2Proof.Machine
end

