-- ==== Sys2Proof/Machine/Platform.lean ====
section
/-! DEFINITION. The module (R375 to R390): the monitor's functions, boot, remote requests over Ethernet, and frame delivery. -/

namespace Sys2Proof.Machine

/-! ### The monitor's functions (R303, R378, R379, R389, R390) -/

/-- The field of an image's header at offset `o` (R388). -/
def imageField (image : List Byte) (o : Nat) : Nat := leNat ((image.drop o).take 4)

/-- The message signed: the header and the body, whose size LENGTH gives (R388, log 40). -/
def imageSigned (image : List Byte) : List Byte := image.take (64 + imageField image 12)

/-- The whole image, its signatures with it (R388). -/
def imageWhole (image : List Byte) : List Byte := image.take (64 + imageField image 12 + 64 + 3309)

/-- SVN of an image (R388). -/
def imageSvn (image : List Byte) : Nat := imageField image 8

/-- An image is accepted (R388): its header is as the rule has it, both signatures verify, and SVN is at least the fused
minimum. -/
def imageOk (keys : List Byte) (kind : Nat) (image : List Byte) : Bool :=
  let n := 64 + imageField image 12
  let digest := Config.sha384 (imageSigned image)
  imageField image 0 = 0x474D4957 && imageField image 4 = kind && ((image.drop 16).take 48).all (· = 0) &&
    decide (n + 64 + 3309 ≤ image.length) && decide (Config.minSvn kind ≤ imageSvn image) &&
    Config.ed25519Valid keys digest ((image.drop n).take 64) &&
    Config.mldsaValid keys digest ((image.drop (n + 64)).take 3309)

/-- What the module's flash holds. -/
def State.flashHeld (s : State) : Flash := s.flash.getD Flash.shipped

/-- The byte `i` of a value that is free at each call: telemetry, and a buffer that is not there (logs 40, 42). -/
def State.freeBytes (s : State) (i n : Nat) : List Byte := (List.range n).map (fun j => BitVec.ofNat 8 (s.freeVal (i + j)).toNat)

/-- The places of a monitor function's buffer in the caller's address space: none for a bad argument. -/
def State.smcBuffer (s : State) (w al n : Nat) (va : Dword) : Option (List (Nat × Nat)) :=
  if va.toNat % al ≠ 0 then none
  else match s.engPlaces (s.space w) .readWrite va n with
    | .ok ps => some ps
    | .error _ => none

/-- The world bit of a block (R390): 0 to 63 clusters, 64 to 71 raster engines, 72 to 79 neighbour-list engines, 80 to 87
ports. -/
def State.blockSecure (s : State) (b : Nat) : Bool :=
  if b < 64 then (s.cluster b).secure
  else if b < 72 then (s.raster (b - 64)).secure
  else if b < 80 then s.nlSecure.getD (b - 72) false
  else s.portSecure.getD (b - 80) false

/-- A block holds a wave, an accepted command or a connection (R379). -/
def State.blockBusy (s : State) (b : Nat) : Bool :=
  if b < 64 then
    let cl := s.cluster b
    s.gangs.any (fun e => e.2.live && e.2.cluster = b && (decide (e.2.released.length < e.2.waves) || s.gangBusy e.1)) ||
      s.waves.any (fun e => e.2.cluster = b && (e.2.life = .resident || e.2.life = .parked)) ||
      !cl.copyCmds.isEmpty || !cl.tiles.isEmpty || cl.booths.any Booth.used || !cl.spawnQ.isEmpty
  else if b < 72 then
    let r := s.raster (b - 64)
    !r.store.isEmpty || !r.waiting.isEmpty || !r.cov.isEmpty || !r.again.isEmpty || r.saved
  else if b < 80 then s.nl.any (fun c => c.arrived && s.nlHome c = b - 72)
  else s.qps.any (fun e => e.2.bound && e.2.port = b - 80)

/-- A cluster as the monitor leaves it for another world (R379): its memories cleared, its bank modes kept. -/
def Cluster.cleared (cl : Cluster) (secure : Bool) : Cluster :=
  { Cluster.reset with banks := cl.banks, closed := cl.closed, boothOrder := cl.boothOrder, secure }

/-- The monitor gives a block a world, and clears it (R379). -/
def State.setBlock (s : State) (b : Nat) (secure : Bool) : State :=
  if b < 64 then
    let s := s.modCluster b (fun cl => cl.cleared secure)
    { s with tlbs := s.tlbs.filter (fun e => e.1 ≠ 256 + b && e.1 / 4 ≠ b),
             badScratch := s.badScratch.filter (fun e => (s.gang e.1).cluster ≠ b),
             badAcc := s.badAcc.filter (fun e => e.1 ≠ b) }
  else if b < 72 then s.modRaster (b - 64) (fun _ => { Raster.reset with secure })
  else if b < 80 then { s with nlSecure := s.nlSecure.set (b - 72) secure }
  else { s with portSecure := s.portSecure.set (b - 80) secure }

/-- A region is zeroed (R379): a write of all of it, which ends its sectors' errors (R301). -/
def State.zeroRegion (s : State) (n : Nat) : State :=
  { s with mem := s.mem.filter (fun c => decide (c.1 / 2 ^ 33 ≠ n)),
           badSectors := s.badSectors.filter (fun q => decide (64 * q / 2 ^ 33 ≠ n)) }

/-- A bit for each truth value, lowest first. -/
def bitsNat (bs : List Bool) : Nat := bs.foldr (fun b n => (if b then 1 else 0) + 2 * n) 0

/-- The bytes of an attestation that both signatures cover (R389), for the caller's NONCE. -/
def State.attested (s : State) (nonce : List Byte) : List Byte :=
  let hash := fun (image : List Byte) => leBytes 48 (Config.sha384 (imageWhole image)).toNat
  leBytes 4 0x54415645 ++ leBytes 4 (imageSvn s.flashHeld.runtime) ++ nonce ++ hash s.flashHeld.monitor ++ hash s.flashHeld.runtime ++
    leBytes 4 (bitsNat s.regionSecure) ++ leBytes 4 0 ++ leBytes 16 (bitsNat ((List.range 88).map s.blockSecure))

/-- What ATTEST writes (R389): those bytes, their two signatures, and zeros. -/
def State.attest (s : State) (nonce : List Byte) : List Byte :=
  let bs := s.attested nonce
  let digest := Config.sha384 bs
  bs ++ leBytes 64 (Config.identityEd digest).toNat ++ leBytes 3309 (Config.identityMl digest (s.freeVal 2000)).toNat ++
    List.replicate 51 0

/-- A call of the monitor (R303, R390): the state after it, and the status. -/
def State.smc (s : State) (w fn : Nat) (arg : Dword) : State × Word :=
  let world := (s.wave w).csr.world = 1
  let lo := arg.toNat
  match fn with
  | 0 =>
    (match s.smcBuffer w 8 8 arg with
      | some ps => (s.putPieces ps (leBytes 4 (imageSvn s.flashHeld.monitor) ++ leBytes 4 0), 0)
      | none => (s, 1))
  | 1 =>
    (match s.smcBuffer w 64 3584 arg with
      | some ps =>
        let bs := ps.flatMap (fun p => s.readBytes p.1 p.2)
        (s.putPieces ps (s.attest ((bs.drop 8).take 32)), 0)
      | none => (s, 1))
  | 2 =>
    if !world then (s, 2)
    else if 87 < lo % 256 then (s, 1)
    else if s.blockBusy (lo % 256) then (s, 3)
    else (s.setBlock (lo % 256) (arg.getLsbD 8), 0)
  | 3 =>
    if !world then (s, 2)
    else ({ s.zeroRegion (lo % 32) with regionSecure := s.regionSecure.set (lo % 32) (arg.getLsbD 8) }, 0)
  | 4 =>
    if !world then (s, 2)
    else (match s.smcBuffer w 64 64 arg with
      | some (p :: _) => ({ s with framecfg := some p.1 }, 0)
      | _ => (s, 1))
  | 5 =>
    (match s.smcBuffer w 1 64 arg with
      | some ps => (s.putPieces ps (s.freeBytes 6000 64), 0)
      | none => (s, 1))
  | _ => (s, 0xFFFFFFFF)

/-- SMC at issue (R303): the monitor acts, and the status is written; a status that MODE refuses traps (R38). -/
def smcIssue (d a b : Code) (S : Stall) (lit : Option Word) : State → Host.Outcome State Fault Refusal :=
  issue S
    (fun f _ => sysPre true (dstOk d && srcOk false a && pairSrcOk false b && litOnce [a, b])
      (srcRegs f.split a ++ pairRegs f.split b) (srcRegs f.split d))
    (fun f s =>
      let (s', st) := s.smc f.wave (s.readSrc f.wave f.split lit a).toNat (s.readPair f.wave f.split lit b)
      if dstBad d st then .trap causeIllegal 0 else .done (s'.writeDst f.wave f.split 1 d st))

/-- SMC VERSION, or a function that the words do not fix (R390). -/
def execSmcVersion (d a b : Code) (S : Stall) (lit : Option Word) : State → Host.Outcome State Fault Refusal :=
  smcIssue d a b S lit

/-- SMC ATTEST (R389). -/
def execSmcAttest (d a b : Code) (S : Stall) (lit : Option Word) : State → Host.Outcome State Fault Refusal :=
  smcIssue d a b S lit

/-- SMC BLOCKWORLD (R379). -/
def execSmcBlockworld (d a b : Code) (S : Stall) (lit : Option Word) : State → Host.Outcome State Fault Refusal :=
  smcIssue d a b S lit

/-- SMC REGIONWORLD (R379). -/
def execSmcRegionworld (d a b : Code) (S : Stall) (lit : Option Word) : State → Host.Outcome State Fault Refusal :=
  smcIssue d a b S lit

/-- SMC FRAMECFG (R385). -/
def execSmcFramecfg (d a b : Code) (S : Stall) (lit : Option Word) : State → Host.Outcome State Fault Refusal :=
  smcIssue d a b S lit

/-- SMC POWER (R390). -/
def execSmcPower (d a b : Code) (S : Stall) (lit : Option Word) : State → Host.Outcome State Fault Refusal :=
  smcIssue d a b S lit

/-! ### Boot and cooling (R375, R387, R388) -/

/-- The stage that the flash's images boot into (R387, R388): the ROM checks its key pair by the fuses and halts before a
monitor image that it refuses; the monitor checks the runtime image by the key pair in its own. -/
def Flash.boots (h : Flash) : BootStage :=
  if !(Config.sha384 h.keys = Config.fusedKeys && imageOk h.keys 1 h.monitor) then .halted
  else if !(imageOk (Config.imageKeys (imageWhole h.monitor)) 2 h.runtime) then .monitor
  else .runtime

/-- MODULE_RESET (R387, R388): the ROM, the monitor, then runtime firmware, each after its image is verified; a refused
runtime image leaves every block secure and is reported over the management link. -/
def execModuleReset (s : State) : Host.Outcome State Fault Refusal :=
  let stage := s.flashHeld.boots
  .next { State.reset with
    boot := stage, flash := s.flash, reports := if stage = .monitor then s.reports + 1 else s.reports,
    turns := s.turns, alt := s.alt, free := s.free }

/-- THERMAL_LIMIT (R375): firmware lowers or holds the clock, or stops doing so; every figure in clk keeps its meaning.
Subject: 1 while it does. -/
def execThermalLimit (s : State) : Host.Outcome State Fault Refusal := .next { s with limited := s.arg 0 ≠ 0 }

/-! ### Queue pairs (R153, R380 to R382) -/

/-- A queue pair that serves requests. -/
def State.qpUp (s : State) (n : Nat) : Bool := (s.qp n).bound && !(s.qp n).error

/-- The module sends a packet. -/
def State.send (s : State) (qp kind : Nat) (value : Dword) (bytes : List Byte) : State :=
  { s with sent := s.sent ++ [{ qp, kind, value, bytes }] }

/-- The address space in which a queue pair's requests act: the port's world bit decides (R378, R380). -/
def State.qpSpace (s : State) (n : Nat) : Space :=
  let q := s.qp n
  { asid := q.asid, ttbase := q.ttbase, secure := q.world = 1 && s.portSecure.getD q.port false, tlbs := [] }

/-- A line of these places is owned by an engine: the request waits for it (R150, R153). -/
def State.placesOwned (s : State) (ps : List (Nat × Nat)) : Bool :=
  s.clusters.any (fun e => e.2.copyCmds.any (fun b => b.lines.any (lineIn ps))) ||
    s.waves.any (fun e => e.2.flight.any (fun a => a.owned.any (lineIn ps))) ||
    s.nl.any (fun b => b.areas.any (fun p => ps.any (fun q =>
      decide (p.1 / 128 ≤ (q.1 + q.2 - 1) / 128) && decide (q.1 / 128 ≤ (p.1 + p.2 - 1) / 128))))

/-- QUEUE_PAIR_BIND (R380). Subject: the queue pair, port, ASID, TTBASE and world. -/
def execQueuePairBind (s : State) : Host.Outcome State Fault Refusal :=
  .next (if s.arg 0 < 16384 ∧ s.arg 1 < 8 ∧ s.arg 2 < 65536 then
      s.modQp (s.arg 0) (fun _ => { bound := true, port := s.arg 1, asid := s.arg 2, ttbase := BitVec.ofNat 64 (s.arg 3),
                                    world := s.arg 4 % 2, error := false, window := [] })
    else s)

/-- The path MTU. -/
def pathMtu : Nat := 4096

/-- The module sends bytes in packets of at most the path MTU, each with the place that its first byte goes to, counted from
`at0`; no bytes are one packet with none. -/
def State.sendBytes (s : State) (qp kind : Nat) (at0 : Dword) (bytes : List Byte) : State :=
  (List.range (max 1 ((bytes.length + pathMtu - 1) / pathMtu))).foldl
    (fun s i => s.send qp kind (at0 + BitVec.ofNat 64 (pathMtu * i)) ((bytes.drop (pathMtu * i)).take pathMtu)) s

/-- RDMA_WRITE (R380, R381): one packet's bytes are written, or nothing and a remote access error. Subject: queue pair and
address; the payload. -/
def execRdmaWrite (s : State) : Host.Outcome State Fault Refusal :=
  let n := s.arg 0
  .next (if !(s.qpUp n) || decide (pathMtu < s.bytes.length) then s
    else match s.engPlaces (s.qpSpace n) .write (BitVec.ofNat 64 (s.arg 1)) s.bytes.length with
      | .error _ => s.send n 4 0 []
      | .ok ps => if s.placesOwned ps then s else (s.putPieces ps s.bytes).send n 0 0 [])

/-- RDMA_READ_REQUEST (R380, R381). Subject: queue pair, address, length. -/
def execRdmaReadRequest (s : State) : Host.Outcome State Fault Refusal :=
  let n := s.arg 0
  .next (if !(s.qpUp n) then s
    else match s.engPlaces (s.qpSpace n) .read (BitVec.ofNat 64 (s.arg 1)) (s.arg 2) with
      | .error _ => s.send n 4 0 []
      | .ok ps =>
        if s.placesOwned ps then s
        else if ps.any (fun p => s.badAt p.1 p.2) then s.send n 4 0 []
        else s.sendBytes n 1 0 (ps.flatMap (fun p => s.readBytes p.1 p.2)))

/-- A queue pair enters the error state with a NAK for an invalid request (R381). -/
def State.nakInvalid (s : State) (n : Nat) : State := (s.modQp n (fun q => { q with error := true })).send n 3 0 []

/-- The opcodes that the module accepts (R381). -/
def bthAccepted (op : Nat) : Bool :=
  [0x06, 0x07, 0x08, 0x0A, 0x0C, 0x0D, 0x0E, 0x0F, 0x10, 0x11, 0x12, 0x13, 0x14, 0xC0, 0xC1].contains op

/-- INVALID_REQUEST (R381). Subject: queue pair, opcode. -/
def execInvalidRequest (s : State) : Host.Outcome State Fault Refusal :=
  .next (if !(s.qpUp (s.arg 0)) || bthAccepted (s.arg 1) then s else s.nakInvalid (s.arg 0))

/-- RDMA_RESPONSE (R381): a NAK other than one for a sequence error puts the queue pair into the error state, as the IBA
specification has it (log 41). Subject: queue pair, opcode; the payload, whose first byte is the syndrome. -/
def execRdmaResponse (s : State) : Host.Outcome State Fault Refusal :=
  let n := s.arg 0
  let syn := (s.bytes.getD 0 0).toNat
  .next (if s.qpUp n ∧ (s.arg 1 = 0x11 ∨ s.arg 1 = 0x12) ∧ syn / 32 = 3 ∧ 1 ≤ syn % 32 ∧ syn % 32 ≤ 3 then
      s.modQp n (fun q => { q with error := true })
    else s)

/-- FRAME_DROP (R380): a frame that is not IPv6 is dropped. Subject: port, EtherType. -/
def execFrameDrop (s : State) : Host.Outcome State Fault Refusal := .next s

/-- What the replay window makes of a request's number (R153). -/
inductive Replay where
  | fresh
  | again (value : Dword) (error : Bool)
  | old
  deriving DecidableEq, Repr

/-- The window, newest first: its last 256 requests. -/
def replayOf (window : List (Nat × Dword × Bool)) (seq : Nat) : Replay :=
  match (window.take 256).find? (fun e => e.1 = seq) with
  | some (_, v, e) => .again v e
  | none =>
    match window with
    | [] => .fresh
    | (newest, _) :: _ => if (newest + 2 ^ 24 - seq) % 2 ^ 24 < 2 ^ 23 then .old else .fresh

/-- A request's answer enters the window and is sent. -/
def State.respond (s : State) (n seq : Nat) (r : Option Dword) : State :=
  let s := s.modQp n (fun q => { q with window := ((seq, r.getD 0, r.isNone) :: q.window).take 256 })
  s.send n (if r.isNone then 4 else 2) (r.getD 0) []

/-- A request that is applied exactly once (R153, R382): its effect answers the state and a result, or a remote access error,
or nothing while it waits. -/
def State.once (s : State) (n seq : Nat) (effect : Option (State × Option Dword)) : State :=
  if !(s.qpUp n) then s
  else match replayOf (s.qp n).window (seq % 2 ^ 24) with
    | .again v e => s.send n (if e then 4 else 2) v []
    | .old => s.send n 5 0 []
    | .fresh =>
      match effect with
      | none => s
      | some (s', r) => s'.respond n (seq % 2 ^ 24) r

/-- An atomic on 8 bytes (R153). -/
def State.remoteAtomic (s : State) (n seq : Nat) (va : Dword) (f : Nat → Nat) : State :=
  if !(s.qpUp n) then s
  else if va.toNat % 8 ≠ 0 then s.nakInvalid n
  else s.once n seq (match checkVa s (s.qpSpace n) .readWrite 8 va with
    | .ok pa =>
      if s.placesOwned [(pa, 8)] then none
      else if s.badAt pa 8 then some (s, none)
      else
        let old := s.readNat pa 8
        some (s.writeMem pa (leBytes 8 (f old)), some (BitVec.ofNat 64 old))
    | _ => some (s, none))

/-- COMPARE_SWAP (R153). Subject: queue pair, sequence number, address, compare, swap. -/
def execCompareSwap (s : State) : Host.Outcome State Fault Refusal :=
  .next (s.remoteAtomic (s.arg 0) (s.arg 1) (BitVec.ofNat 64 (s.arg 2))
    (fun old => if old = s.arg 3 % 2 ^ 64 then s.arg 4 else old))

/-- FETCH_ADD (R153). Subject: queue pair, sequence number, address, addend. -/
def execFetchAdd (s : State) : Host.Outcome State Fault Refusal :=
  .next (s.remoteAtomic (s.arg 0) (s.arg 1) (BitVec.ofNat 64 (s.arg 2)) (fun old => old + s.arg 3))

/-- What an enqueue from outside does at the header's home (R383). -/
def State.remoteEnqueue (s : State) (n : Nat) (header : Dword) (entry : List Byte) : Option (State × Option Dword) :=
  let sp := s.qpSpace n
  match checkVa s sp .readWrite 1 header with
  | .ok pa =>
    if header.toNat % 128 ≠ 0 then some (s, some 2)
    else if s.lineOwned (pa / 128) then none
    else
      let q := s.queueHead pa
      if q.sub ≠ 0 then some (s, some 2)
      else if entry.length ≠ 2 ^ q.elog then some (s, some 3)
      else if q.room = 0 then some (s, some 1)
      else (match s.queueSlots sp .write q q.tail 1 with
        | .error _ => some (s, none)
        | .ok slots => some (s.queuePut none pa q slots [entry], some 0))
  | _ => some (s, none)

/-- REMOTE_ENQUEUE (R383). Subject: queue pair, sequence number, header address; the entry. -/
def execRemoteEnqueue (s : State) : Host.Outcome State Fault Refusal :=
  .next (s.once (s.arg 0) (s.arg 1) (s.remoteEnqueue (s.arg 0) (BitVec.ofNat 64 (s.arg 2)) s.bytes))

/-- What an arrival from outside does at a clause's home (R384). -/
def State.remoteArrive (s : State) (n : Nat) (h : Dword) (count flags : Nat) : State × Dword :=
  let q := s.qp n
  let e := handleEntry h
  let c := s.clause e
  if handleType h ≠ 1 ∨ !(s.clauseLive h q.asid q.world) ∨ count = 0 ∨ 524288 < count ∨ 1 < flags then (s, 2#64 ||| (1#64 <<< 63))
  else if flags = 1 then (s.setClause e { c with exp0 := c.exp0 + count }, BitVec.ofNat 64 c.phase.toNat)
  else if c.exp0 < c.arr0 + count then (s, 3#64 ||| (1#64 <<< 63))
  else (((s.setClause e { c with arr0 := c.arr0 + count }).settle e).releaseWaiters, BitVec.ofNat 64 c.phase.toNat)

/-- REMOTE_ARRIVE (R384). Subject: queue pair, sequence number, handle, COUNT, FLAGS. -/
def execRemoteArrive (s : State) : Host.Outcome State Fault Refusal :=
  let (s', r) := s.remoteArrive (s.arg 0) (BitVec.ofNat 64 (s.arg 2)) (s.arg 3) (s.arg 4)
  .next (s.once (s.arg 0) (s.arg 1) (some (s', some r)))

/-! ### Frame delivery (R343, R385, R386) -/

/-- The bytes of a frame's buffer as the display target's queue pair reads them; unreadable ones are free (log 42). -/
def State.frameBytes (s : State) (conn : Nat) (va : Dword) (n : Nat) : List Byte :=
  match s.engRead (s.qpSpace conn) va n with
  | .ok bs => bs
  | .error _ => s.freeBytes 7000 n

/-- The device delivers a frame, or repeats the last one (R386). -/
def State.deliverFrame (s : State) (pa : Nat) : State :=
  let n := fun o k => s.readNat (pa + o) k
  let conn := n 0 4
  let done := n 0x20 8
  let sent := n 0x28 8
  let up := s.qpUp conn
  if sent < done then
    if !up then s
    else
      let buf := BitVec.ofNat 64 (n (if done % 2 = 0 then 8 else 0x10) 8)
      { (s.sendBytes conn 6 (BitVec.ofNat 64 (n 0x18 8)) (s.frameBytes conn buf (n 4 4))).send conn 7 (BitVec.ofNat 64 done) [] with
        frameOut := s.frameOut ++ [(pa, BitVec.ofNat 64 done)] }
  else
    let s := s.writeMem (pa + 0x30) (leBytes 4 (n 0x30 4 + 1))
    if up then s.send conn 7 (BitVec.ofNat 64 sent ||| (1#64 <<< 63)) [] else s

/-- FRAME_DEADLINE (R343, R386): CYCLE reaches FRAMEDEADLINE, which is disarmed. -/
def execFrameDeadline (s : State) : Host.Outcome State Fault Refusal :=
  .next (if s.framedeadline = 0 then s
    else
      let s := { s with clk := max s.clk s.framedeadline.toNat, framedeadline := 0 }
      match s.framecfg with
      | none => s
      | some pa => s.deliverFrame pa)

/-- FRAME_ACK (R386): SENT takes the number of the frame that the target acknowledges. Subject: that number. -/
def execFrameAck (s : State) : Host.Outcome State Fault Refusal :=
  .next (match s.frameOut.find? (fun e => e.2.toNat = s.arg 0) with
    | some e => { s.writeMem (e.1 + 0x28) (leBytes 8 e.2.toNat) with frameOut := s.frameOut.erase e }
    | none => s)

end Sys2Proof.Machine
end

