-- ==== Sys2Proof/Machine/Texture.lean ====
section
/-! DEFINITION. The fetch unit: fetch tables (R345), block-compressed texels, FETCH (R346), texture filtering (R347), and the
faults of a fetch (R348). -/

namespace Sys2Proof.Machine

/-! ### Block-compressed texels

The decoding is that of the Khronos Data Format Specification 1.3, which R345 names (log 38). -/

/-- BC7 partitions of two subsets: bit i is the subset of texel i. -/
def bcPart2 : List Nat :=
  [0xCCCC, 0x8888, 0xEEEE, 0xECC8, 0xC880, 0xFEEC, 0xFEC8, 0xEC80] ++
  [0xC800, 0xFFEC, 0xFE80, 0xE800, 0xFFE8, 0xFF00, 0xFFF0, 0xF000] ++
  [0xF710, 0x008E, 0x7100, 0x08CE, 0x008C, 0x7310, 0x3100, 0x8CCE] ++
  [0x088C, 0x3110, 0x6666, 0x366C, 0x17E8, 0x0FF0, 0x718E, 0x399C] ++
  [0xAAAA, 0xF0F0, 0x5A5A, 0x33CC, 0x3C3C, 0x55AA, 0x9696, 0xA55A] ++
  [0x73CE, 0x13C8, 0x324C, 0x3BDC, 0x6996, 0xC33C, 0x9966, 0x0660] ++
  [0x0272, 0x04E4, 0x4E40, 0x2720, 0xC936, 0x936C, 0x39C6, 0x639C] ++
  [0x9336, 0x9CC6, 0x817E, 0xE718, 0xCCF0, 0x0FCC, 0x7744, 0xEE22]

/-- BC7 partitions of three subsets: two bits a texel. -/
def bcPart3 : List Nat :=
  [0xAA685050, 0x6A5A5040, 0x5A5A4200, 0x5450A0A8, 0xA5A50000, 0xA0A05050, 0x5555A0A0, 0x5A5A5050] ++
  [0xAA550000, 0xAA555500, 0xAAAA5500, 0x90909090, 0x94949494, 0xA4A4A4A4, 0xA9A59450, 0x2A0A4250] ++
  [0xA5945040, 0x0A425054, 0xA5A5A500, 0x55A0A0A0, 0xA8A85454, 0x6A6A4040, 0xA4A45000, 0x1A1A0500] ++
  [0x0050A4A4, 0xAAA59090, 0x14696914, 0x69691400, 0xA08585A0, 0xAA821414, 0x50A4A450, 0x6A5A0200] ++
  [0xA9A58000, 0x5090A0A8, 0xA8A09050, 0x24242424, 0x00AA5500, 0x24924924, 0x24499224, 0x50A50A50] ++
  [0x500AA550, 0xAAAA4444, 0x66660000, 0xA5A0A5A0, 0x50A050A0, 0x69286928, 0x44AAAA44, 0x66666600] ++
  [0xAA444444, 0x54A854A8, 0x95809580, 0x96969600, 0xA85454A8, 0x80959580, 0xAA141414, 0x96960000] ++
  [0xAAAA1414, 0xA05050A0, 0xA0A5A5A0, 0x96000000, 0x40804080, 0xA9A8A9A8, 0xAAAAAA44, 0x2A4A5254]

/-- The anchor texel of the second of two subsets. -/
def bcAnchor2 : List Nat :=
  [15, 15, 15, 15, 15, 15, 15, 15] ++
  [15, 15, 15, 15, 15, 15, 15, 15] ++
  [15, 2, 8, 2, 2, 8, 8, 15] ++
  [2, 8, 2, 2, 8, 8, 2, 2] ++
  [15, 15, 6, 8, 2, 8, 15, 15] ++
  [2, 8, 2, 2, 2, 15, 15, 6] ++
  [6, 2, 6, 8, 15, 15, 2, 2] ++
  [15, 15, 15, 15, 15, 2, 2, 15]

/-- The anchor texel of the second of three subsets. -/
def bcAnchor3a : List Nat :=
  [3, 3, 15, 15, 8, 3, 15, 15] ++
  [8, 8, 6, 6, 6, 5, 3, 3] ++
  [3, 3, 8, 15, 3, 3, 6, 10] ++
  [5, 8, 8, 6, 8, 5, 15, 15] ++
  [8, 15, 3, 5, 6, 10, 8, 15] ++
  [15, 3, 15, 5, 15, 15, 15, 15] ++
  [3, 15, 5, 5, 5, 8, 5, 10] ++
  [5, 10, 8, 13, 15, 12, 3, 3]

/-- The anchor texel of the third of three subsets. -/
def bcAnchor3b : List Nat :=
  [15, 8, 8, 3, 15, 15, 3, 8] ++
  [15, 15, 15, 15, 15, 15, 15, 8] ++
  [15, 8, 15, 3, 15, 8, 15, 8] ++
  [3, 15, 6, 10, 15, 15, 10, 8] ++
  [15, 3, 15, 10, 10, 8, 9, 10] ++
  [6, 15, 8, 15, 3, 6, 6, 8] ++
  [15, 3, 15, 15, 15, 15, 15, 15] ++
  [15, 15, 15, 15, 3, 15, 15, 8]

/-- The interpolation weights of BC7 for indices of 2, 3 and 4 bits. -/
def bcWeights (ib : Nat) : List Nat :=
  match ib with
  | 2 => [0, 21, 43, 64]
  | 3 => [0, 9, 18, 27, 37, 46, 55, 64]
  | _ => [0, 4, 9, 13, 17, 21, 26, 30, 34, 38, 43, 47, 51, 55, 60, 64]

/-- A mode of BC7: subsets, and the bits of the partition, rotation, index selection, colour, alpha, p-bits of endpoints and
of subsets, and the two indices. -/
structure BcMode where
  ns : Nat
  pb : Nat
  rb : Nat
  isb : Nat
  cb : Nat
  ab : Nat
  epb : Nat
  spb : Nat
  ib : Nat
  ib2 : Nat
  deriving DecidableEq, Repr

/-- The modes of BC7. -/
def bcMode (m : Nat) : BcMode :=
  match m with
  | 0 => { ns := 3, pb := 4, rb := 0, isb := 0, cb := 4, ab := 0, epb := 1, spb := 0, ib := 3, ib2 := 0 }
  | 1 => { ns := 2, pb := 6, rb := 0, isb := 0, cb := 6, ab := 0, epb := 0, spb := 1, ib := 3, ib2 := 0 }
  | 2 => { ns := 3, pb := 6, rb := 0, isb := 0, cb := 5, ab := 0, epb := 0, spb := 0, ib := 2, ib2 := 0 }
  | 3 => { ns := 2, pb := 6, rb := 0, isb := 0, cb := 7, ab := 0, epb := 1, spb := 0, ib := 2, ib2 := 0 }
  | 4 => { ns := 1, pb := 0, rb := 2, isb := 1, cb := 5, ab := 6, epb := 0, spb := 0, ib := 2, ib2 := 3 }
  | 5 => { ns := 1, pb := 0, rb := 2, isb := 0, cb := 7, ab := 8, epb := 0, spb := 0, ib := 2, ib2 := 2 }
  | 6 => { ns := 1, pb := 0, rb := 0, isb := 0, cb := 7, ab := 7, epb := 1, spb := 0, ib := 4, ib2 := 0 }
  | _ => { ns := 2, pb := 6, rb := 0, isb := 0, cb := 5, ab := 5, epb := 1, spb := 0, ib := 2, ib2 := 0 }

/-- A component of `b` bits widened to 8. -/
def widen8 (b v : Nat) : Nat := let y := v * 2 ^ (8 - b); y + y / 2 ^ b

/-- Channels R, G, B, A of texel `i` of a BC7 block; a reserved mode decodes to zeros. -/
def bc7Texel (x i : Nat) : List Nat :=
  match (List.range 8).find? (fun m => x / 2 ^ m % 2 = 1) with
  | none => [0, 0, 0, 0]
  | some m =>
    let k := bcMode m
    let bits := fun (at' n : Nat) => x / 2 ^ at' % 2 ^ n
    let p0 := m + 1
    let part := bits p0 k.pb
    let rot := bits (p0 + k.pb) k.rb
    let sel := bits (p0 + k.pb + k.rb) k.isb
    let e0 := p0 + k.pb + k.rb + k.isb
    let ne := 2 * k.ns
    let a0 := e0 + 3 * ne * k.cb
    let q0 := a0 + ne * k.ab
    let i0 := q0 + k.epb * ne + k.spb * k.ns
    let anchors := if k.ns = 1 then [0] else if k.ns = 2 then [0, bcAnchor2.getD part 0]
      else [0, bcAnchor3a.getD part 0, bcAnchor3b.getD part 0]
    let i2 := i0 + 16 * k.ib - k.ns
    let sub := fun (t : Nat) => if k.ns = 2 then bcPart2.getD part 0 / 2 ^ t % 2
      else if k.ns = 3 then bcPart3.getD part 0 / 4 ^ t % 4 else 0
    let index1 := bits (i0 + i * k.ib - (anchors.filter (fun a => decide (a < i))).length)
      (if anchors.contains i then k.ib - 1 else k.ib)
    let index2 := bits (i2 + i * k.ib2 - (if 0 < i then 1 else 0)) (if i = 0 then k.ib2 - 1 else k.ib2)
    let pbit := fun (e : Nat) => if k.epb = 1 then bits (q0 + e) 1 else bits (q0 + e / 2) 1
    let hasP := k.epb + k.spb
    let pal := fun (c e : Nat) =>
      if c = 3 ∧ k.ab = 0 then 255
      else
        let b := if c = 3 then k.ab else k.cb
        let v := if c = 3 then bits (a0 + e * k.ab) k.ab else bits (e0 + (c * ne + e) * k.cb) k.cb
        if hasP = 1 then widen8 (b + 1) (2 * v + pbit e) else widen8 b v
    let s := sub i
    let channel := fun (c : Nat) =>
      let second : Bool := k.ib2 ≠ 0 && ((c = 3) != (sel = 1))
      let (ix, ib) := if second then (index2, k.ib2) else (index1, k.ib)
      let w := (bcWeights ib).getD ix 0
      ((64 - w) * pal c (2 * s) + w * pal c (2 * s + 1) + 32) / 64
    let cs := (List.range 4).map channel
    let get := fun (c : Nat) => cs.getD c 0
    match rot with
    | 1 => [get 3, get 1, get 2, get 0]
    | 2 => [get 0, get 3, get 2, get 1]
    | 3 => [get 0, get 1, get 3, get 2]
    | _ => cs

/-- num/den rounded RNE to a whole number. -/
def roundDiv (num den : Nat) : Nat := (roundAt 0 false num den 0).1

/-- A value of BC4 or of a channel of BC5 for texel `i` of the 64-bit block. -/
def bc4Texel (x i : Nat) : Nat :=
  let a := x % 256
  let b := x / 256 % 256
  let k := x / 2 ^ (16 + 3 * i) % 8
  if k = 0 then a
  else if k = 1 then b
  else if b < a then roundDiv ((8 - k) * a + (k - 1) * b) 7
  else if k < 6 then roundDiv ((6 - k) * a + (k - 1) * b) 5
  else if k = 6 then 0 else 255

/-- Channels of texel `i` of a BC1 block: an interpolated colour is rounded to 8 bits from its exact value, and the alpha of
the transparent entry is the device's (log 38). -/
def bc1Texel (x i : Nat) : List Nat :=
  let a := x % 65536
  let b := x / 65536 % 65536
  let k := x / 2 ^ (32 + 2 * i) % 4
  let comp := fun (c lo n : Nat) => c / 2 ^ lo % 2 ^ n
  let mix := fun (lo n wa wb d : Nat) => roundDiv (255 * (wa * comp a lo n + wb * comp b lo n)) (d * (2 ^ n - 1))
  let rgb := fun (wa wb d : Nat) => [mix 11 5 wa wb d, mix 5 6 wa wb d, mix 0 5 wa wb d, 255]
  match k with
  | 0 => rgb 1 0 1
  | 1 => rgb 0 1 1
  | 2 => if b < a then rgb 2 1 3 else rgb 1 1 2
  | _ => if b < a then rgb 1 2 3 else [0, 0, 0, if (Config.free 0 960).getLsbD 0 then 255 else 0]

/-! ### Fetch tables (R345) -/

/-- A descriptor. -/
structure FetchDesc where
  base : Dword
  kind : Nat
  fmt : Nat
  levels : Nat
  wrapv : Nat
  wrapu : Nat
  miplin : Bool
  lin : Bool
  width : Nat
  height : Nat
  maxaniso : Nat
  deriving DecidableEq, Repr

/-- The descriptor of 32 bytes. -/
def fetchDesc (bs : List Byte) : FetchDesc :=
  let n := fieldNat bs
  { base := BitVec.ofNat 64 (n 0 8), kind := n 8 1, fmt := n 9 1, levels := n 10 1, wrapv := n 11 1 / 64, wrapu := n 11 1 / 16 % 4,
    miplin := n 11 1 / 8 % 2 = 1, lin := n 11 1 / 4 % 2 = 1, width := n 12 2, height := n 14 2, maxaniso := n 16 1 % 8 }

/-- A descriptor is valid (R345): a tile's has no texture fields but its reserved ones. -/
def fetchDescOk (bs : List Byte) : Bool :=
  let d := fetchDesc bs
  d.base.toNat % 64 = 0 && fieldNat bs 11 1 % 4 = 0 && fieldNat bs 16 1 / 8 = 0 && fieldNat bs 17 15 = 0 &&
  (if d.kind = 1 then [1, 2, 3, 4, 8, 9, 10, 11].contains d.fmt && decide (1 ≤ d.levels) && decide (d.levels ≤ 15) &&
      decide (1 ≤ d.width) && decide (d.width ≤ 16384) && decide (1 ≤ d.height) && decide (d.height ≤ 16384) &&
      decide (d.maxaniso ≤ 4)
    else d.kind = 2 && d.fmt = 0)

/-- A format is of blocks of 4 × 4 texels. -/
def isBc (fmt : Nat) : Bool := decide (8 ≤ fmt)

/-- Bytes of a texel, or of a block. -/
def texBytes (fmt : Nat) : Nat :=
  match fmt with
  | 1 => 4 | 2 => 8 | 3 => 4 | 4 => 16 | 8 => 8 | 9 => 8 | _ => 16

/-- Width or height of a level. -/
def levelSize (n m : Nat) : Nat := max 1 (n / 2 ^ m)

/-- Bytes of a row, or row of blocks, of a level: a multiple of 64. -/
def FetchDesc.pitch (d : FetchDesc) (m : Nat) : Nat :=
  let w := levelSize d.width m
  ((if isBc d.fmt then (w + 3) / 4 else w) * texBytes d.fmt + 63) / 64 * 64

/-- Where a level begins. -/
def FetchDesc.levelOff (d : FetchDesc) (m : Nat) : Nat :=
  (List.range m).foldl (fun n i =>
    let h := levelSize d.height i
    n + d.pitch i * (if isBc d.fmt then (h + 3) / 4 else h)) 0

/-- Where a texel's bytes, or its block's, lie: an address and a size. -/
def FetchDesc.texelAt (d : FetchDesc) (m x y : Nat) : Dword × Nat :=
  let n := texBytes d.fmt
  let (bx, by') := if isBc d.fmt then (x / 4, y / 4) else (x, y)
  (d.base + BitVec.ofNat 64 (d.levelOff m + by' * d.pitch m + bx * n), n)

/-- The four channels of a texel from its bytes, or its block's, as F32 (R345). -/
def texelChannels (fmt x y : Nat) (bs : List Byte) : List Nat :=
  let i := 4 * (y % 4) + x % 4
  let un := fun (cs : List Nat) => cs.map (fun (n : Nat) => roundQuot (n : Int) 255)
  let one := 0x3F800000
  match fmt with
  | 1 => (List.range 4).map (loadChannel 1 bs)
  | 2 => (List.range 4).map (loadChannel 2 bs)
  | 3 => [fieldNat bs 0 4, 0, 0, one]
  | 4 => (List.range 4).map (loadChannel 4 bs)
  | 8 => un (bc1Texel (leNat bs) i)
  | 9 => un [bc4Texel (leNat bs) i] ++ [0, 0, one]
  | 10 => un [bc4Texel (fieldNat bs 0 8) i, bc4Texel (fieldNat bs 8 8) i] ++ [0, one]
  | _ => un (bc7Texel (leNat bs) i)

/-! ### Filtering (R347) -/

/-- A finite F32's floor. -/
def floorF32 (x : Nat) : Option Int :=
  match decodeNum fmtF32 x with
  | .fin n m e =>
    let u := inUnits n m e (min e 0)
    some (u / 2 ^ (-(min e 0)).toNat)
  | _ => none

/-- The fraction of a finite F32, truncated to 8 bits. -/
def fracF32 (x : Nat) : Option Nat :=
  match decodeNum fmtF32 x with
  | .fin n m e =>
    let q := min e 0
    let u := inUnits n m e q
    let d : Int := 2 ^ (-q).toNat
    some ((u % d) * 256 / d).toNat
  | _ => none

/-- The ceiling of a finite F32. -/
def ceilF32 (x : Nat) : Option Int :=
  match decodeNum fmtF32 x with
  | .fin n m e =>
    let u := inUnits n m e (min e 0)
    some (-((-u) / 2 ^ (-(min e 0)).toNat))
  | _ => none

/-- A texel index wrapped to a size; none is the border. -/
def wrapIndex (mode n : Nat) (i : Int) : Option Nat :=
  match mode with
  | 0 => some (i % n).toNat
  | 1 => some (max 0 (min i (n - 1))).toNat
  | 2 =>
    let j := (i % (2 * n)).toNat
    some (if n ≤ j then 2 * n - 1 - j else j)
  | _ => if 0 ≤ i ∧ i < n then some i.toNat else none

/-- A texel used: its weight, level and place; none is the border. -/
abbrev Tap := Nat × Nat × Option (Nat × Nat)

/-- The texels of one level at a coordinate, their weights adding up to 65,536 × `w`; none where the coordinate has no
whole part. -/
def FetchDesc.taps (d : FetchDesc) (m u v w : Nat) : Option (List Tap) :=
  let wm := levelSize d.width m
  let hm := levelSize d.height m
  let f := fmtF32
  let place := fun (i j : Int) => match wrapIndex d.wrapu wm i, wrapIndex d.wrapv hm j with
    | some x, some y => some (x, y)
    | _, _ => none
  if d.lin then
    let x := f.fma u (f.int wm) 0xBF000000
    let y := f.fma v (f.int hm) 0xBF000000
    match floorF32 x, fracF32 x, floorF32 y, fracF32 y with
    | some i, some a, some j, some b =>
      some [(w * (256 - a) * (256 - b), m, place i j), (w * a * (256 - b), m, place (i + 1) j),
        (w * (256 - a) * b, m, place i (j + 1)), (w * a * b, m, place (i + 1) (j + 1))]
    | _, _, _, _ => none
  else
    match floorF32 (f.mul u (f.int wm)), floorF32 (f.mul v (f.int hm)) with
    | some i, some j => some [(65536 * w, m, place i j)]
    | _, _ => none

/-- What a lane's footprint gives: the probes' count, λ, and the derivative along which they lie. -/
structure Footprint where
  n : Nat
  lambda : Nat
  du : Nat
  dv : Nat
  deriving DecidableEq, Repr

/-- The footprint of a quad from the coordinates of its first three lanes; none where the count of probes has no value. -/
def FetchDesc.footprint (d : FetchDesc) (u0 u1 u2 v0 v1 v2 : Nat) : Option Footprint :=
  let f := fmtF32
  let sq := fun (x : Nat) => f.mul x x
  let w := f.int d.width
  let h := f.int d.height
  let px := f.add (sq (f.mul (f.sub u1 u0) w)) (sq (f.mul (f.sub v1 v0) h))
  let py := f.add (sq (f.mul (f.sub u2 u0) w)) (sq (f.mul (f.sub v2 v0) h))
  let onX : Bool := !(f.lt px py)
  let pmax := if onX then px else py
  let pmin := if onX then py else px
  let most := 2 ^ d.maxaniso
  let n : Option Nat :=
    if f.isNan pmax || f.isNan pmin then none
    else if f.abs pmax = 0 then some 1
    else if f.abs pmin = 0 then some most
    else
      let q := f.sqrt (f.div pmax pmin)
      if f.isInf q then some most else (ceilF32 q).map (fun c => min most (max 1 c.toNat))
  n.map (fun n =>
    { n,
      lambda := if f.abs pmax = 0 then 0 else f.sub (f.mul 0x3F000000 (unaryImg 4 pmax)) (unaryImg 4 (f.int n)),
      du := if onX then f.sub u1 u0 else f.sub u2 u0, dv := if onX then f.sub v1 v0 else f.sub v2 v0 })

/-- λ clamped to [0, LEVELS − 1] (R109 decides between equals); a NaN stays. -/
def FetchDesc.clampLambda (d : FetchDesc) (l : Nat) : Nat :=
  if fmtF32.isNan l then l else minImg fmtF32 (maxImg fmtF32 l 0) (fmtF32.int ((d.levels : Int) - 1))

/-- The levels used and their weights in 256ths. -/
def FetchDesc.levelsOf (d : FetchDesc) (l : Nat) : Option (List (Nat × Nat)) :=
  if d.miplin then
    match floorF32 l, fracF32 l with
    | some i, some w => some ([(i.toNat, 256 - w)] ++ (if w = 0 then [] else [(i.toNat + 1, w)]))
    | _, _ => none
  else (floorF32 (fmtF32.add l 0x3F000000)).map (fun i => [(i.toNat, 256)])

/-- Every result, or none. -/
def allSome {α : Type} : List (Option α) → Option (List α)
  | [] => some []
  | none :: _ => none
  | some x :: r => (allSome r).map (x :: ·)

/-- The texels of a lane, with their weights. -/
def FetchDesc.lanetaps (d : FetchDesc) (lod : Nat) (u v l : Nat) (fp : Option Footprint) : Option (List Tap) :=
  let f := fmtF32
  let go := fun (n lambda du dv : Nat) (probes : Bool) =>
    (d.levelsOf (d.clampLambda lambda)).bind (fun ls =>
      (allSome ((List.range n).flatMap (fun (k : Nat) => ls.map (fun e =>
        let q := f.div (f.int (2 * (k : Int) + 1 - (n : Int))) (f.int (2 * (n : Int)))
        let at' := fun (c dc : Nat) => if probes then f.add c (f.mul q dc) else c
        d.taps e.1 (at' u du) (at' v dv) e.2)))).map List.flatten)
  match lod with
  | 0 => fp.bind (fun p => go p.n p.lambda p.du p.dv true)
  | 1 => go 1 l 0 0 false
  | _ => go 1 0 0 0 false

/-- The exact weighted mean of a channel's values, rounded once (R347): a NaN, or infinities of both signs, give a NaN. -/
def meanOf (vs : List (Nat × Nat)) : Nat :=
  let vs := vs.filter (fun e => e.1 ≠ 0)
  let nums := vs.map (fun e => decodeNum fmtF32 e.2)
  let pos := nums.any (fun x => x = .inf false)
  let neg := nums.any (fun x => x = .inf true)
  if nums.any Num.isNan || (pos && neg) then fmtF32.nanImg
  else if pos then fmtF32.infImg
  else if neg then fmtF32.signBit + fmtF32.infImg
  else
    let total : Nat := vs.foldl (fun (n : Nat) (e : Nat × Nat) => n + e.1) 0
    roundQuot (vs.foldl (fun (n : Int) (e : Nat × Nat) => n + Int.ofNat e.1 * f32Units (BitVec.ofNat 32 e.2)) 0) ((total : Int) * 2 ^ 149)

/-! ### FETCH (R345, R346) -/

/-- Why the fetch unit has no words for a lane yet: reads still to be made, and whether others may follow them; or a tile that
breaks its format. -/
inductive FetchStop where
  | need (rs : List (Dword × Nat)) (more : Bool)
  | bad
  deriving DecidableEq, Repr

/-- The bytes at a virtual address that a FETCH has read. -/
def Flight.gotBytes (a : Flight) (va : Dword) (n : Nat) : Option (List Byte) :=
  let ks := (List.range n).map (fun i => mapGet 0 a.got ((va.toNat + i) % 2 ^ 64))
  if ks.contains 0 then none else some (ks.map (fun k => BitVec.ofNat 8 (k - 1)))

/-- The bytes that a FETCH has read, or that it has to read them first. -/
def Flight.fetched (a : Flight) (va : Dword) (n : Nat) : Except FetchStop (List Byte) :=
  match a.gotBytes va n with
  | some bs => .ok bs
  | none => .error (.need [(va, n)] true)

/-- What FETCH captured of a lane: u, v, λ and the index. -/
def Flight.fetchArg (a : Flight) (L i : Nat) : Nat := a.vals.getD (1 + 4 * L + i) 0

/-- LOD of a FETCH. -/
def Flight.lod (a : Flight) : Nat :=
  match a.op with
  | .fetch _ _ _ lod _ => lod.toNat
  | _ => 0

/-- The texels of a lane, with their weights, for a texture. -/
def Flight.fetchTaps (a : Flight) (d : FetchDesc) (L : Nat) : Option (List Tap) :=
  let q := L / 4 * 4
  let u := fun (k : Nat) => a.fetchArg k 0
  let v := fun (k : Nat) => a.fetchArg k 1
  let fp := if a.lod = 0 then d.footprint (u q) (u (q + 1)) (u (q + 2)) (v q) (v (q + 1)) (v (q + 2)) else none
  (d.lanetaps a.lod (u L) (v L) (a.fetchArg L 2) fp).map (fun taps => taps.filter (fun t => t.1 ≠ 0))

/-- The four channels of a lane from its texels (R347), or the texels still to be read. -/
def Flight.fetchTexture (a : Flight) (d : FetchDesc) (taps : List Tap) : Except FetchStop (List Nat) :=
  let missing := taps.filterMap (fun t => t.2.2.bind (fun p =>
    let e := d.texelAt t.2.1 p.1 p.2
    if (a.gotBytes e.1 e.2).isNone then some e else none))
  if !missing.isEmpty then .error (.need missing false)
  else
    let vs := taps.map (fun t => (t.1, match t.2.2 with
      | none => [0, 0, 0, 0]
      | some p =>
        let e := d.texelAt t.2.1 p.1 p.2
        texelChannels d.fmt p.1 p.2 ((a.gotBytes e.1 e.2).getD [])))
    .ok ((List.range 4).map (fun c => meanOf (vs.map (fun e => (e.1, el e.2 c)))))

/-- The words that a lane's FETCH writes to its registers from the first on (R346), or what it still has to read. What the
manual gives no value to is free (log 39). -/
def State.fetchLane (s : State) (a : Flight) (L : Nat) : Except FetchStop (List Nat) :=
  let table := BitVec.ofNat 64 (a.vals.getD 0 0)
  let free := fun (n : Nat) => (s.freeVal (920 + 4 * L + n)).toNat % 2 ^ 32
  match a.fetched (table + BitVec.ofNat 64 (32 * (a.fetchArg L 3 % 65536))) 32 with
  | .error e => .error e
  | .ok bs =>
    let d := fetchDesc bs
    if !(fetchDescOk bs) then .ok [0, 0, 0, 0]
    else if d.kind = 1 then
      (match a.fetchTaps d L with
      | none => .ok ((List.range 4).map free)
      | some taps => a.fetchTexture d taps)
    else
      match a.fetched d.base 64 with
      | .error e => .error e
      | .ok hb =>
        let t := tileHead hb
        let row := a.fetchArg L 0
        let col := a.fetchArg L 1
        if !t.ok then .ok [0, 0, 0, 0]
        else if t.rows ≤ row ∨ t.cols ≤ col then .ok [0]
        else
          match tileElem t .bad (fun off n => a.fetched (d.base + BitVec.ofNat 64 off) n) row col with
          | .ok n => .ok [n]
          | .error .bad => .ok [free 0]
          | .error e => .error e

/-- What a FETCH has in its lanes: the words of all of them, or the reads still to be made and whether others may follow. -/
def State.fetchAll (s : State) (a : Flight) : Except (List (Dword × Nat) × Bool) (List (Nat × List Nat)) :=
  let rs := (Mask.lanes a.act).map (fun L => (L, s.fetchLane a L))
  let needs := rs.filterMap (fun r => match r.2 with
    | .error (.need n more) => some (n, more)
    | _ => none)
  if needs.isEmpty then
    .ok (rs.map (fun r => (r.1, match r.2 with
      | .ok ws => ws
      | .error _ => [])))
  else .error (needs.flatMap Prod.fst, needs.any Prod.snd)

/-- A read in pieces that lie in aligned units of 8 bytes each (R129). -/
def fetchPieces : Nat → Dword → Nat → List (Dword × Nat)
  | 0, _, _ => []
  | fuel + 1, va, n =>
    let m := min n (8 - va.toNat % 8)
    if n = 0 then [] else (va, m) :: fetchPieces fuel (va + BitVec.ofNat 64 m) (n - m)

/-- The accesses of the fetch unit's reads, or the first failure. -/
def State.fetchAccs (s : State) (sp : Space) : List (Dword × Nat) → Except EngErr (List Acc)
  | [] => .ok []
  | p :: r =>
    match checkVa s sp .read 1 p.1 with
    | .trap c => .error { cause := c, va := p.1, bad := false }
    | .miss bad => .error { cause := causeXlate, va := p.1, bad }
    | .ok pa => (s.fetchAccs sp r).map (fun cs =>
        { lane := 0, va := p.1.toNat, pa, size := p.2, reg := 0, sgn := false, data := [], cmp := [], target := 0 } :: cs)

/-- The accesses that the fetch unit makes next for the reads of a FETCH. -/
def State.fetchNext (s : State) (w : Nat) (rs : List (Dword × Nat)) : Except EngErr (List Acc) :=
  s.fetchAccs (s.wave w).engSpace (distinct (rs.flatMap (fun p => fetchPieces (p.2 / 8 + 2) p.1 p.2)))

/-- FETCH (R345, R346). -/
def execFetch (d a b : Code) (lod : BitVec 2) (S : Stall) : State → Host.Outcome State Fault Refusal :=
  issue S
    (fun f s =>
      let x := s.wave f.wave
      { lanes := true, ok := vOkAl x d 4 4 && vOkAl x a 4 4 && hOk b,
        reads := vRegs a 4 ++ hRegs b ++ s.activeRegs f.wave f.split, writes := vRegs d 4, ra := .suppress })
    (fun f s =>
      let x := s.wave f.wave
      let act := s.active f.wave f.split
      let h := s.readH f.wave b.toNat
      if handleType h ≠ 0 ∧ handleType h ≠ 7 then engTrap 52
      else if act = 0 then .done s
      else if pathFull x 3 then .hold
      else
        let table := if handleType h = 0 then x.csr.fetchtab else handleAddr h
        .done (s.launchFlight f.wave
          { memFlight f 3 .fetch false [] (vRegs d 4) act with
            op := .fetch d a b lod S, lanesLeft := act, more := true,
            vals := table.toNat :: allLanes.flatMap (fun L =>
              (List.range 4).map (fun i => (s.readV f.wave (a.toNat + i) L).toNat)) }))

/-- The FETCH at a place of the path, where it is not complete. -/
def Wave.fetchAt (x : Wave) (i : Nat) : Option Flight :=
  match x.onPath 3 i with
  | some a => if a.lanesLeft = 0 then Option.none else some a
  | Option.none => Option.none

/-- Words land in a lane's registers from register `n` on. -/
def Wave.landFrom (x : Wave) (a : Flight) (n L : Nat) (ws : List Nat) : Wave :=
  ((List.range ws.length).zip ws).foldl (fun x e => x.land a (.v (n + e.1)) L (BitVec.ofNat 32 e.2)) x

/-- A turn of the fetch unit on a FETCH that waits for no page: it makes reads that are due, finds which follow, or writes the
results, and FET falls. -/
def State.fetchTurn (s : State) (w place : Nat) (idx : List Nat) : State :=
  match (s.wave w).fetchAt place with
  | none => s
  | some a =>
    if a.page.isSome || a.refused then s
    else if !a.accs.isEmpty then s.performSome w a.seq idx
    else match s.fetchAll a, a.dests with
      | .error (rs, more), _ =>
        (match s.fetchNext w rs with
          | .ok accs => s.modWave w (fun x => x.modFlight a.seq (fun b => { b with accs, more }))
          | .error _ => s)
      | .ok rs, .v n :: _ =>
        s.modWave w (fun x =>
          ((rs.foldl (fun x r => x.landFrom a n r.1 r.2) x).modFlight a.seq (fun b =>
            { b with lanesLeft := 0, more := false })).settleFlights)
      | _, _ => s

/-- Turns of the fetch unit, as many as reads of a FETCH can follow one another. -/
def State.fetchTurns (s : State) (w place : Nat) : Nat → State
  | 0 => s
  | n + 1 => (s.fetchTurn w place []).fetchTurns w place n

/-- FETCH_COMPLETE (R346, R347): the fetch unit reads, and with the last of its reads the results are written. Subject: wave,
the place on the path, and the accesses performed (none given: all that follow, to the end). -/
def execFetchComplete (s : State) : Host.Outcome State Fault Refusal :=
  let w := s.arg 0
  let idx := s.nums.drop 2
  .next (if idx.isEmpty then s.fetchTurns w (s.arg 1) 12 else s.fetchTurn w (s.arg 1) idx)

/-- FETCH_FAULT (R348): a fetch waits for a page, or fails. Subject: wave, and the place on the path. -/
def execFetchFault (s : State) : Host.Outcome State Fault Refusal :=
  let w := s.arg 0
  let x := s.wave w
  .next (match x.fetchAt (s.arg 1) with
    | none => s
    | some a =>
      match a.page, a.refused with
      | some p, true => s.failFlight w a causeXlate (uncArg p.2.toNat 3)
      | some _, false => s
      | none, _ =>
        if !a.accs.isEmpty then
          (match s.flightBad w a with
            | some va => s.failFlight w a causeUncorr (uncArg va 3)
            | none => s)
        else match s.fetchAll a with
          | .ok _ => s
          | .error (rs, _) =>
            match s.fetchNext w rs with
            | .ok _ => s
            | .error e =>
              if e.cause ≠ causeXlate then s.failFlight w a e.cause (uncArg e.va.toNat 3)
              else
                let s := s.engFault 5 .read x.engSpace x.cluster x.csr.launchid e
                if s.hasMerge (sectionOf x.cluster) x.csr.asid (pageOf e.va) then
                  s.modWave w (fun x => x.modFlight a.seq (fun b => { b with page := some (pageOf e.va, e.va) }))
                else s)

end Sys2Proof.Machine
end

