-- ==== Sys2Proof/Machine/Dispatch.lean ====
section
/-! DEFINITION. One arm for each constructor of Instr: the instruction's or step's meaning. -/

namespace Sys2Proof.Machine

/-- What an instruction or a step does to the state. -/
def exec (i : Instr) (s : State) : Host.Outcome State Fault Refusal :=
  match i with
  | .sadd d a b stl lit => Sys2Proof.Machine.execSadd d a b stl lit s
  | .ssub d a b stl lit => Sys2Proof.Machine.execSsub d a b stl lit s
  | .smul d a b stl lit => Sys2Proof.Machine.execSmul d a b stl lit s
  | .smulhu d a b stl lit => Sys2Proof.Machine.execSmulhu d a b stl lit s
  | .sand d a b stl lit => Sys2Proof.Machine.execSand d a b stl lit s
  | .sor d a b stl lit => Sys2Proof.Machine.execSor d a b stl lit s
  | .sxor d a b stl lit => Sys2Proof.Machine.execSxor d a b stl lit s
  | .sandn d a b stl lit => Sys2Proof.Machine.execSandn d a b stl lit s
  | .sshl d a b stl lit => Sys2Proof.Machine.execSshl d a b stl lit s
  | .sshr d a b stl lit => Sys2Proof.Machine.execSshr d a b stl lit s
  | .ssar d a b stl lit => Sys2Proof.Machine.execSsar d a b stl lit s
  | .smin d a b stl lit => Sys2Proof.Machine.execSmin d a b stl lit s
  | .smax d a b stl lit => Sys2Proof.Machine.execSmax d a b stl lit s
  | .sminu d a b stl lit => Sys2Proof.Machine.execSminu d a b stl lit s
  | .smaxu d a b stl lit => Sys2Proof.Machine.execSmaxu d a b stl lit s
  | .seq d a b stl lit => Sys2Proof.Machine.execSeq d a b stl lit s
  | .slt d a b stl lit => Sys2Proof.Machine.execSlt d a b stl lit s
  | .sltu d a b stl lit => Sys2Proof.Machine.execSltu d a b stl lit s
  | .ssel d a b stl lit => Sys2Proof.Machine.execSsel d a b stl lit s
  | .smov d a stl lit => Sys2Proof.Machine.execSmov d a stl lit s
  | .sun d a f stl lit => Sys2Proof.Machine.execSun d a f stl lit s
  | .sadd64 d a b stl lit => Sys2Proof.Machine.execSadd64 d a b stl lit s
  | .ssub64 d a b stl lit => Sys2Proof.Machine.execSsub64 d a b stl lit s
  | .sshl64 d a b stl lit => Sys2Proof.Machine.execSshl64 d a b stl lit s
  | .sshr64 d a b stl lit => Sys2Proof.Machine.execSshr64 d a b stl lit s
  | .smul64 d a b stl lit => Sys2Proof.Machine.execSmul64 d a b stl lit s
  | .sbfe d a b stl lit => Sys2Proof.Machine.execSbfe d a b stl lit s
  | .sbfi d a b stl lit => Sys2Proof.Machine.execSbfi d a b stl lit s
  | .pand d a b stl => Sys2Proof.Machine.execPand d a b stl s
  | .por d a b stl => Sys2Proof.Machine.execPor d a b stl s
  | .pxor d a b stl => Sys2Proof.Machine.execPxor d a b stl s
  | .pandn d a b stl => Sys2Proof.Machine.execPandn d a b stl s
  | .vaddVV d a b stl => Sys2Proof.Machine.execVaddVV d a b stl s
  | .vaddVS d a b stl lit => Sys2Proof.Machine.execVaddVS d a b stl lit s
  | .vsubVV d a b stl => Sys2Proof.Machine.execVsubVV d a b stl s
  | .vsubVS d a b stl lit => Sys2Proof.Machine.execVsubVS d a b stl lit s
  | .vmulVV d a b stl => Sys2Proof.Machine.execVmulVV d a b stl s
  | .vmulVS d a b stl lit => Sys2Proof.Machine.execVmulVS d a b stl lit s
  | .vfmaVV d a b stl => Sys2Proof.Machine.execVfmaVV d a b stl s
  | .vfmaVS d a b stl lit => Sys2Proof.Machine.execVfmaVS d a b stl lit s
  | .vfnmaVV d a b stl => Sys2Proof.Machine.execVfnmaVV d a b stl s
  | .vfnmaVS d a b stl lit => Sys2Proof.Machine.execVfnmaVS d a b stl lit s
  | .vminVV d a b stl => Sys2Proof.Machine.execVminVV d a b stl s
  | .vminVS d a b stl lit => Sys2Proof.Machine.execVminVS d a b stl lit s
  | .vmaxVV d a b stl => Sys2Proof.Machine.execVmaxVV d a b stl s
  | .vmaxVS d a b stl lit => Sys2Proof.Machine.execVmaxVS d a b stl lit s
  | .vandVV d a b stl => Sys2Proof.Machine.execVandVV d a b stl s
  | .vandVS d a b stl lit => Sys2Proof.Machine.execVandVS d a b stl lit s
  | .vorVV d a b stl => Sys2Proof.Machine.execVorVV d a b stl s
  | .vorVS d a b stl lit => Sys2Proof.Machine.execVorVS d a b stl lit s
  | .vxorVV d a b stl => Sys2Proof.Machine.execVxorVV d a b stl s
  | .vxorVS d a b stl lit => Sys2Proof.Machine.execVxorVS d a b stl lit s
  | .vshlVV d a b stl => Sys2Proof.Machine.execVshlVV d a b stl s
  | .vshlVS d a b stl lit => Sys2Proof.Machine.execVshlVS d a b stl lit s
  | .vshrVV d a b stl => Sys2Proof.Machine.execVshrVV d a b stl s
  | .vshrVS d a b stl lit => Sys2Proof.Machine.execVshrVS d a b stl lit s
  | .vmulhVV d a b stl => Sys2Proof.Machine.execVmulhVV d a b stl s
  | .vmulhVS d a b stl lit => Sys2Proof.Machine.execVmulhVS d a b stl lit s
  | .vclampVV d a b stl => Sys2Proof.Machine.execVclampVV d a b stl s
  | .vclampVS d a b stl lit => Sys2Proof.Machine.execVclampVS d a b stl lit s
  | .vceqVV d a b stl => Sys2Proof.Machine.execVceqVV d a b stl s
  | .vceqVS d a b stl lit => Sys2Proof.Machine.execVceqVS d a b stl lit s
  | .vcltVV d a b stl => Sys2Proof.Machine.execVcltVV d a b stl s
  | .vcltVS d a b stl lit => Sys2Proof.Machine.execVcltVS d a b stl lit s
  | .vcleVV d a b stl => Sys2Proof.Machine.execVcleVV d a b stl s
  | .vcleVS d a b stl lit => Sys2Proof.Machine.execVcleVS d a b stl lit s
  | .vcneVV d a b stl => Sys2Proof.Machine.execVcneVV d a b stl s
  | .vcneVS d a b stl lit => Sys2Proof.Machine.execVcneVS d a b stl lit s
  | .vclassVV d a b stl => Sys2Proof.Machine.execVclassVV d a b stl s
  | .vclassVS d a b stl lit => Sys2Proof.Machine.execVclassVS d a b stl lit s
  | .vselVV d a b stl => Sys2Proof.Machine.execVselVV d a b stl s
  | .vselVS d a b stl lit => Sys2Proof.Machine.execVselVS d a b stl lit s
  | .vmovVV d a stl => Sys2Proof.Machine.execVmovVV d a stl s
  | .vmovVS d b stl lit => Sys2Proof.Machine.execVmovVS d b stl lit s
  | .vunVV d a f stl => Sys2Proof.Machine.execVunVV d a f stl s
  | .vunVS d a f stl lit => Sys2Proof.Machine.execVunVS d a f stl lit s
  | .vcvtVV d a t stl => Sys2Proof.Machine.execVcvtVV d a t stl s
  | .vcvtVS d a t stl lit => Sys2Proof.Machine.execVcvtVS d a t stl lit s
  | .vbfeVV d a b stl => Sys2Proof.Machine.execVbfeVV d a b stl s
  | .vbfeVS d a b stl lit => Sys2Proof.Machine.execVbfeVS d a b stl lit s
  | .vbfiVV d a b stl => Sys2Proof.Machine.execVbfiVV d a b stl s
  | .vbfiVS d a b stl lit => Sys2Proof.Machine.execVbfiVS d a b stl lit s
  | .vquadVV d a p stl => Sys2Proof.Machine.execVquadVV d a p stl s
  | .vquadVS d a p stl lit => Sys2Proof.Machine.execVquadVS d a p stl lit s
  | .vshufVV d a b stl => Sys2Proof.Machine.execVshufVV d a b stl s
  | .vshufVS d a b stl lit => Sys2Proof.Machine.execVshufVS d a b stl lit s
  | .vrfirst d a stl => Sys2Proof.Machine.execVrfirst d a stl s
  | .vrlane d a b stl lit => Sys2Proof.Machine.execVrlane d a b stl lit s
  | .vwlane d a b stl lit => Sys2Proof.Machine.execVwlane d a b stl lit s
  | .vdot2VV d a b stl => Sys2Proof.Machine.execVdot2VV d a b stl s
  | .vdot2VS d a b stl lit => Sys2Proof.Machine.execVdot2VS d a b stl lit s
  | .vpfxVV d a f stl => Sys2Proof.Machine.execVpfxVV d a f stl s
  | .vpfxVS d a f stl lit => Sys2Proof.Machine.execVpfxVS d a f stl lit s
  | .ldg d a z n stl => Sys2Proof.Machine.execLdg d a z n stl s
  | .stg d a z n stl => Sys2Proof.Machine.execStg d a z n stl s
  | .ldga d a z stl => Sys2Proof.Machine.execLdga d a z stl s
  | .stga d a z stl => Sys2Proof.Machine.execStga d a z stl s
  | .lds d a z m stl => Sys2Proof.Machine.execLds d a z m stl s
  | .sts d a z m stl => Sys2Proof.Machine.execSts d a z m stl s
  | .ldgs d a z n stl => Sys2Proof.Machine.execLdgs d a z n stl s
  | .atomg d a n kind scope w64 ret cmp stl => Sys2Proof.Machine.execAtomg d a n kind scope w64 ret cmp stl s
  | .atoms d a m kind scope w64 ret cmp stl => Sys2Proof.Machine.execAtoms d a m kind scope w64 ret cmp stl s
  | .sld d a b size off stl lit => Sys2Proof.Machine.execSld d a b size off stl lit s
  | .sst d a b size off stl lit => Sys2Proof.Machine.execSst d a b size off stl lit s
  | .fetch d a b lod stl => Sys2Proof.Machine.execFetch d a b lod stl s
  | .pref a n level own stl => Sys2Proof.Machine.execPref a n level own stl s
  | .cmaint a b op stl lit => Sys2Proof.Machine.execCmaint a b op stl lit s
  | .cpy d a b hring srcn dstn size sscr dscr stl lit => Sys2Proof.Machine.execCpy d a b hring srcn dstn size sscr dscr stl lit s
  | .cpymc d a b len stl lit => Sys2Proof.Machine.execCpymc d a b len stl lit s
  | .pack d a b hring scr pitch stl lit => Sys2Proof.Machine.execPack d a b hring scr pitch stl lit s
  | .unpack d a b hring scr tr pitch stl lit => Sys2Proof.Machine.execUnpack d a b hring scr tr pitch stl lit s
  | .malloc a w stl lit => Sys2Proof.Machine.execMalloc a w stl lit s
  | .mfree stl => Sys2Proof.Machine.execMfree stl s
  | .mloadw d a b fmt pitch stl lit => Sys2Proof.Machine.execMloadw d a b fmt pitch stl lit s
  | .mswap stl => Sys2Proof.Machine.execMswap stl s
  | .mstream d a b fmt sr ini mmax pitch stl lit => Sys2Proof.Machine.execMstream d a b fmt sr ini mmax pitch stl lit s
  | .mdrain d a b raw act ofmt scl bias pitch nc icell stl lit => Sys2Proof.Machine.execMdrain d a b raw act ofmt scl bias pitch nc icell stl lit s
  | .mzero a b stl lit => Sys2Proof.Machine.execMzero a b stl lit s
  | .mfill d a b pitch nc stl lit => Sys2Proof.Machine.execMfill d a b pitch nc stl lit s
  | .ncall d a b nin nout itype otype token stl => Sys2Proof.Machine.execNcall d a b nin nout itype otype token stl s
  | .whint d a op stl lit => Sys2Proof.Machine.execWhint d a op stl lit s
  | .spawn d a pay stl => Sys2Proof.Machine.execSpawn d a pay stl s
  | .spawnc d a b pay stl => Sys2Proof.Machine.execSpawnc d a b pay stl s
  | .primemit a b cull stl lit => Sys2Proof.Machine.execPrimemit a b cull stl lit s
  | .trace d a b mode log cullb logn stl => Sys2Proof.Machine.execTrace d a b mode log cullb logn stl s
  | .tracec d a b logn stl => Sys2Proof.Machine.execTracec d a b logn stl s
  | .replay d a b full stl => Sys2Proof.Machine.execReplay d a b full stl s
  | .pixlock stl => Sys2Proof.Machine.execPixlock stl s
  | .pixunlock stl => Sys2Proof.Machine.execPixunlock stl s
  | .pixexp a target zw stl => Sys2Proof.Machine.execPixexp a target zw stl s
  | .attr d a b first count mode k basen stride stl => Sys2Proof.Machine.execAttr d a b first count mode k basen stride stl s
  | .nlgrid d a op stl => Sys2Proof.Machine.execNlgrid d a op stl s
  | .nlins d a b mode stl => Sys2Proof.Machine.execNlins d a b mode stl s
  | .nlpairs d a b hring full skip slots stl lit => Sys2Proof.Machine.execNlpairs d a b hring full skip slots stl lit s
  | .nlstat d a stl => Sys2Proof.Machine.execNlstat d a stl s
  | .clopen d a b stl lit => Sys2Proof.Machine.execClopen d a b stl lit s
  | .cljoin d a stl => Sys2Proof.Machine.execCljoin d a stl s
  | .clleave a stl => Sys2Proof.Machine.execClleave a stl s
  | .clarrive a stl => Sys2Proof.Machine.execClarrive a stl s
  | .clwait d a stl => Sys2Proof.Machine.execClwait d a stl s
  | .clbar d a stl => Sys2Proof.Machine.execClbar d a stl s
  | .clvote d a b kind st stl => Sys2Proof.Machine.execClvote d a b kind st stl s
  | .clred d a b op ty st stl => Sys2Proof.Machine.execClred d a b op ty st stl s
  | .clclose a stl => Sys2Proof.Machine.execClclose a stl s
  | .clinfo d a b stl lit => Sys2Proof.Machine.execClinfo d a b stl lit s
  | .bind d a b index scope clear stl lit => Sys2Proof.Machine.execBind d a b index scope clear stl lit s
  | .acq d a b stl lit => Sys2Proof.Machine.execAcq d a b stl lit s
  | .rel a b stl lit => Sys2Proof.Machine.execRel a b stl lit s
  | .gbar n stl => Sys2Proof.Machine.execGbar n stl s
  | .garrive n stl => Sys2Proof.Machine.execGarrive n stl s
  | .gwait n stl => Sys2Proof.Machine.execGwait n stl s
  | .waitc p b stl lit => Sys2Proof.Machine.execWaitc p b stl lit s
  | .nwait a stl => Sys2Proof.Machine.execNwait a stl s
  | .qenq d a b stl => Sys2Proof.Machine.execQenq d a b stl s
  | .qpop d a b stl => Sys2Proof.Machine.execQpop d a b stl s
  | .qenqu d a b stl => Sys2Proof.Machine.execQenqu d a b stl s
  | .rawait d a b stl lit => Sys2Proof.Machine.execRawait d a b stl lit s
  | .rares d a stl => Sys2Proof.Machine.execRares d a stl s
  | .rarel a b stl lit => Sys2Proof.Machine.execRarel a b stl lit s
  | .fenceL stl => Sys2Proof.Machine.execFenceL stl s
  | .fenceH c stl => Sys2Proof.Machine.execFenceH c stl s
  | .hmake d a t stl lit => Sys2Proof.Machine.execHmake d a t stl lit s
  | .hread d a stl => Sys2Proof.Machine.execHread d a stl s
  | .bra c n h o stl => Sys2Proof.Machine.execBra c n h o stl s
  | .braz d o stl lit => Sys2Proof.Machine.execBraz d o stl lit s
  | .branz d o stl lit => Sys2Proof.Machine.execBranz d o stl lit s
  | .join stl => Sys2Proof.Machine.execJoin stl s
  | .setj o stl => Sys2Proof.Machine.execSetj o stl s
  | .call o stl => Sys2Proof.Machine.execCall o stl s
  | .ret a stl lit => Sys2Proof.Machine.execRet a stl lit s
  | .jmpi a b stl lit => Sys2Proof.Machine.execJmpi a b stl lit s
  | .setmode imm stl => Sys2Proof.Machine.execSetmode imm stl s
  | .exit stl => Sys2Proof.Machine.execExit stl s
  | .yield stl => Sys2Proof.Machine.execYield stl s
  | .sleep a stl lit => Sys2Proof.Machine.execSleep a stl lit s
  | .reggive a stl lit => Sys2Proof.Machine.execReggive a stl lit s
  | .regclaim a stl lit => Sys2Proof.Machine.execRegclaim a stl lit s
  | .launch d a b stl lit => Sys2Proof.Machine.execLaunch d a b stl lit s
  | .nop stl => Sys2Proof.Machine.execNop stl s
  | .trap a stl lit => Sys2Proof.Machine.execTrap a stl lit s
  | .rte stl => Sys2Proof.Machine.execRte stl s
  | .csrr d c stl => Sys2Proof.Machine.execCsrr d c stl s
  | .csrw d c stl lit => Sys2Proof.Machine.execCsrw d c stl lit s
  | .tlbinvPage a asid stl lit => Sys2Proof.Machine.execTlbinvPage a asid stl lit s
  | .tlbinvAsidall a asid stl lit => Sys2Proof.Machine.execTlbinvAsidall a asid stl lit s
  | .tlbinvAll a asid stl lit => Sys2Proof.Machine.execTlbinvAll a asid stl lit s
  | .tlbinvResolve a asid stl lit => Sys2Proof.Machine.execTlbinvResolve a asid stl lit s
  | .tlbinvRefuse a asid stl lit => Sys2Proof.Machine.execTlbinvRefuse a asid stl lit s
  | .sramcfg d a mode stl lit => Sys2Proof.Machine.execSramcfg d a mode stl lit s
  | .splitrd a b stl lit => Sys2Proof.Machine.execSplitrd a b stl lit s
  | .splitwr a b stl lit => Sys2Proof.Machine.execSplitwr a b stl lit s
  | .dstkrd a b stl lit => Sys2Proof.Machine.execDstkrd a b stl lit s
  | .dstkwr a b stl lit => Sys2Proof.Machine.execDstkwr a b stl lit s
  | .clmemb a b stl lit => Sys2Proof.Machine.execClmemb a b stl lit s
  | .clrestore a b stl lit => Sys2Proof.Machine.execClrestore a b stl lit s
  | .cntrd d stl => Sys2Proof.Machine.execCntrd d stl s
  | .brk stl => Sys2Proof.Machine.execBrk stl s
  | .halt stl => Sys2Proof.Machine.execHalt stl s
  | .smcVersion d a b stl lit => Sys2Proof.Machine.execSmcVersion d a b stl lit s
  | .smcAttest d a b stl lit => Sys2Proof.Machine.execSmcAttest d a b stl lit s
  | .smcBlockworld d a b stl lit => Sys2Proof.Machine.execSmcBlockworld d a b stl lit s
  | .smcRegionworld d a b stl lit => Sys2Proof.Machine.execSmcRegionworld d a b stl lit s
  | .smcFramecfg d a b stl lit => Sys2Proof.Machine.execSmcFramecfg d a b stl lit s
  | .smcPower d a b stl lit => Sys2Proof.Machine.execSmcPower d a b stl lit s
  | .park stl => Sys2Proof.Machine.execPark stl s
  | .cycleLatchRead d stl => Sys2Proof.Machine.execCycleLatchRead d stl s
  | .fpstatWrite d stl lit => Sys2Proof.Machine.execFpstatWrite d stl lit s
  | .framedeadlineWrite d hi stl lit => Sys2Proof.Machine.execFramedeadlineWrite d hi stl lit s
  | .unassignedEncoding w => Sys2Proof.Machine.execUnassignedEncoding w s
  | .moduleReset => Sys2Proof.Machine.execModuleReset s
  | .thermalLimit => Sys2Proof.Machine.execThermalLimit s
  | .launchContextWrite => Sys2Proof.Machine.execLaunchContextWrite s
  | .launchQueuePop => Sys2Proof.Machine.execLaunchQueuePop s
  | .launchRecordRead => Sys2Proof.Machine.execLaunchRecordRead s
  | .taskStart => Sys2Proof.Machine.execTaskStart s
  | .gangPlace => Sys2Proof.Machine.execGangPlace s
  | .waveStart => Sys2Proof.Machine.execWaveStart s
  | .waveSlotRelease => Sys2Proof.Machine.execWaveSlotRelease s
  | .taskRetire => Sys2Proof.Machine.execTaskRetire s
  | .completionRetry => Sys2Proof.Machine.execCompletionRetry s
  | .waveStarving => Sys2Proof.Machine.execWaveStarving s
  | .sleepWake => Sys2Proof.Machine.execSleepWake s
  | .regclaimGrant => Sys2Proof.Machine.execRegclaimGrant s
  | .loadReturn => Sys2Proof.Machine.execLoadReturn s
  | .storePerformed => Sys2Proof.Machine.execStorePerformed s
  | .memUncorr => Sys2Proof.Machine.execMemUncorr s
  | .sharedCopyDiscard => Sys2Proof.Machine.execSharedCopyDiscard s
  | .runaheadEnd => Sys2Proof.Machine.execRunaheadEnd s
  | .rollback => Sys2Proof.Machine.execRollback s
  | .firmwareKill => Sys2Proof.Machine.execFirmwareKill s
  | .preemptRequest => Sys2Proof.Machine.execPreemptRequest s
  | .preemptEntry => Sys2Proof.Machine.execPreemptEntry s
  | .gangEvict => Sys2Proof.Machine.execGangEvict s
  | .waveResume => Sys2Proof.Machine.execWaveResume s
  | .clauseHomeOp => Sys2Proof.Machine.execClauseHomeOp s
  | .bindHomeOp => Sys2Proof.Machine.execBindHomeOp s
  | .lockHomeOp => Sys2Proof.Machine.execLockHomeOp s
  | .queueHomeOp => Sys2Proof.Machine.execQueueHomeOp s
  | .ringHomeOp => Sys2Proof.Machine.execRingHomeOp s
  | .fenceHReturn => Sys2Proof.Machine.execFenceHReturn s
  | .engineCommandAccept => Sys2Proof.Machine.execEngineCommandAccept s
  | .copySlotEnd => Sys2Proof.Machine.execCopySlotEnd s
  | .cpymcReception => Sys2Proof.Machine.execCpymcReception s
  | .matrixArbitration => Sys2Proof.Machine.execMatrixArbitration s
  | .matrixCommandComplete => Sys2Proof.Machine.execMatrixCommandComplete s
  | .boothDescriptorRead => Sys2Proof.Machine.execBoothDescriptorRead s
  | .boothTimerExpire => Sys2Proof.Machine.execBoothTimerExpire s
  | .weightSetFill => Sys2Proof.Machine.execWeightSetFill s
  | .tileBegin => Sys2Proof.Machine.execTileBegin s
  | .tileLayerEnd => Sys2Proof.Machine.execTileLayerEnd s
  | .tileScatter => Sys2Proof.Machine.execTileScatter s
  | .spawnLaunch => Sys2Proof.Machine.execSpawnLaunch s
  | .rayQueryEnd => Sys2Proof.Machine.execRayQueryEnd s
  | .rayQuerySuspend => Sys2Proof.Machine.execRayQuerySuspend s
  | .replayLaneEnd => Sys2Proof.Machine.execReplayLaneEnd s
  | .primitiveRasterise => Sys2Proof.Machine.execPrimitiveRasterise s
  | .pixelWaveLaunch => Sys2Proof.Machine.execPixelWaveLaunch s
  | .pixlockGrant => Sys2Proof.Machine.execPixlockGrant s
  | .blendExport => Sys2Proof.Machine.execBlendExport s
  | .rasterBatchResume => Sys2Proof.Machine.execRasterBatchResume s
  | .frameDeadline => Sys2Proof.Machine.execFrameDeadline s
  | .frameAck => Sys2Proof.Machine.execFrameAck s
  | .fetchComplete => Sys2Proof.Machine.execFetchComplete s
  | .fetchFault => Sys2Proof.Machine.execFetchFault s
  | .nlCommandArrive => Sys2Proof.Machine.execNlCommandArrive s
  | .nlCommandTurn => Sys2Proof.Machine.execNlCommandTurn s
  | .rdmaWrite => Sys2Proof.Machine.execRdmaWrite s
  | .rdmaReadRequest => Sys2Proof.Machine.execRdmaReadRequest s
  | .rdmaResponse => Sys2Proof.Machine.execRdmaResponse s
  | .compareSwap => Sys2Proof.Machine.execCompareSwap s
  | .fetchAdd => Sys2Proof.Machine.execFetchAdd s
  | .remoteEnqueue => Sys2Proof.Machine.execRemoteEnqueue s
  | .remoteArrive => Sys2Proof.Machine.execRemoteArrive s
  | .invalidRequest => Sys2Proof.Machine.execInvalidRequest s
  | .frameDrop => Sys2Proof.Machine.execFrameDrop s
  | .nlCommandEnd => Sys2Proof.Machine.execNlCommandEnd s
  | .rasterEngineSave => Sys2Proof.Machine.execRasterEngineSave s
  | .addressSpaceRetire => Sys2Proof.Machine.execAddressSpaceRetire s
  | .queuePairBind => Sys2Proof.Machine.execQueuePairBind s

end Sys2Proof.Machine
end

