-- ==== Sys2Proof/Machine/Turn.lean ====
section
/-! DEFINITION. The turns that are no instruction and no step of the opcode table: acts of firmware and of the caches, and
errors from outside. -/

namespace Sys2Proof.Machine

/-- An instruction whose row is a step of an agent other than a split. -/
def Instr.isEvent (i : Instr) : Bool := (encode i).isEmpty

/-- A cluster's cache keeps a shared copy of a line (R141), which the cluster has a bank for that is not closed to fills (R302). -/
def State.keepCopy (s : State) (c line : Nat) : State :=
  if 128 * line + 128 ≤ 2 ^ 38 ∧ (s.cluster c).banks.contains 0 ∧ s.lineOwned line = false ∧
      (s.cluster c).closed.all (fun b => (s.cluster c).lineBank line ≠ b) then
    s.modCluster c (fun x => { x with copies := mapSet [] x.copies line (s.readBytes (128 * line) 128) })
  else s

/-- The entries that a TLB holds (R296): 64 for a core, 512 for a cluster, 4,096 for a section. -/
def tlbSize (t : Nat) : Nat := if t < 256 then 64 else if t < 320 then 512 else 4096

/-- An address space that some agent translates in: a wave, a launch context, or a command of an engine. -/
def State.spaceKnown (s : State) (asid : Nat) (ttbase : Dword) : Bool :=
  s.waves.any (fun e => e.2.life ≠ .none && e.2.csr.asid = asid && e.2.csr.ttbase = ttbase) ||
    s.ctxs.any (fun e => e.2.any (fun c => c.asid = asid && c.ttbase = ttbase)) ||
    s.clusters.any (fun e => e.2.copyCmds.any (fun c => c.asid = asid && c.ttbase = ttbase)) ||
    s.nl.any (fun c => c.asid = asid && c.ttbase = ttbase)

/-- A TLB keeps a translation of an address space, valid as the tables now hold it (R296). -/
def State.keepTlb (s : State) (t asid : Nat) (ttbase va : Dword) : State :=
  match walk s ttbase va with
  | .page pa pte units =>
    if s.spaceKnown asid ttbase ∧ canonical va ∧ t < 328 ∧ (mapGet [] s.tlbs t).length < tlbSize t then
      let pte := (pte &&& ~~~ 0x3FFFFF0000#64) ||| BitVec.ofNat 64 pa
      let e : TlbEntry := { asid, page := pageOf va / units * units, units, pte }
      { s with tlbs := mapSet [] s.tlbs t (mapGet [] s.tlbs t ++ [e]) }
    else s
  | _ => s

/-- A TLB drops the entry at a place (R296). -/
def State.dropTlb (s : State) (t place : Nat) : State :=
  { s with tlbs := mapSet [] s.tlbs t ((mapGet [] s.tlbs t).eraseIdx place) }

/-- Runtime firmware stores bytes to physical memory (R387). -/
def State.fwStore (s : State) (pa : Nat) (bs : List Byte) : State :=
  if pa + bs.length ≤ 2 ^ 38 then s.writeMem pa bs else s

/-- Time passes. -/
def State.tick (s : State) : State := { s with clk := s.clk + 1 }

/-- The state as a step begins: its free values numbered anew, and no issuing context or subject. -/
def State.fresh (s : State) : State := { s with free := s.free + 1, focus := none, view := none, nums := [], bytes := [] }

/-- The state with an instruction placed and about to be issued: wave 0, privileged, of a gang of its own on core 0 of
cluster 0, whose page at 0x1_0000 holds the instruction (log 15). -/
def State.placeWord (s : State) (nbits w : Nat) : State :=
  let entry := fun (pa e : Nat) (s : State) => s.writeMem pa (leBytes 8 e)
  let s := entry 0x10000 0x20001 (entry 0x20000 0x30001 (entry 0x30008 0x4001D s))
  let s := s.writeMem 0x40000 ((tableWords nbits w).flatMap bytesOfWord)
  let x : Wave := { Wave.none with
    life := .resident, blocks := 16,
    splits := [{ handlerContext 0x10000 with next := s.clk }, Split.free, Split.free, Split.free, Split.free],
    csr := { Csrs.zero with priv := true, world := 1, ttbase := 0x10000, trapvec := 0x10100 } }
  let s := { s with waves := mapSet Wave.none [] 0 x, turns := [.issue 0], tlbs := [], badSectors := [], boot := .runtime,
                    ports := mapDel s.ports 0 }
  let s := s.modGang 0 (fun _ => { Gang.none with live := true, waves := 1, vregs := 16, ids := [(0, 0)],
                                                  seats := [(0, 0)], quota := [(0, 16)] })
  (s.modTask 0 (fun _ => { Task.empty with state := .started })).modCluster 0 (fun c => { c with copies := [] })

end Sys2Proof.Machine
end

