-- ==== Sys2Proof/Machine/Run.lean ====
section
/-! DEFINITION. Taking a turn, and the turns that the machine takes of its own where none is given (log 2). -/

namespace Sys2Proof.Machine

/-- The next instruction of a split is held if it is tried at clk `t` (R95): trying it would do nothing else. -/
def State.heldAt (s : State) (t : Nat) (c : Nat × Nat) : Bool :=
  match s.fetch c.1 c.2 with
  | .ok i n =>
    let u := s.focusOn c.1 c.2 t n
    (match exec i u, u.focus with
      | .next v, some f => decide (v = u.held f)
      | _, _ => false)
  | .miss _ va => s.mergeWaits c.1 va
  | _ => false

/-- Of several splits that a port may issue, the held ones are not ready (R95): they are tried again at the next clk, and one
that is held no more is ready from now on. -/
def State.sift (s : State) (port : Nat) : State :=
  let (t, cs) := s.dueAt port
  if cs.length < 2 then s
  else cs.foldl (fun u c =>
    if s.heldAt t c then
      u.modWave c.1 (fun x => { x.modSplit c.2 (fun p => { p with held := true, next := t + 1 }) with starving := false })
    else if ((s.wave c.1).split c.2).held then u.modSplit c.1 c.2 (fun p => { p with held := false, next := t })
    else u) s

/-- A port issues (R95); no wave runs before runtime firmware does (R387). -/
def issueTurn (port : Nat) (s : State) : Host.Outcome State Fault Refusal :=
  if s.boot ≠ .runtime then .next s.tick
  else
    let s := s.sift port
    match s.pick port with
    | none => .next s.tick
    | some (w, k, t) =>
      match s.fetch w k with
      | .ok i n => exec i (s.focusOn w k t n)
      | r => .next ((s.tryAt w k t).fetchStop w k r)

/-- The steps that write the scratch destinations of R152: of the copy engine, MDRAIN and the ray unit. -/
def writesScratch : Instr → Bool
  | .copySlotEnd | .cpymcReception | .matrixCommandComplete | .rayQueryEnd | .rayQuerySuspend | .replayLaneEnd => true
  | _ => false

/-- What names the filling of a weight set. -/
def WSet.op (y : WSet) (c : Nat) : List Nat := [4, c, y.asid, y.desc.toNat, y.base.toNat, y.bytes]

/-- The engine's operation that a step is of: what names it while it runs, or nothing where there is none. -/
def State.stepOp (s : State) (e : Instr) (nums : List Nat) : Option (List Nat) :=
  let n := fun i => nums.getD i 0
  let ray := ((s.wave (n 0)).onPath 4 (n 1)).map (fun a => [0, n 0, a.seq, n 2])
  let copy := fun (more : List Nat) => match (s.cluster (n 0)).copyCmds[n 1]? with
    | some c => if c.accepted then some ([1, c.wave, c.seq] ++ more) else none
    | none => none
  let nl := (s.nl[n 0]?).bind (fun c => if c.arrived then some [3, c.wave, c.seq] else none)
  match e with
  | .engineCommandAccept => ((s.cluster (n 0)).acceptable (n 1)).map (fun c => [1, c.wave, c.seq])
  | .copySlotEnd => copy []
  | .cpymcReception => copy [n 2]
  | .matrixCommandComplete => ((s.gangMx (n 0)).cmds[0]?).map (fun c => [2, c.wave, c.seq])
  | .rayQueryEnd => ray
  | .rayQuerySuspend => ray
  | .replayLaneEnd => ray
  | .nlCommandTurn => nl
  | .nlCommandEnd => nl
  | .weightSetFill => ((s.cluster (n 0)).wanted[n 1]?).map (fun y => y.op (n 0))
  | _ => none

/-- The operation stands among those under way. -/
def State.opLives (s : State) (op : List Nat) : Bool :=
  let n := fun i => op.getD i 0
  match n 0 with
  | 0 => (s.wave (n 1)).flight.any (fun a => a.seq = n 2)
  | 1 => s.clusters.any (fun e => e.2.copyCmds.any (fun c => c.wave = n 1 && c.seq = n 2))
  | 2 => s.mx.any (fun e => e.2.cmds.any (fun c => c.wave = n 1 && c.seq = n 2))
  | 3 => s.nl.any (fun c => c.wave = n 1 && c.seq = n 2)
  | _ => (s.cluster (n 1)).wanted.any (fun y => y.op (n 1) = op)

/-! ### What an engine has read, and what it has written, before its step (R150, R152, R189, R221, R327) -/

/-- A 4-byte unit by its place: of a gang's scratch window by offset / 4, or of memory by `pa / 4`. -/
def State.unitAt (s : State) (g : Option Nat) (u : Nat) : List Byte :=
  match g with
  | some g => s.scrRead g (4 * u) 4
  | none => s.readBytes (4 * u) 4

/-- Memory, scratch and the step's choices as they stand. -/
def State.viewNow (s : State) : View :=
  { nums := s.nums, free := s.free, mem := s.mem, scratch := s.gangs.map (fun e => (e.1, e.2.scratch)), badSectors := s.badSectors, badScratch := s.badScratch }

/-- A view with one unit as it was read. -/
def View.put (v : View) (g : Option Nat) (u : Nat) (bs : List Byte) : View :=
  match g with
  | some g => { v with scratch := mapSet [] v.scratch g (scrPut (mapGet [] v.scratch g) (4 * u) bs) }
  | none => { v with mem := memPut v.mem (4 * u) bs }

/-- What an operation finds as it reads, where that is not what stands there: all that it has read, or units of it. -/
def State.viewOf (s : State) (op : List Nat) : Option View :=
  match s.snaps.find? (fun e => e.1 = op) with
  | some e => some e.2
  | none =>
    let ps := s.peeks.filter (fun p => p.1 = op)
    if ps.isEmpty then none else some (ps.foldl (fun v p => v.put p.2.1 p.2.2.1 p.2.2.2) s.viewNow)

/-- The operation may read a unit of its sources now: it is under way, no access that it waits for is left, and no earlier
operation that it follows is still to write there (R150, R219, R220). -/
def State.mayPeek (s : State) (e : Instr) (nums : List Nat) (g : Option Nat) (u : Nat) : Bool :=
  let n := fun i => nums.getD i 0
  let line := u / 32
  let ray := match (s.wave (n 0)).onPath 4 (n 1) with
    | some a => (!(s.lineOwned line) || a.owned.contains line) && !((s.wave (n 0)).earlierOn a.seq line)
    | none => false
  let nl := match s.nl[n 0]? with
    | some c => !(s.areasOwned c [(4 * u, 4)])
    | none => false
  match e, g with
  | .engineCommandAccept, _ => (match (s.cluster (n 0)).copyCmds[n 1]? with
    | some c => !(c.heldBy s (n 0) (c.head s (n 0))) && (g.isSome || !(s.ownedElsewhere (n 0) line))
    | none => false)
  | .copySlotEnd, _ => g.isSome || !(s.ownedElsewhere (n 0) line)
  | .matrixCommandComplete, some g => (match (s.gangMx (n 0)).cmds[n 1]? with
    | some c => g = n 0 && !(s.mxHeld (n 0) c) && ((s.gangMx (n 0)).cmds.take (n 1)).all (fun b =>
        !(b.outs.any (fun p => rangesMeet p (4 * u, 4))))
    | none => false)
  | .rayQueryEnd, none => ray
  | .rayQuerySuspend, none => ray
  | .replayLaneEnd, none => ray
  | .nlCommandTurn, none => nl
  | .nlCommandEnd, none => nl
  | .weightSetFill, none => !(s.lineOwned line)
  | _, _ => false

/-- The operation that a peek is of: of the matrix engine also a command behind the gang's oldest (R221). -/
def State.peekOp (s : State) (e : Instr) (nums : List Nat) : Option (List Nat) :=
  match e with
  | .matrixCommandComplete => ((s.gangMx (nums.getD 0 0)).cmds[nums.getD 1 0]?).map (fun c => [2, c.wave, c.seq])
  | _ => s.stepOp e nums

/-- An engine's operation under way has read a unit of its source, whatever is written there until its step. -/
def State.peekUnit (s : State) (e : Instr) (nums : List Nat) (g : Option Nat) (u : Nat) : State :=
  match s.peekOp e nums with
  | some op =>
    if !(s.mayPeek e nums g u) || s.peeks.any (fun p => p.1 = op && p.2.1 = g && p.2.2.1 = u) then s
    else { s with peeks := s.peeks ++ [(op, g, u, s.unitAt g u)] }
  | none => s

/-- A step that finds what its operation has read before as it has read it, and makes the choices that it has made. -/
def execIn (e : Instr) (s : State) : Option View → Host.Outcome State Fault Refusal
  | none => exec e s
  | some v =>
    match exec e { s with view := some v, nums := v.nums, free := v.free } with
    | .next t => .next { t with view := none, nums := s.nums, free := s.free }
    | r => r

/-- A step of an engine, which leaves the units that it has written before as they are by now: with its value, or with one that
a thread has written since. -/
def engineStep (e : Instr) (s : State) : Host.Outcome State Fault Refusal :=
  match s.stepOp e s.nums with
  | none => exec e s
  | some op =>
    match execIn e s (s.viewOf op) with
    | .next t =>
      let t := (s.early.filter (fun q => q.1 = op)).foldl (fun t q =>
        t.modGang q.2.1 (fun x => { x with scratch := scrPut x.scratch (4 * q.2.2) (s.scrRead q.2.1 (4 * q.2.2) 4) })) t
      .next { t with early := t.early.filter (fun q => t.opLives q.1),
                     peeks := t.peeks.filter (fun p => t.opLives p.1), snaps := t.snaps.filter (fun p => t.opLives p.1) }
    | r => r

/-- A unit that an engine's step is to write changes before the step (R152). By then the operation has read all that it reads
(R189, R191), and its step finds that as it was. -/
def State.earlyUnit (s : State) (e : Instr) (nums : List Nat) (g u : Nat) : State :=
  match writesScratch e, s.stepOp e nums, engineStep e { s with nums } with
  | true, some op, .next t =>
    let new := t.scrRead g (4 * u) 4
    if new = s.scrRead g (4 * u) 4 ∨ s.early.contains (op, g, u) then s
    else
      { s.modGang g (fun x => { x with scratch := scrPut x.scratch (4 * u) new }) with
        early := s.early ++ [(op, g, u)],
        snaps := if s.snaps.any (fun e => e.1 = op) then s.snaps
          else s.snaps ++ [(op, (State.viewOf { s with nums } op).getD (State.viewNow { s with nums }))] }
  | _, _, _ => s

/-- A turn is taken. -/
def takeTurn (t : Turn) (s : State) : Host.Outcome State Fault Refusal :=
  match t with
  | .event e nums bytes => if Instr.isEvent e then engineStep e { s with nums, bytes } else .next s
  | .issue port => issueTurn port s
  | .fwStore pa bytes => .next (s.fwStore pa bytes)
  | .fwTlbinv op asid va => .next (s.tlbinv op asid va)
  | .keepCopy c line => .next (s.keepCopy c line)
  | .keepTlb t asid ttbase va => .next (s.keepTlb t asid ttbase va)
  | .dropTlb t place => .next (s.dropTlb t place)
  | .gangArrive w i => .next (s.gangArrive w i)
  | .takeLines w i => .next (s.takeLines w i)
  | .badReg w r => .next (s.modWave w (fun x => { x with badRegs := x.badRegs ++ [(r, BitVec.allOnes 64)] }))
  | .badSector q => .next { s with badSectors := s.badSectors ++ [q] }
  | .badScratch g q => .next { s with badScratch := s.badScratch ++ [(g, q)] }
  | .badAcc c i => .next { s with badAcc := s.badAcc ++ [(c, i)] }
  | .badCheckpoint w => .next (s.modWave w (fun x => { x with badCheckpoint := true }))
  | .early e nums g u => .next (s.earlyUnit e nums g u)
  | .peek e nums g u => .next (s.peekUnit e nums g u)
  | .finish e nums => if Instr.isEvent e then engineStep e { s with nums } else .next s
  | .idle => .next s.tick

/-! ### Turns of the machine's own (log 2) -/

/-- A step of an agent, with its subject. -/
abbrev Move := Instr × List Nat

/-- Steps on a wave's operations. -/
def waveMoves (w : Nat) (x : Wave) : List Move :=
  (List.range x.hops.length).flatMap (fun i =>
      [.clauseHomeOp, .bindHomeOp, .lockHomeOp, .queueHomeOp, .ringHomeOp, .pixlockGrant].map (fun e => (e, [w, i]))) ++
    (List.range x.flight.length).flatMap (fun i =>
      [0, 1, 2, 7].map (fun p => (.memUncorr, [w, p, i])) ++ [0, 2, 7].map (fun p => (.loadReturn, [w, p, i])) ++
        [(.fetchFault, [w, i]), (.fetchComplete, [w, i])]) ++
    (if x.flight.isEmpty then [] else [(.storePerformed, [w]), (.blendExport, [w, 0])]) ++
    (List.range (x.flight.filter (fun a => a.path = 4)).length).flatMap (fun i => (List.range 64).flatMap (fun L =>
      [(.rayQuerySuspend, [w, i, L]), (.rayQueryEnd, [w, i, L]), (.replayLaneEnd, [w, i, L])])) ++
    (List.range 5).flatMap (fun k => [(.regclaimGrant, [w, k]), (.fenceHReturn, [w, k])]) ++
    [.runaheadEnd, .rollback, .preemptEntry, .waveResume, .waveSlotRelease].map (fun e => (e, [w]))

/-- Steps of a cluster's units. -/
def clusterMoves (c : Nat) (x : Cluster) : List Move :=
  (List.range x.copyCmds.length).flatMap (fun i => [(.engineCommandAccept, [c, i]), (.copySlotEnd, [c, i])] ++
      ((x.copyCmds[i]?).elim [] (fun b => b.left.map (fun t => (.cpymcReception, [c, i, t]))))) ++
    (if x.booths.any Booth.used then (List.range 32).map (fun b => (.boothDescriptorRead, [c, b])) else []) ++
    (List.range x.tiles.length).flatMap (fun t => [(.boothDescriptorRead, [c, 32 + t]), (.tileBegin, [c, t]),
      (.tileLayerEnd, [c, t]), (.tileScatter, [c, t])]) ++
    [(.weightSetFill, [c, 0]), (.matrixArbitration, [c, 0]), (.spawnLaunch, [c])]

/-- Steps that agents may take now, in the order in which they are tried. -/
def agentMoves (s : State) : List Move :=
  s.waves.flatMap (fun e => waveMoves e.1 e.2) ++
    s.clusters.flatMap (fun e => clusterMoves e.1 e.2) ++
    s.mx.map (fun e => (.matrixCommandComplete, [e.1, 0])) ++
    s.rasters.flatMap (fun e => [(.primitiveRasterise, [e.1, 0]), (.pixelWaveLaunch, [e.1, 0, 0])]) ++
    (List.range s.nl.length).flatMap (fun k =>
      [.nlCommandArrive, .nlCommandTurn, .nlCommandEnd].map (fun e => (e, [k]))) ++
    s.gangs.flatMap (fun e => (List.range e.2.waves).map (fun i => (.waveStart, [e.1, i]))) ++
    s.tasks.flatMap (fun e => [(.launchRecordRead, [e.1]), (.taskStart, [e.1]), (.gangPlace, [e.1, 0, 0]),
      (.taskRetire, [e.1])]) ++
    (if s.ctxs.isEmpty then [] else [(.launchQueuePop, [])])

/-- Steps that wait for a clk. -/
def timedMoves (s : State) : List Move :=
  s.waves.flatMap (fun e => (List.range 4).map (fun k => (.sleepWake, [e.1, k])) ++ [(.waveStarving, [e.1])]) ++
    s.clusters.flatMap (fun e => if e.2.booths.any Booth.used then
      (List.range 32).map (fun b => (.boothTimerExpire, [e.1, b])) else []) ++
    s.tasks.map (fun e => (.completionRetry, [e.1])) ++ [(.frameDeadline, [])]

/-- The first of some steps that changes the state, no later than a clk. -/
def firstMove (s : State) (late : Nat) : List Move → Option State
  | [] => none
  | m :: r =>
    match engineStep m.1 { s with nums := m.2 } with
    | .next t => if t = { s with nums := m.2 } ∨ late < t.clk then firstMove s late r else some t
    | _ => firstMove s late r

/-- The port that issues first, the lowest among equals. -/
def firstPort (s : State) : Option Nat :=
  let ps := s.waves.filterMap (fun e => (s.pick e.2.port).map (fun r => (r.2.2, e.2.port)))
  (ps.foldl (fun (b : Option (Nat × Nat)) p => match b with
    | none => some p
    | some q => if p.1 < q.1 ∨ (p.1 = q.1 ∧ p.2 < q.2) then some p else b) none).map Prod.snd

/-- Of some steps that change the state, the one that comes soonest. -/
def soonest (s : State) (ms : List Move) : Option State :=
  ms.foldl (fun b m =>
    match engineStep m.1 { s with nums := m.2 } with
    | .next t =>
      if t = { s with nums := m.2 } then b
      else (match b with
        | none => some t
        | some u => if t.clk < u.clk then some t else b)
    | _ => b) none

/-- The machine moves of its own: it boots; then agents and ports take turns, and where neither can move, time does. -/
def ownTurn (s : State) : Host.Outcome State Fault Refusal :=
  let s := { s with alt := !s.alt }
  if s.boot = .rom then exec .moduleReset s
  else
    let agents := match s.arrivable with
      | some (w, i) => some (s.gangArrive w i)
      | none => match s.takable with
        | some (w, i) => some (s.takeLines w i)
        | none => firstMove s s.clk (agentMoves s ++ timedMoves s)
    match s.alt, agents, firstPort s with
    | true, some t, _ => .next t
    | _, _, some port => issueTurn port s
    | _, some t, none => .next t
    | _, none, none =>
      match soonest s (timedMoves s) with
      | some t => .next t
      | none => .next s.tick

/-- The oldest turn given, or one of the machine's own. -/
def runStep (s : State) : Host.Outcome State Fault Refusal :=
  match s.turns with
  | [] => ownTurn s.fresh
  | t :: r => takeTurn t { s.fresh with turns := r }

end Sys2Proof.Machine
end

