-- ==== Sys2Proof/Safety.lean ====
section
/-! DEFINITION. The words that claims are written in: an answer, a context in which nothing stops an instruction, what an
instruction of registers leaves alone, and the sound form of a state. -/

namespace Sys2Proof.Machine

/-- Executing `i` answers a next state, and `P` holds of it. -/
def Answers (i : Instr) (s : State) (P : State → Prop) : Prop := ∃ t, exec i s = .next t ∧ P t

/-- Executing `i` makes the context `f` take a trap: the wave enters its handler with this cause and TRAPARG. -/
def Traps (i : Instr) (s : State) (f : Focus) (cause : Nat) (pc arg : Dword) : Prop :=
  exec i s = .next ((s.issued f).raiseTrap f.wave f.split { cause, pc, arg })

/-! ### A context in which nothing stops an instruction -/

/-- `f` issues, and none of what can stop any instruction before it executes is there, but for its guard (R49, R132,
R248, R299, R301): no run-ahead, no STALLSHORT check, no register or operation with an uncorrectable error, and no neural
call whose token or registers are not free. -/
def State.calm (s : State) (f : Focus) : Bool :=
  let x := s.wave f.wave
  decide (s.focus = some f) && decide (f.split < x.splits.length) && x.ra.isNone && !(x.csr.wavectl.getLsbD 0) &&
    x.badRegs.isEmpty && x.uncs.isEmpty && x.k.isEmpty

/-- The same of a context whose registers read are checked (R43): WAVECTL.SCHK is 1. -/
def State.checked (s : State) (f : Focus) : Bool :=
  let x := s.wave f.wave
  decide (s.focus = some f) && decide (f.split < x.splits.length) && x.ra.isNone && x.csr.wavectl.getLsbD 0 &&
    x.badRegs.isEmpty && x.uncs.isEmpty && x.k.isEmpty

/-- Exactly `n` clk remain until the fixed-latency results of a register are readable (R41, R43). -/
def State.remains (s : State) (w : Nat) (r : Reg) (n : Nat) : Prop :=
  (∃ p ∈ (s.wave w).board, p.reg = r ∧ p.ready = s.clk + n) ∧ ∀ p ∈ (s.wave w).board, p.reg = r → p.ready ≤ s.clk + n

/-- Every fixed-latency result of a register is readable. -/
def State.readable (s : State) (w : Nat) (r : Reg) : Prop := ∀ p ∈ (s.wave w).board, p.reg = r → p.ready ≤ s.clk

/-- And its guard is sound (R38). -/
def State.quiet (s : State) (f : Focus) : Bool := s.calm f && !(guardBad (s.readMode f.wave))

/-- The context may execute privileged instructions (R279). -/
def State.mayPriv (s : State) (f : Focus) : Bool := (s.wave f.wave).csr.handler || (s.wave f.wave).csr.priv

/-! ### Registers as they stand -/

/-- The value last written to scalar register `n`. -/
def State.sReg (s : State) (w n : Nat) : Word := mapGet 0 (s.wave w).s n

/-- The value last written to lane `L` of vector register `n`. -/
def State.vReg (s : State) (w n L : Nat) : Word := mapGet 0 (s.wave w).v (64 * n + L)

/-- The value last written to predicate register `n`. -/
def State.pReg (s : State) (w n : Nat) : Mask := mapGet 0 (s.wave w).p n

/-- From clk `c` on, scalar register `n` of the wave reads `v`. -/
def State.readsS (s : State) (w n c : Nat) (v : Word) : Prop := ∀ k, c ≤ k → ({ s with clk := k }).readS w n = v

/-- From clk `c` on, lane `L` of vector register `n` of the wave reads `v`. -/
def State.readsV (s : State) (w n L c : Nat) (v : Word) : Prop := ∀ k, c ≤ k → ({ s with clk := k }).readV w n L = v

/-- From clk `c` on, predicate register `n` of the wave reads `v`. -/
def State.readsP (s : State) (w n c : Nat) (v : Mask) : Prop := ∀ k, c ≤ k → ({ s with clk := k }).readP w n = v

/-- From clk `c` on, MODE of the wave reads `v`. -/
def State.readsMode (s : State) (w c : Nat) (v : Word) : Prop := ∀ k, c ≤ k → ({ s with clk := k }).readMode w = v

/-! ### What an instruction of registers leaves alone -/

/-- An operation on its way, but for the lanes that later instructions have written since. -/
def Flight.bare (a : Flight) : Flight := { a with killed := [], raKilled := [] }

/-- From `s` to `t` only the issuing wave's register files, MODE, FPSTAT, scoreboard and issue record, the issuing split's
PC and EXEC, and the port's record change: every byte of memory and every other wave, split, CSR, counter, membership
and agent is as before. -/
structure OnlyRegs (s t : State) (f : Focus) : Prop where
  rest : t = { s with waves := t.waves, ports := t.ports, lastIssue := t.lastIssue }
  waves : ∀ w, w ≠ f.wave → t.wave w = s.wave w
  wave : t.wave f.wave = { s.wave f.wave with
    v := (t.wave f.wave).v, s := (t.wave f.wave).s, p := (t.wave f.wave).p, mode := (t.wave f.wave).mode,
    csr := { (s.wave f.wave).csr with fpstat := (t.wave f.wave).csr.fpstat }, board := (t.wave f.wave).board,
    splits := (t.wave f.wave).splits, flight := (t.wave f.wave).flight, readySince := (t.wave f.wave).readySince,
    starving := (t.wave f.wave).starving }
  flight : (t.wave f.wave).flight.map Flight.bare = (s.wave f.wave).flight.map Flight.bare
  splits : ∀ k, k ≠ f.split → (t.wave f.wave).split k = (s.wave f.wave).split k
  split : (t.wave f.wave).split f.split = { (s.wave f.wave).split f.split with
    pc := f.next, exec := ((t.wave f.wave).split f.split).exec, next := ((t.wave f.wave).split f.split).next, wait := .none }

/-- From `s` to `t` only split records in `ks` of the issuing wave change, with its scoreboard and issue record, and the
port's record: every register, byte of memory, other wave and agent is as before. -/
structure OnlySplits (s t : State) (f : Focus) (ks : List Nat) : Prop where
  rest : t = { s with waves := t.waves, ports := t.ports, lastIssue := t.lastIssue }
  waves : ∀ w, w ≠ f.wave → t.wave w = s.wave w
  wave : t.wave f.wave = { s.wave f.wave with
    splits := (t.wave f.wave).splits, board := (t.wave f.wave).board, readySince := (t.wave f.wave).readySince,
    starving := (t.wave f.wave).starving }
  splits : ∀ k, k ∉ ks → (t.wave f.wave).split k = (s.wave f.wave).split k

/-- The instruction goes to `pc` and does nothing else. -/
def Goes (s t : State) (f : Focus) (pc : Dword) : Prop :=
  OnlySplits s t f [f.split] ∧ (t.wave f.wave).board = (s.wave f.wave).board ∧
  (t.wave f.wave).split f.split = { (s.wave f.wave).split f.split with
    pc, next := ((t.wave f.wave).split f.split).next, wait := .none }

/-- The instruction puts the operation `a` on its path and does nothing else (R130): its counter rises by 1, the operation
is the youngest of the wave, and the split goes on. -/
structure PutFlight (s t : State) (f : Focus) (a : Flight) : Prop where
  rest : t = { s with waves := t.waves, ports := t.ports, lastIssue := t.lastIssue }
  waves : ∀ w, w ≠ f.wave → t.wave w = s.wave w
  wave : t.wave f.wave = { s.wave f.wave with
    counters := (t.wave f.wave).counters, splits := (t.wave f.wave).splits, seq := (s.wave f.wave).seq + 1,
    flight := (s.wave f.wave).flight ++ [{ a with seq := (s.wave f.wave).seq, after := (s.wave f.wave).fenceSeq }],
    readySince := (t.wave f.wave).readySince, starving := (t.wave f.wave).starving }
  counters : ∀ p, (t.wave f.wave).counter p = (s.wave f.wave).counter p + (if p = a.path then 1 else 0)
  splits : ∀ k, k ≠ f.split → (t.wave f.wave).split k = (s.wave f.wave).split k
  split : (t.wave f.wave).split f.split = { (s.wave f.wave).split f.split with
    pc := f.next, next := ((t.wave f.wave).split f.split).next, wait := .none }

/-- The instruction sends the operation `h` to its home and does nothing else (R155): the operation is the youngest of the
wave; a split that it holds waits for the answer at its own instruction, and another goes on. -/
structure PutHop (s t : State) (f : Focus) (h : HomeOp) : Prop where
  rest : t = { s with waves := t.waves, ports := t.ports, lastIssue := t.lastIssue }
  waves : ∀ w, w ≠ f.wave → t.wave w = s.wave w
  wave : t.wave f.wave = { s.wave f.wave with
    splits := (t.wave f.wave).splits, seq := (s.wave f.wave).seq + 1,
    hops := (s.wave f.wave).hops ++ [{ h with seq := (s.wave f.wave).seq }],
    readySince := (t.wave f.wave).readySince, starving := (t.wave f.wave).starving }
  splits : ∀ k, k ≠ f.split → (t.wave f.wave).split k = (s.wave f.wave).split k
  split : (t.wave f.wave).split f.split = { (s.wave f.wave).split f.split with
    pc := if h.holding then ((s.wave f.wave).split f.split).pc else f.next,
    next := ((t.wave f.wave).split f.split).next, wait := if h.holding then .home else .none }

/-- The instruction hands the copy engine of its cluster the command `c` and does nothing else (R186): the command is the
engine's last, and CPY rises with it where it is counted. -/
structure PutCopy (s t : State) (f : Focus) (c : CopyCmd) : Prop where
  rest : t = { s with waves := t.waves, clusters := t.clusters, ports := t.ports, lastIssue := t.lastIssue }
  waves : ∀ w, w ≠ f.wave → t.wave w = s.wave w
  wave : t.wave f.wave = { s.wave f.wave with
    splits := (t.wave f.wave).splits, seq := (s.wave f.wave).seq + 1, counters := (t.wave f.wave).counters,
    cpys := (s.wave f.wave).cpys ++ (if c.counted = true then [((s.wave f.wave).seq, false)] else []),
    readySince := (t.wave f.wave).readySince, starving := (t.wave f.wave).starving }
  counters : ∀ p, (t.wave f.wave).counter p = (s.wave f.wave).counter p + (if p = 6 ∧ c.counted = true then 1 else 0)
  clusters : ∀ k, t.cluster k = if k = (s.wave f.wave).cluster then
    { s.cluster k with copyCmds := (s.cluster k).copyCmds ++ [c] } else s.cluster k
  pc : ((t.wave f.wave).split f.split).pc = f.next

/-- The instruction hands the matrix engine a command with these operands and does nothing else (R206): it is accepted as
the gang's last, and MX rises. -/
structure PutMx (s t : State) (f : Focus) (op : Instr) (vals : List Nat) : Prop where
  rest : t = { s with waves := t.waves, mx := t.mx, ports := t.ports, lastIssue := t.lastIssue }
  waves : ∀ w, w ≠ f.wave → t.wave w = s.wave w
  wave : t.wave f.wave = { s.wave f.wave with
    splits := (t.wave f.wave).splits, seq := (s.wave f.wave).seq + 1, counters := (t.wave f.wave).counters,
    readySince := (t.wave f.wave).readySince, starving := (t.wave f.wave).starving }
  counters : ∀ p, (t.wave f.wave).counter p = (s.wave f.wave).counter p + (if p = 5 then 1 else 0)
  others : ∀ g, g ≠ (s.wave f.wave).gang → t.gangMx g = s.gangMx g
  gang : let m := s.gangMx (s.wave f.wave).gang
    t.gangMx (s.wave f.wave).gang = { m with
      accepted := m.accepted + 1,
      cmds := m.cmds ++ [{ wave := f.wave, seq := (s.wave f.wave).seq, op, vals, accbase := (s.accWindow f.wave).1,
                           prio := (s.wave f.wave).csr.prio, granted := false, order := m.accepted }] }
  pc : ((t.wave f.wave).split f.split).pc = f.next

/-- The wave of `f` has entered its handler (R280): the trap registers hold the trap, s88 to s95 and MODE are saved, MODE is
0, the handler's context starts at TRAPVEC with all 64 lanes, and the raising split's PC is TRAPPC. The wave's registers
and memory, and every other wave, are as before. -/
structure Entered (s t : State) (f : Focus) (cause : Nat) (pc arg : Dword) : Prop where
  rest : t = { s with waves := t.waves, nl := t.nl, ports := t.ports, lastIssue := t.lastIssue }
  waves : ∀ w, w ≠ f.wave → t.wave w = s.wave w
  regs : (t.wave f.wave).v = (s.wave f.wave).v ∧ (t.wave f.wave).s = (s.wave f.wave).s ∧
    (t.wave f.wave).p = (s.wave f.wave).p ∧ (t.wave f.wave).h = (s.wave f.wave).h
  csr : (t.wave f.wave).csr = { (s.wave f.wave).csr with
    trapcause := cause, trappc := pc, traparg := arg, trapsplit := f.split, handler := true,
    tsave := (t.wave f.wave).csr.tsave, tsavemode := (s.wave f.wave).mode }
  saved : ∀ i, i < 8 → (t.wave f.wave).csr.tsave[i]? = some (s.sReg f.wave (88 + i))
  mode : (t.wave f.wave).mode = 0
  context : ((t.wave f.wave).split 4).pc = (s.wave f.wave).csr.trapvec ∧
    ((t.wave f.wave).split 4).exec = BitVec.allOnes 64 ∧ ((t.wave f.wave).split 4).state = 1
  split : ((t.wave f.wave).split f.split).pc = pc ∧
    ((t.wave f.wave).split f.split).exec = ((s.wave f.wave).split f.split).exec ∧
    ((t.wave f.wave).split f.split).own = ((s.wave f.wave).split f.split).own

/-- The wave has died (R283): no split is left, and its task remembers it. -/
def Dead (t : State) (w : Nat) : Prop :=
  (t.wave w).died = true ∧ (∀ k, ((t.wave w).split k).state = 0) ∧ (t.task (t.gang (t.wave w).gang).task).anyDied = true

/-- Nothing keeps the bytes at `pa` from being read and written now by wave `w` (R142, R150, R301). -/
structure Plain (s : State) (w : Nat) : Prop where
  flight : (s.wave w).flight = []
  hops : (s.wave w).hops = []
  bad : s.badSectors = []
  copies : (s.cluster (s.wave w).cluster).copies = []
  free : ∀ line, s.lineOwned line = false

/-- The vector registers are as before. -/
def SameV (s t : State) (w : Nat) : Prop := ∀ n L, t.vReg w n L = s.vReg w n L

/-- The scalar registers but those of a list are as before. -/
def SameS (s t : State) (w : Nat) (but : List Nat) : Prop := ∀ n, n ∉ but → t.sReg w n = s.sReg w n

/-- The predicate registers but those of a list are as before. -/
def SameP (s t : State) (w : Nat) (but : List Nat) : Prop := ∀ n, n ∉ but → t.pReg w n = s.pReg w n

/-- EXEC of the issuing split is as before. -/
def SameExec (s t : State) (f : Focus) : Prop :=
  ((t.wave f.wave).split f.split).exec = ((s.wave f.wave).split f.split).exec

/-- MODE and FPSTAT are as before. -/
def SameMode (s t : State) (w : Nat) : Prop :=
  (t.wave w).mode = (s.wave w).mode ∧ (t.wave w).csr.fpstat = (s.wave w).csr.fpstat

/-! ### What a destination receives -/

/-- A 32-bit scalar destination received `x` and nothing else of the register files changed (R31, R41, R87): a scalar
register, which reads it from the next clk; a half of EXEC, of which ARM's lanes are kept; MODE; and nothing for
NULL. -/
structure PutScalar (s t : State) (f : Focus) (d : Code) (x : Word) : Prop where
  only : OnlyRegs s t f
  sameV : SameV s t f.wave
  sameS : SameS s t f.wave [d.toNat]
  sameP : SameP s t f.wave []
  reg : d.toNat < 96 → t.readsS f.wave d.toNat (s.clk + 1) x
  exec : ((t.wave f.wave).split f.split).exec =
    let old := ((s.wave f.wave).split f.split).exec
    if d = 96 then Dword.ofWords x (Dword.hi old) &&& s.arm f.wave f.split
    else if d = 97 then Dword.ofWords (Dword.lo old) x &&& s.arm f.wave f.split
    else old
  mode : (t.wave f.wave).mode = if d = 98 then x else (s.wave f.wave).mode
  readsMode : d = 98 → t.readsMode f.wave (s.clk + 1) x
  flags : (t.wave f.wave).csr.fpstat = (s.wave f.wave).csr.fpstat

/-- A 64-bit destination received `x` as a unit (R33, R83). -/
structure PutPair (s t : State) (f : Focus) (d : Code) (x : Dword) : Prop where
  only : OnlyRegs s t f
  sameV : SameV s t f.wave
  sameS : SameS s t f.wave [d.toNat, d.toNat + 1]
  sameP : SameP s t f.wave []
  low : d.toNat < 95 → t.readsS f.wave d.toNat (s.clk + 1) (Dword.lo x)
  high : d.toNat < 95 → t.readsS f.wave (d.toNat + 1) (s.clk + 1) (Dword.hi x)
  exec : ((t.wave f.wave).split f.split).exec =
    if d = 96 then x &&& s.arm f.wave f.split else ((s.wave f.wave).split f.split).exec
  mode : SameMode s t f.wave

/-- A predicate destination received `x` (R35): p0 to p7, EXEC, or a scalar pair. -/
structure PutPred (s t : State) (f : Focus) (d : Code) (x : Mask) : Prop where
  only : OnlyRegs s t f
  sameV : SameV s t f.wave
  sameS : SameS s t f.wave (if 64 ≤ d.toNat then [d.toNat - 64, d.toNat - 63] else [])
  sameP : SameP s t f.wave (if d.toNat < 8 then [d.toNat] else [])
  pred : d.toNat < 8 → t.readsP f.wave d.toNat (s.clk + 1) x
  low : 64 ≤ d.toNat → t.readsS f.wave (d.toNat - 64) (s.clk + 1) (Dword.lo x)
  high : 64 ≤ d.toNat → t.readsS f.wave (d.toNat - 63) (s.clk + 1) (Dword.hi x)
  exec : ((t.wave f.wave).split f.split).exec =
    if d = 8 then x &&& s.arm f.wave f.split else ((s.wave f.wave).split f.split).exec
  mode : SameMode s t f.wave

/-- `n` vector registers from `d` received `g L` in the lanes `m`, the first register lowest, to be read `lat` clk later,
and flags `fl` were raised (R41, R68, R105). -/
structure PutVector (s t : State) (f : Focus) (lat n : Nat) (d : Code) (m : Mask) (g : Nat → Nat) (fl : Nat) : Prop where
  only : OnlyRegs s t f
  lanes : ∀ i L, i < n → L < 64 → m.getLsbD L = true →
    t.readsV f.wave (d.toNat + i) L (s.clk + lat) (BitVec.ofNat 32 (g L / 2 ^ (32 * i)))
  sameV : ∀ r L, L < 64 → (r < d.toNat ∨ d.toNat + n ≤ r ∨ m.getLsbD L = false) → t.vReg f.wave r L = s.vReg f.wave r L
  sameS : SameS s t f.wave []
  sameP : SameP s t f.wave []
  exec : SameExec s t f
  mode : (t.wave f.wave).mode = (s.wave f.wave).mode
  flags : (t.wave f.wave).csr.fpstat = (s.wave f.wave).csr.fpstat ||| BitVec.ofNat 32 fl

/-- The bits `m` of a compare's destination received those of `x`, to be read 3 clk later, and flags were raised
(R35, R87, R113). -/
structure PutCompare (s t : State) (f : Focus) (d : Code) (m x : Mask) (fl : Nat) : Prop where
  only : OnlyRegs s t f
  sameV : SameV s t f.wave
  sameS : SameS s t f.wave []
  sameP : SameP s t f.wave (if d.toNat < 8 then [d.toNat] else [])
  pred : d.toNat < 8 → t.pReg f.wave d.toNat = (s.pReg f.wave d.toNat &&& ~~~ m) ||| (x &&& m)
  exec : ((t.wave f.wave).split f.split).exec =
    let old := ((s.wave f.wave).split f.split).exec
    if d = 8 then (old &&& ~~~ m) ||| (x &&& m &&& s.arm f.wave f.split) else old
  mode : (t.wave f.wave).mode = (s.wave f.wave).mode
  flags : (t.wave f.wave).csr.fpstat = (s.wave f.wave).csr.fpstat ||| BitVec.ofNat 32 fl

/-- A vector instruction whose enabled flags are none completes (R68, R69, R105): `n` registers from `d` receive the
results `g` in the lanes `m`, readable `lat` clk later, and FPSTAT the flags those lanes raised. -/
def VectorResult (i : Instr) (s : State) (f : Focus) (lat n : Nat) (d : Code) (m : Mask) (g : Nat → LaneRes) : Prop :=
  Answers i s (fun t => PutVector s t f lat n d m (fun L => (g L).1)
    (unionFlags ((Mask.lanes m).map (fun L => (L, (g L).2)))))

/-- A compare completes (R113): the bits of ACTIVE of its destination receive the tests `g` of their lanes. -/
def CompareResult (i : Instr) (s : State) (f : Focus) (d : Code) (g : Nat → Bool) (fl : Nat → Nat) : Prop :=
  let m := s.active f.wave f.split
  ∀ v : Mask, (∀ L, L < 64 → v.getLsbD L = g L) → Answers i s (fun t =>
    PutCompare s t f d m v (unionFlags ((Mask.lanes m).map (fun L => (L, fl L)))))

/-! ### Operations of memory -/

/-- The parts of an access of `n` bytes, each single-copy atomic (R129): offset and bytes. -/
def accessParts (n : Nat) : List (Nat × Nat) := if n ≤ 8 then [(0, n)] else (List.range (n / 8)).map (fun i => (8 * i, 8))

/-- What an elementary access of a load is: lane, place, bytes, register. -/
def Acc.loads (c : Acc) : Nat × Nat × Nat × Nat := (c.lane, c.pa, c.size, c.reg)

/-- What an elementary access of a store is: lane, place, and the bytes stored. -/
def Acc.stores (c : Acc) : Nat × Nat × List Byte := (c.lane, c.pa, c.data)

/-- Nothing but the operation itself decides when its accesses are performed: it is the wave's only one, no fence or engine
holds it back, no later instruction has written its registers, no value of it is on its way already, and no sector is
uncorrectable (R142, R147, R150). -/
structure Alone (s : State) (w : Nat) (a : Flight) : Prop where
  flight : (s.wave w).flight = [a]
  hops : (s.wave w).hops = []
  ahead : (s.wave w).ra = none
  killed : a.killed = [] ∧ a.raKilled = []
  left : a.lanesLeft = 0
  fixed : ∀ c ∈ a.accs, c.fixed = false
  bad : s.badSectors = [] ∧ s.badScratch = []
  free : a.scratch = false → ∀ c ∈ a.accs, s.lineOwned (c.pa / 128) = false
  copies : (s.cluster (s.wave w).cluster).copies = []
  nodup : a.accs.Nodup

/-- The operation is complete (R130): it is gone from its path, whose counter has fallen; nothing else of the wave but its
registers, and no other wave, is changed. -/
structure Completed (s t : State) (w : Nat) (a : Flight) : Prop where
  waves : ∀ v, v ≠ w → t.wave v = s.wave v
  wave : t.wave w = { s.wave w with
    v := (t.wave w).v, s := (t.wave w).s, board := (t.wave w).board, counters := (t.wave w).counters,
    badRegs := (t.wave w).badRegs, flight := [] }
  marks : ∀ e ∈ (t.wave w).badRegs, ∃ m, (e.1, m) ∈ (s.wave w).badRegs
  counters : ∀ p, (t.wave w).counter p = (s.wave w).counter p - (if p = a.path then 1 else 0)

/-- The operation `h` of wave `w` is the only one on its way to a home, and nothing at the home keeps it from acting (R155,
R145, R150). -/
structure AtHome (s : State) (w : Nat) (h : HomeOp) : Prop where
  nums : s.nums = [w, 0]
  hops : (s.wave w).hops = [h]
  others : ∀ v, v ≠ w → (s.wave v).hops = []
  flight : (s.wave w).flight = []
  ahead : (s.wave w).ra = none
  life : (s.wave w).life ≠ .none
  arrived : h.arrived = none
  splits : (s.wave w).splits.length = 5 ∧ h.split < 5
  copies : (s.cluster (s.wave w).cluster).copies = []
  free : s.lineOwned (h.pa / 128) = false

/-- The operation `h` has been answered (R155): it is gone, and its split goes on at the next instruction. Every other
wave, and every other split of this one, is as before. -/
structure Answered (s t : State) (w : Nat) (h : HomeOp) : Prop where
  waves : ∀ v, v ≠ w → t.wave v = s.wave v
  hops : (t.wave w).hops = []
  splits : ∀ k, k ≠ h.split → (t.wave w).split k = (s.wave w).split k
  split : (t.wave w).split h.split = { (s.wave w).split h.split with
    exec := ((t.wave w).split h.split).exec, pc := BitVec.ofNat 64 (h.vals.getD 0 0), wait := .none,
    next := s.nextAfter w h.split (h.vals.getD 1 1) }
  csr : (t.wave w).csr = (s.wave w).csr
  regs : (t.wave w).v = (s.wave w).v

/-- The operation `a` of a unit is the only one of wave `w`, and `lane` is one of the lanes it has still to do. -/
structure UnitWork (s : State) (w lane : Nat) (a : Flight) : Prop where
  flight : (s.wave w).flight = [a]
  hops : (s.wave w).hops = []
  ahead : (s.wave w).ra = none
  killed : a.killed = [] ∧ a.raKilled = []
  accs : a.accs = []
  after : a.after ≤ a.seq
  lane : lane < 64 ∧ a.lanesLeft.getLsbD lane = true
  copies : ∀ line, s.copyOwned line = false

/-- The unit has done `lane`: with the last lane the operation is complete and its counter falls. Nothing else of the wave
but its vector registers is changed, and no other wave is. -/
structure LaneDone (s t : State) (w lane : Nat) (a : Flight) : Prop where
  waves : ∀ v, v ≠ w → t.wave v = s.wave v
  wave : t.wave w = { s.wave w with
    v := (t.wave w).v, board := (t.wave w).board, badRegs := (t.wave w).badRegs, counters := (t.wave w).counters,
    flight := (t.wave w).flight }
  marks : ∀ e ∈ (t.wave w).badRegs, ∃ m, (e.1, m) ∈ (s.wave w).badRegs
  flight : (t.wave w).flight = if a.lanesLeft &&& ~~~ (Mask.one lane) = 0 then []
    else [{ a with lanesLeft := a.lanesLeft &&& ~~~ (Mask.one lane) }]
  counters : ∀ p, (t.wave w).counter p = (s.wave w).counter p -
    (if p = a.path ∧ a.lanesLeft &&& ~~~ (Mask.one lane) = 0 then 1 else 0)

/-- Lane `lane` of the vector registers from `d` on received these words, and no other register element changed. -/
def LaneWords (s t : State) (w lane d : Nat) (ws : List Word) : Prop :=
  (∀ i x, ws[i]? = some x → t.vReg w (d + i) lane = x) ∧
  ∀ r L, L < 64 → (L ≠ lane ∨ r < d ∨ d + ws.length ≤ r) → t.vReg w r L = s.vReg w r L

/-- The instruction gives a neighbour-list engine the command `c` and does nothing else (R359): it is the last of all;
CPY rises with it where it is counted; and its split waits for sd where it has one. -/
structure PutNl (s t : State) (f : Focus) (c : NlCmd) (waits : Bool) : Prop where
  rest : t = { s with waves := t.waves, nl := s.nl ++ [c], ports := t.ports, lastIssue := t.lastIssue }
  waves : ∀ w, w ≠ f.wave → t.wave w = s.wave w
  wave : t.wave f.wave = { s.wave f.wave with
    splits := (t.wave f.wave).splits, seq := (s.wave f.wave).seq + 1, counters := (t.wave f.wave).counters,
    cpys := (s.wave f.wave).cpys ++ (if nlCounted c = true then [((s.wave f.wave).seq, false)] else []),
    readySince := (t.wave f.wave).readySince, starving := (t.wave f.wave).starving }
  counters : ∀ p, (t.wave f.wave).counter p = (s.wave f.wave).counter p + (if p = 6 ∧ nlCounted c = true then 1 else 0)
  split : ((t.wave f.wave).split f.split).pc = (if waits then ((s.wave f.wave).split f.split).pc else f.next) ∧
    ((t.wave f.wave).split f.split).wait = (if waits then .home else .none)

/-- The command `c` is the only one of the neighbour-list engines, and nothing else keeps it from its grid. -/
structure OnlyNl (s : State) (c : NlCmd) : Prop where
  nums : s.nums = [0]
  nl : s.nl = [c]
  flight : (s.wave c.wave).flight = []
  free : ∀ ps, s.areasOwned c ps = false
  bad : s.badSectors = []

/-- A command has written `x` to its sd, and its split goes on (R359). -/
structure NlAnswered (s t : State) (c : NlCmd) (d : Code) (x : Word) : Prop where
  waves : ∀ v, v ≠ c.wave → t.wave v = s.wave v
  sd : t.readsS c.wave d.toNat (s.clk + 1) x
  split : ((t.wave c.wave).split c.split).pc = BitVec.ofNat 64 (c.vals.getD 0 0) ∧
    ((t.wave c.wave).split c.split).wait = .none
  regs : (t.wave c.wave).v = (s.wave c.wave).v ∧ (t.wave c.wave).csr = (s.wave c.wave).csr

/-! ### Floating-point values

A format has `ew` exponent bits and `fw` fraction bits (R61). Its values are counted in units of its smallest denormal, which are
whole numbers; an exact result that is finer than that is counted in parts of it, `c` to the unit. -/

/-- The exponent and the fraction field of an image, and its sign bit. -/
def imgExp (ew fw x : Nat) : Nat := x / 2 ^ fw % 2 ^ ew
def imgFrac (fw x : Nat) : Nat := x % 2 ^ fw
def imgSign (ew fw x : Nat) : Nat := x / 2 ^ (ew + fw) % 2

/-- The value of a finite image in units of the smallest denormal (R61). -/
def imgUnits (ew fw x : Nat) : Int :=
  let m : Nat := if imgExp ew fw x = 0 then imgFrac fw x else (2 ^ fw + imgFrac fw x) * 2 ^ (imgExp ew fw x - 1)
  if imgSign ew fw x = 1 then -(m : Int) else m

/-- An image of a finite value, of a format whose top exponent holds the infinities and the NaNs. -/
abbrev imgFinite (ew fw x : Nat) : Prop := x < 2 ^ (1 + ew + fw) ∧ imgExp ew fw x ≠ 2 ^ ew - 1

/-- An image of a NaN, and of a signalling one (R61). -/
abbrev imgNan (ew fw x : Nat) : Prop := imgExp ew fw x = 2 ^ ew - 1 ∧ imgFrac fw x ≠ 0
abbrev imgSignalling (ew fw x : Nat) : Prop := imgNan ew fw x ∧ imgFrac fw x < 2 ^ (fw - 1)

/-- An image of a denormal other than zero. -/
abbrev imgDenormal (ew fw x : Nat) : Prop := imgExp ew fw x = 0 ∧ imgFrac fw x ≠ 0

/-- The units of the smallest denormal are 2^-`unitExp` (R61). -/
def unitExp (ew fw : Nat) : Nat := 2 ^ (ew - 1) + fw - 2

/-- A magnitude with a sign; 1 is negative. -/
def signed (ew fw sign x : Nat) : Nat := sign * 2 ^ (ew + fw) + x

/-- The images of +∞, of the largest finite value, and of the canonical NaN (R61). -/
def infOf (ew fw : Nat) : Nat := (2 ^ ew - 1) * 2 ^ fw
def topOf (ew fw : Nat) : Nat := infOf ew fw - 1
def nanOf (ew fw : Nat) : Nat := infOf ew fw + 2 ^ (fw - 1)

/-- The order of VMIN and VMAX among images that are no NaN: that of the values, −0 before +0 (R109). -/
def imgKey (ew fw x : Nat) : Int :=
  if imgSign ew fw x = 1 then -((x % 2 ^ (ew + fw) : Nat) : Int) - 1 else ((x % 2 ^ (ew + fw) : Nat) : Int)

/-- The nonzero exact value `X`, `c` of which make a unit, rounds to the finite image `r` in the mode `rm` (R63): to the nearest one, a
tie to the even image; to the nearest one that is no greater in magnitude; to the least that is not below it; or to the greatest
that is not above it. A result that is zero keeps the sign. -/
structure RoundsTo (ew fw rm c : Nat) (X : Int) (r : Nat) : Prop where
  finite : imgFinite ew fw r
  sign : imgSign ew fw r = if X < 0 then 1 else 0
  nearest : rm = 0 → ∀ y, imgFinite ew fw y →
    let V := fun x => imgUnits ew fw x * c
    (X - V r).natAbs ≤ (X - V y).natAbs ∧ ((X - V r).natAbs = (X - V y).natAbs → V y = V r ∨ r % 2 = 0)
  toZero : rm = 1 → (imgUnits ew fw r * c).natAbs ≤ X.natAbs ∧
    ∀ y, imgFinite ew fw y → (imgUnits ew fw y * c).natAbs ≤ X.natAbs →
      (imgUnits ew fw y).natAbs ≤ (imgUnits ew fw r).natAbs
  up : rm = 2 → X ≤ imgUnits ew fw r * c ∧
    ∀ y, imgFinite ew fw y → X ≤ imgUnits ew fw y * c → imgUnits ew fw r ≤ imgUnits ew fw y
  down : rm = 3 → imgUnits ew fw r * c ≤ X ∧
    ∀ y, imgFinite ew fw y → imgUnits ew fw y * c ≤ X → imgUnits ew fw y ≤ imgUnits ew fw r

/-- The value `X`, rounded with an exponent range without end, is above the largest finite magnitude (R64). -/
abbrev Overflows (ew fw rm c : Nat) (X : Int) : Prop :=
  let ulp := 2 ^ (2 ^ ew - 3) * c
  let top := (2 ^ (fw + 1) - 1) * ulp
  top + ulp ≤ X.natAbs ∨ (rm = 0 ∧ 2 * top + ulp ≤ 2 * X.natAbs) ∨ (rm = 2 ∧ (top : Int) < X) ∨ (rm = 3 ∧ X < -(top : Int))

/-- What a nonzero exact value `X` gives, with FTZ = 0: its rounding, NX where that is inexact and UF beside it where the rounded
magnitude is below the smallest normal; or an overflow's replacement with OF and NX (R63, R64, R68). (Of an inexact value just
below the smallest normal, UF depends on the mode and is not said here.) -/
structure RoundsWith (ew fw rm : Nat) (sat : Bool) (c : Nat) (X : Int) (r : Nat × Nat) : Prop where
  overflow : Overflows ew fw rm c X →
    r = (signed ew fw (if X < 0 then 1 else 0) (if sat = true ∨ rm = 1 ∨ (rm = 2 ∧ X < 0) ∨ (rm = 3 ∧ 0 < X) then topOf ew fw
      else infOf ew fw), 4 + 16)
  value : ¬ Overflows ew fw rm c X → RoundsTo ew fw rm c X r.1
  exact : ¬ Overflows ew fw rm c X → imgUnits ew fw r.1 * c = X → r.2 = 0
  inexact : ¬ Overflows ew fw rm c X → imgUnits ew fw r.1 * c ≠ X →
    (2 ^ fw * c ≤ X.natAbs → r.2 = 16) ∧
    (X.natAbs * 2 ^ (fw + 1) ≤ (2 ^ (fw + 1) - 1) * 2 ^ fw * c → r.2 = 16 + 8)

/-! ### The sound form of a state -/

/-- The tables of a state have the sizes that the hardware gives them: a wave has four split records and its handler's
context, and eight TSAVE words; and its TLBs are listed in rising order. -/
structure State.TablesWf (s : State) : Prop where
  splits : ∀ w, (s.wave w).splits.length = 0 ∨ (s.wave w).splits.length = 5
  saved : ∀ w, (s.wave w).csr.tsave.length = 8
  checkpoint : ∀ w r, (s.wave w).ra = some r → r.cp.splits.length = 0 ∨ r.cp.splits.length = 5
  tlbs : mapWf [] s.tlbs = true

/-- Physical memory is in its canonical form. -/
def State.MemoryWf (s : State) : Prop := Memory.wf s.mem = true

end Sys2Proof.Machine
end

