-- ==== Sys2Proof/Certificates/Slice0/Obligations.lean ====
section
/-! DEFINITION. The statements for the provers, said in the words of Safety.lean. A statement of several parts names each of
them as a definition of its own under `Claims`. -/

open Sys2Proof Sys2Proof.Machine

/-- The words of every well-formed instruction decode to it, whatever words follow (R25 to R30, R45 to R48). -/
def Obligations.EncodedInstructionDecodes : Prop :=
  ∀ (i : Instr) (r : List Word), i.WellFormed → decodeWords (encode i ++ r) = .ok (i, r)

/-- Words that decode to an instruction are its encoding, and the instruction is well-formed: no bit of a word is
dropped, and no reserved field or value passes (R25 to R30, R45 to R48). -/
def Obligations.DecodedWordsAreTheEncoding : Prop :=
  ∀ (ws r : List Word) (i : Instr), decodeWords ws = .ok (i, r) → i.WellFormed ∧ ws = encode i ++ r

/-- Words that the spec writes out, or that its tables give bit by bit, decode to the instructions they stand for (R25 to R30,
R154, R278, R346): those of R30, a FETCH, PARK, RTE, BRK, GBAR with its barrier in A [13:10], an SADD with a literal, a load, an
unassigned encoding, a nonzero reserved field, and a first word alone. -/
def Obligations.SampleWordsDecode : Prop :=
  decodeWords [0x2002081B] = .ok (.vaddVV 1 2 3 3, []) ∧
  decodeWords [0x420807F3, 0x40200000] = .ok (.vmulVS 4 1 126 3 (some 0x40200000), []) ∧
  decodeWords [0x420807CB] = .ok (.vmulVS 4 1 121 3 none, []) ∧
  decodeWords [0xC8000421] = .ok (.setmode 0x84 1, []) ∧
  decodeWords [0xC0A3FFB9] = .ok (.bra 10 0 0 0x7FF7 1, []) ∧
  decodeWords [0x70000000] = .ok (.unassignedEncoding 0x70000000, []) ∧
  decodeWords [0x6B184021, 0] = .ok (.fetch 12 16 4 0 1, []) ∧
  decodeWords [0xF0000001] = .ok (.park 1, []) ∧
  decodeWords [0xE1000001] = .ok (.rte 1, []) ∧
  decodeWords [0xED000000] = .ok (.brk 0, []) ∧
  decodeWords [0xAD000001] = .ok (.gbar 0 1, []) ∧
  decodeWords [0xAD002C02] = .ok (.gbar 11 2, []) ∧
  decodeWords [0x00041FF3, 0x12345678] = .ok (.sadd 2 7 126 3 (some 0x12345678), []) ∧
  decodeWords [0x60020C29] = .ok (.ldg 1 3 0 5 1, []) ∧
  decodeWords [0xF0000009] = .error .reserved ∧
  decodeWords [0x6C000000] = .error .truncated ∧
  decodeWords [0xD1000000] = .ok (.unassignedEncoding 0xD1000000, [])

/-- The module right after reset: CYCLE is 0 (R285), no wave, task, queue pair or fault record exists (R387), every engine, port and
region is secure (R377, R378), frame delivery is disarmed (R343), and the boot ROM has not run (R387). That every world bit is secure and frame
delivery disarmed from the first clk on is the model's reading (log 14). -/
def Claims.ResetIsAsTheSpecSays : Prop :=
  let s := State.reset
  s.clk = 0 ∧ s.boot = .rom ∧ (∀ w, s.wave w = Wave.none) ∧ (∀ t, s.task t = Task.empty) ∧ (∀ q, s.qp q = Qp.none) ∧
  s.faults = [] ∧ s.framedeadline = 0 ∧ s.nlSecure = List.replicate 8 true ∧ s.portSecure = List.replicate 8 true ∧
  s.regionSecure = List.replicate 32 true

/-- At reset physical memory is in its canonical form, and the tables have their sizes. -/
def Claims.ResetMeetsTheInvariants : Prop := State.reset.MemoryWf ∧ State.reset.TablesWf

/-- The module right after reset, and that it meets the invariants. -/
def Obligations.ResetIsAsTheSpecSays : Prop :=
  Claims.ResetIsAsTheSpecSays ∧ Claims.ResetMeetsTheInvariants

/-- Every step keeps physical memory in its canonical form: rising addresses, and no entry that holds what an unlisted
byte reads as. -/
def Obligations.StepKeepsMemoryCanonical : Prop :=
  ∀ s t : State, s.MemoryWf → step s = .next t → t.MemoryWf

/-- R86, R285: every step keeps the sizes of the tables: four split records and the handler's context for each wave, in its
run-ahead checkpoint too, eight TSAVE words, and TLBs in order. -/
def Obligations.StepKeepsTheTables : Prop := ∀ s t : State, s.TablesWf → step s = .next t → t.TablesWf

/-- A step in which a port issues runs the instruction that the bytes at the chosen split's PC decode to (R26, R49, R95):
`exec` of it, in the state whose clk is that of the issue and whose issuing context holds the PC and the address of the
next instruction. The choice is among the splits that are ready once held ones have been passed over, of which there is none
to pass over where one split alone is due. -/
def Claims.StepRunsTheDecodedInstruction : Prop :=
  ∀ (s : State) (port w k c n : Nat) (i : Instr) (r : List Turn),
    s.turns = .issue port :: r → s.boot = .runtime →
    let u := ({ s.fresh with turns := r }).sift port
    u.pick port = some (w, k, c) → u.fetch w k = .ok i n →
    step s = exec i (u.focusOn w k c n) ∧
    ((({ s.fresh with turns := r }).dueAt port).2.length < 2 → u = { s.fresh with turns := r })

/-- A fetched instruction is what its words decode to (R26): the words read from the PC on, each through an executable
page. -/
def Claims.FetchDecodesTheWordsAtThePc : Prop :=
  ∀ (s : State) (w k n : Nat) (i : Instr), s.fetch w k = .ok i n →
    ∃ pas : List Nat, pas.length = n ∧ n ≤ 3 ∧
      (∀ j pa, pas[j]? = some pa →
        checkVa s (s.space w) .fetch 4 (((s.wave w).split k).pc + BitVec.ofNat 64 (4 * j)) = .ok pa) ∧
      decodeWords (pas.map (fun pa => s.codeWord (s.wave w).cluster pa)) = .ok (i, [])

/-- A step whose oldest turn is a step of an agent executes it with its subject; the turn is used up. Turns and their subjects are
the model's own (logs 1 and 2). So does a step of an engine's operation of which no unit has been read or written before, and
what is kept of operations that have ended is dropped: reads and writes of single units before an engine's step (R150, R152)
are turns of the model's own too (log 56). -/
def Claims.StepTakesTheOldestTurn : Prop :=
  ∀ (s : State) (e : Instr) (nums : List Nat) (bytes : List Byte) (r : List Turn),
    s.turns = .event e nums bytes :: r → Instr.isEvent e = true →
    let u := { s.fresh with turns := r, nums, bytes }
    (u.stepOp e nums = none → step s = exec e u) ∧
    (∀ op t, u.stepOp e nums = some op → (∀ q ∈ s.early, q.1 ≠ op) → (∀ q ∈ s.peeks, q.1 ≠ op) →
      (∀ q ∈ s.snaps, q.1 ≠ op) → exec e u = .next t →
      step s = .next { t with early := t.early.filter (fun q => t.opLives q.1),
                              peeks := t.peeks.filter (fun q => t.opLives q.1),
                              snaps := t.snaps.filter (fun q => t.opLives q.1) })

/-- A step runs what the words at the chosen split's PC decode to, or the agent's step whose turn it is. -/
def Obligations.StepRunsTheDecodedInstruction : Prop :=
  Claims.StepRunsTheDecodedInstruction ∧ Claims.FetchDecodesTheWordsAtThePc ∧ Claims.StepTakesTheOldestTurn

/-- Physical memory (R124): a byte written reads back, and every other byte reads as before. -/
def Obligations.MemoryReadsWhatWasWritten : Prop :=
  ∀ (s : State) (pa a : Nat) (bs : List Byte),
    (s.writeMem pa bs).readByte a = if pa ≤ a ∧ a < pa + bs.length then bs.getD (a - pa) 0 else s.readByte a

/-- R80, R81: a scalar instruction of two sources writes its destination with the value its row gives. `x` and `y` are
what A and B read. For a write of MODE the value must be one that MODE takes (the next statements say what happens
otherwise). -/
def Claims.ScalarTwoSourceResults : Prop :=
  ∀ (s : State) (f : Focus) (d a b : Code) (stl : Stall) (lit : Option Word), s.calm f = true → dstOk d = true →
    srcOk false a = true → srcOk false b = true → litOnce [a, b] = true →
    let x := s.readSrc f.wave f.split lit a
    let y := s.readSrc f.wave f.split lit b
    let puts := fun (i : Instr) (v : Word) => dstBad d v = false → Answers i s (fun t => PutScalar s t f d v)
    puts (.sadd d a b stl lit) (x + y) ∧
    puts (.ssub d a b stl lit) (x - y) ∧
    puts (.smul d a b stl lit) (x * y) ∧
    puts (.smulhu d a b stl lit) (BitVec.ofNat 32 (x.toNat * y.toNat / 2 ^ 32)) ∧
    puts (.sand d a b stl lit) (x &&& y) ∧
    puts (.sor d a b stl lit) (x ||| y) ∧
    puts (.sxor d a b stl lit) (x ^^^ y) ∧
    puts (.sandn d a b stl lit) (x &&& ~~~ y) ∧
    puts (.sshl d a b stl lit) (BitVec.ofNat 32 (x.toNat * 2 ^ y.toNat)) ∧
    puts (.sshr d a b stl lit) (BitVec.ofNat 32 (x.toNat / 2 ^ y.toNat)) ∧
    puts (.ssar d a b stl lit) (BitVec.ofInt 32 (x.toInt / 2 ^ y.toNat)) ∧
    puts (.smin d a b stl lit) (BitVec.ofInt 32 (min x.toInt y.toInt)) ∧
    puts (.smax d a b stl lit) (BitVec.ofInt 32 (max x.toInt y.toInt)) ∧
    puts (.sminu d a b stl lit) (BitVec.ofNat 32 (min x.toNat y.toNat)) ∧
    puts (.smaxu d a b stl lit) (BitVec.ofNat 32 (max x.toNat y.toNat)) ∧
    puts (.seq d a b stl lit) (if x = y then 1 else 0) ∧
    puts (.slt d a b stl lit) (if x.toInt < y.toInt then 1 else 0) ∧
    puts (.sltu d a b stl lit) (if x.toNat < y.toNat then 1 else 0) ∧
    puts (.sbfe d a b stl lit)
      (let n := min (y.toNat / 256 % 64) 32
       let v := x.toNat / 2 ^ (y.toNat % 32) % 2 ^ n
       if y.getLsbD 16 = true ∧ 0 < n ∧ 2 ^ (n - 1) ≤ v then BitVec.ofInt 32 ((v : Int) - 2 ^ n)
       else BitVec.ofNat 32 v)

/-- R80, R81, R82: a select, an inserted field, a move, and the functions of SUN. `o` is the old destination. -/
def Claims.ScalarOtherResults : Prop :=
  ∀ (s : State) (f : Focus) (d a b fn : Code) (stl : Stall) (lit : Option Word), s.calm f = true → dstOk d = true →
    srcOk false a = true → srcOk false b = true → litOnce [a, b] = true →
    let x := s.readSrc f.wave f.split lit a
    let y := s.readSrc f.wave f.split lit b
    let o := s.readSrc f.wave f.split lit d
    let puts := fun (i : Instr) (v : Word) => dstBad d v = false → Answers i s (fun t => PutScalar s t f d v)
    puts (.ssel d a b stl lit) (if o ≠ 0 then x else y) ∧
    (∀ v : Word, (∀ i, i < 32 → v.getLsbD i =
        let off := y.toNat % 32
        if off ≤ i ∧ i < off + min (y.toNat / 256 % 64) 32 then x.getLsbD (i - off) else o.getLsbD i) →
      puts (.sbfi d a b stl lit) v) ∧
    puts (.smov d a stl lit) x ∧
    (∀ v, (fn.toNat, v) ∈ [(0, ~~~ x), (1, 0 - x), (2, BitVec.ofNat 32 x.toInt.natAbs),
        (7, BitVec.ofInt 32 (x.setWidth 8).toInt), (8, BitVec.ofInt 32 (x.setWidth 16).toInt),
        (9, BitVec.ofNat 32 (x.toNat % 2 ^ 8)), (10, BitVec.ofNat 32 (x.toNat % 2 ^ 16))] →
      puts (.sun d a fn stl lit) v) ∧
    (∀ v : Word, fn = 6 → (∀ i, i < 32 → v.getLsbD i = x.getLsbD (31 - i)) → puts (.sun d a fn stl lit) v) ∧
    (∀ v : Word, fn = 13 → (∀ i, i < 32 → v.getLsbD i = x.getLsbD (8 * (3 - i / 8) + i % 8)) →
      puts (.sun d a fn stl lit) v)

/-- R82: the counting functions of SUN, said by what they count. Codes 11 and 12 read a pair. -/
def Claims.ScalarCounts : Prop :=
  ∀ (s : State) (f : Focus) (d a fn : Code) (stl : Stall) (lit : Option Word), s.calm f = true → dstOk d = true →
    let put := fun (n : Nat) => Answers (.sun d a fn stl lit) s (fun t => PutScalar s t f d (BitVec.ofNat 32 n))
    (srcOk false a = true →
      let x := s.readSrc f.wave f.split lit a
      (fn = 3 → put ((List.range 32).countP (fun i => x.getLsbD i))) ∧
      (fn = 4 → ∃ n, put n ∧ n ≤ 32 ∧ x.toNat < 2 ^ (32 - n) ∧ (n < 32 → 2 ^ (31 - n) ≤ x.toNat)) ∧
      (fn = 5 → ∃ n, put n ∧ n ≤ 32 ∧ x.toNat % 2 ^ n = 0 ∧ (n < 32 → x.getLsbD n = true))) ∧
    (pairSrcOk false a = true →
      let x := s.readPair f.wave f.split lit a
      (fn = 11 → put ((List.range 64).countP (fun i => x.getLsbD i))) ∧
      (fn = 12 → ∃ n, put n ∧ n ≤ 64 ∧ x.toNat < 2 ^ (64 - n) ∧ (n < 64 → 2 ^ (63 - n) ≤ x.toNat)))

/-- What the scalar instructions of 32 bits write. -/
def Obligations.ScalarResults : Prop :=
  Claims.ScalarTwoSourceResults ∧ Claims.ScalarOtherResults ∧ Claims.ScalarCounts

/-- R83: arithmetic on pairs, each written as a unit. -/
def Claims.PairResults : Prop :=
  ∀ (s : State) (f : Focus) (d a b : Code) (stl : Stall) (lit : Option Word), s.calm f = true → pairDstOk d = true →
    pairSrcOk false a = true → litOnce [a, b] = true →
    let x := s.readPair f.wave f.split lit a
    let y := s.readPair f.wave f.split lit b
    let n := (s.readSrc f.wave f.split lit b).toNat
    let puts := fun (i : Instr) (v : Dword) => Answers i s (fun t => PutPair s t f d v)
    (pairSrcOk false b = true →
      puts (.sadd64 d a b stl lit) (x + y) ∧ puts (.ssub64 d a b stl lit) (x - y) ∧
      puts (.smul64 d a b stl lit) (x * y)) ∧
    (srcOk false b = true →
      puts (.sshl64 d a b stl lit) (BitVec.ofNat 64 (x.toNat * 2 ^ n)) ∧
      puts (.sshr64 d a b stl lit) (BitVec.ofNat 64 (x.toNat / 2 ^ n)))

/-- R84: the logic of predicates; EXEC takes value ∧ ARM (R87). -/
def Claims.PredicateResults : Prop :=
  ∀ (s : State) (f : Focus) (d a b : Code) (stl : Stall), s.calm f = true → predDstOk d = true →
    predSrcOk a = true → predSrcOk b = true →
    let x := s.readPred f.wave f.split a
    let y := s.readPred f.wave f.split b
    let puts := fun (i : Instr) (v : Mask) => Answers i s (fun t => PutPred s t f d v)
    puts (.pand d a b stl) (x &&& y) ∧ puts (.por d a b stl) (x ||| y) ∧ puts (.pxor d a b stl) (x ^^^ y) ∧
    puts (.pandn d a b stl) (x &&& ~~~ y)

/-- What arithmetic on pairs and logic on predicates write. -/
def Obligations.PairAndPredicateResults : Prop :=
  Claims.PairResults ∧ Claims.PredicateResults

/-- R31, R49: an operand code that is not legal where it stands makes a scalar instruction trap with ILLOPND (cause
0x02), TRAPPC its own address, with no effect. -/
def Claims.ScalarOperandTraps : Prop :=
  ∀ (s : State) (f : Focus) (d a b : Code) (stl : Stall) (lit : Option Word), s.calm f = true →
    (dstOk d && srcOk false a && srcOk false b && litOnce [a, b]) = false →
    ∀ i ∈ [Instr.sadd d a b stl lit, .ssub d a b stl lit, .smul d a b stl lit, .smulhu d a b stl lit,
      .sand d a b stl lit, .sor d a b stl lit, .sxor d a b stl lit, .sandn d a b stl lit, .sshl d a b stl lit,
      .sshr d a b stl lit, .ssar d a b stl lit, .smin d a b stl lit, .smax d a b stl lit, .sminu d a b stl lit,
      .smaxu d a b stl lit, .seq d a b stl lit, .slt d a b stl lit, .sltu d a b stl lit, .ssel d a b stl lit,
      .sbfe d a b stl lit, .sbfi d a b stl lit], Traps i s f 2 f.pc 0

/-- R38: a result for MODE that sets one of bits 31:13 traps with ILLEGAL (cause 0x01) and has no effect; so does an
instruction that forms ACTIVE under a reserved guard, whatever its operands. -/
def Claims.ModeTraps : Prop :=
  (∀ (s : State) (f : Focus) (a b : Code) (stl : Stall) (lit : Option Word), s.calm f = true → srcOk false a = true →
    srcOk false b = true → litOnce [a, b] = true →
    let x := s.readSrc f.wave f.split lit a
    let y := s.readSrc f.wave f.split lit b
    (2 ^ 13 ≤ x.toNat → Traps (.smov 98 a stl lit) s f 1 f.pc 0) ∧
    (2 ^ 13 ≤ (x + y).toNat → Traps (.sadd 98 a b stl lit) s f 1 f.pc 0) ∧
    (2 ^ 13 ≤ (x ||| y).toNat → Traps (.sor 98 a b stl lit) s f 1 f.pc 0)) ∧
  (∀ (s : State) (f : Focus) (d a b : Code) (stl : Stall) (lit : Option Word), s.calm f = true →
    guardBad (s.readMode f.wave) = true →
    ∀ i ∈ [Instr.vaddVV d a b stl, .vfmaVS d a b stl lit, .vandVV d a b stl, .vceqVV d a b stl, .vselVS d a b stl lit,
      .vmovVV d a stl, .vcvtVV d a b stl, .vshufVV d a b stl, .vrfirst d a stl, .vwlane d a b stl lit,
      .vdot2VV d a b stl], Traps i s f 1 f.pc 0)

/-- R68, R69: an ACTIVE lane that raises an enabled flag makes the instruction trap with FPEXC (cause 0x0E): TRAPARG
holds the union of the flags of all ACTIVE lanes and, from bit 8, the lowest lane that raised an enabled one. -/
def Claims.FlagTraps : Prop :=
  ∀ (s : State) (f : Focus) (d a b : Code) (stl : Stall) (L : Nat), s.quiet f = true →
    let x := s.wave f.wave
    let t := modeType (s.readMode f.wave)
    let m := s.active f.wave f.split
    let fl := fun L => (byElems t (addElem (modeEnv (s.readMode f.wave)) t) (s.readVn f.wave (tyRegs t) a L)
      (s.readVn f.wave (tyRegs t) b L) 0).2
    t < 12 → vOk x d (tyRegs t) = true → vOk x a (tyRegs t) = true → vOk x b (tyRegs t) = true →
    L < 64 → m.getLsbD L = true → fl L &&& x.fpen ≠ 0 → (∀ k, k < L → m.getLsbD k = true → fl k &&& x.fpen = 0) →
    Traps (.vaddVV d a b stl) s f 0x0E f.pc
      (BitVec.ofNat 64 (unionFlags ((Mask.lanes m).map (fun k => (k, fl k))) + 256 * L))

/-- R43: with WAVECTL.SCHK = 1 an instruction that reads a register of which `rem` clk remain, the others it reads being readable,
traps with STALLSHORT (cause 0x04): TRAPARG holds the file, the register in it, and `rem`. It does so for scalars, for vectors,
EXEC, MODE and the guard predicate, and for the condition of a branch; where every register is readable it executes. (Which of
several short registers is reported is the model's choice, log 57, and is not said here.) -/
def Claims.ShortStallsTrap : Prop :=
  ∀ (s : State) (f : Focus) (d a b : Code) (c : BitVec 4) (n h : BitVec 1) (o : BitVec 15) (stl : Stall) (lit : Option Word),
    s.checked f = true →
    let x := s.wave f.wave
    let stops := fun (i : Instr) (rs : List (Reg × Nat × Nat)) => ∀ r file num rem, (r, file, num) ∈ rs → 0 < rem →
      s.remains f.wave r rem → (∀ q ∈ rs, q.1 ≠ r → s.readable f.wave q.1) →
      Traps i s f 4 f.pc (BitVec.ofNat 64 (num + 256 * file + 1024 * (rem % 64)))
    let ready := fun (rs : List (Reg × Nat × Nat)) => ∀ q ∈ rs, s.readable f.wave q.1
    (dstOk d = true → a.toNat < 96 → b.toNat < 96 →
      let rs := [(.s a.toNat, 0, a.toNat), (.s b.toNat, 0, b.toNat)]
      let v := s.readS f.wave a.toNat + s.readS f.wave b.toNat
      stops (.sadd d a b stl lit) rs ∧
      (ready rs → dstBad d v = false → Answers (.sadd d a b stl lit) s (fun t => PutScalar s t f d v))) ∧
    (guardBad (s.readMode f.wave) = false → vOk x d 1 = true → vOk x a 1 = true →
      vOk x b 1 = true →
      let g := modeGuard (s.readMode f.wave)
      let rs := [(.v a.toNat, 1, a.toNat), (.v b.toNat, 1, b.toNat), (.exec f.split, 2, 8), (.mode, 3, 16)] ++
        (if 8 ≤ g then [(.p (g - 8), 2, g - 8)] else [])
      stops (.vandVV d a b stl) rs ∧
      (ready rs → VectorResult (.vandVV d a b stl) s f 3 1 d (s.active f.wave f.split) (fun L =>
        ((s.readV f.wave a.toNat L &&& s.readV f.wave b.toNat L).toNat, 0)))) ∧
    (8 ≤ c.toNat →
      let p := condPred c
      let rs := [(.p p, 2, p), (.exec f.split, 2, 8)]
      stops (.bra c n h o stl) rs ∧
      (ready rs → s.readExec f.wave f.split &&& (if n = 1 then ~~~ (s.readP f.wave p) else s.readP f.wave p) = 0 →
        Answers (.bra c n h o stl) s (fun t => Goes s t f f.next)))

/-- Illegal operands, bad MODE values, reserved guards, enabled flags and short stalls trap with no effect. -/
def Obligations.OperandsAndFlagsTrap : Prop :=
  Claims.ScalarOperandTraps ∧ Claims.ModeTraps ∧ Claims.FlagTraps ∧ Claims.ShortStallsTrap

/-- R108, R109, R110, R111, R123: lane arithmetic. Each element of a lane is the operation of its row on the elements of
A, B and, for the fused forms and VCLAMP, the old D; results of F64 are readable 5 clk later, others 3. -/
def Obligations.VectorArithmeticResults : Prop :=
  ∀ (s : State) (f : Focus) (d a b : Code) (stl : Stall) (lit : Option Word), s.quiet f = true →
    (s.wave f.wave).fpen = 0 →
    let t := modeType (s.readMode f.wave)
    let n := tyRegs t
    let env := modeEnv (s.readMode f.wave)
    let m := s.active f.wave f.split
    let rd := fun (c : Code) (L : Nat) => s.readVn f.wave n c L
    let put := fun (i : Instr) (lat : Nat) (g : Nat → LaneRes) => VectorResult i s f lat n d m g
    let lat := if t = 5 then 5 else 3
    vOk (s.wave f.wave) d n = true → vOk (s.wave f.wave) a n = true →
    (∀ (y : Nat → Nat) (add sub mul fma fnma mn mx clamp shl shr mulh dot : Instr),
      (vOk (s.wave f.wave) b n = true ∧ y = rd b ∧
        [add, sub, mul, fma, fnma, mn, mx, clamp, shl, shr, mulh, dot] =
          [.vaddVV d a b stl, .vsubVV d a b stl, .vmulVV d a b stl, .vfmaVV d a b stl, .vfnmaVV d a b stl,
            .vminVV d a b stl, .vmaxVV d a b stl, .vclampVV d a b stl, .vshlVV d a b stl, .vshrVV d a b stl,
            .vmulhVV d a b stl, .vdot2VV d a b stl] ∨
       typedOk t b = true ∧ litOnce [b] = true ∧ y = (fun _ => s.readTyped f.wave f.split lit t b) ∧
        [add, sub, mul, fma, fnma, mn, mx, clamp, shl, shr, mulh, dot] =
          [.vaddVS d a b stl lit, .vsubVS d a b stl lit, .vmulVS d a b stl lit, .vfmaVS d a b stl lit,
            .vfnmaVS d a b stl lit, .vminVS d a b stl lit, .vmaxVS d a b stl lit, .vclampVS d a b stl lit,
            .vshlVS d a b stl lit, .vshrVS d a b stl lit, .vmulhVS d a b stl lit, .vdot2VS d a b stl lit]) →
      (t < 12 →
        put add lat (fun L => byElems t (addElem env t) (rd a L) (y L) 0) ∧
        put sub lat (fun L => byElems t (subElem env t) (rd a L) (y L) 0) ∧
        put mul lat (fun L => byElems t (mulElem env t) (rd a L) (y L) 0) ∧
        put fma lat (fun L => byElems t (fmaElem env t) (rd a L) (y L) (rd d L)) ∧
        put fnma lat (fun L => byElems t (fnmaElem env t) (rd a L) (y L) (rd d L)) ∧
        put mn lat (fun L => byElems t (pickElem false env t) (rd a L) (y L) 0) ∧
        put mx lat (fun L => byElems t (pickElem true env t) (rd a L) (y L) 0) ∧
        put clamp lat (fun L => byElems t (clampElem env t) (rd a L) (y L) (rd d L))) ∧
      (t ∈ [0, 1, 2, 3, 8, 9, 10, 11] →
        put shl 3 (fun L => byElems t (shlElem env t) (rd a L) (y L) 0) ∧
        put shr 3 (fun L => byElems t (shrElem env t) (rd a L) (y L) 0)) ∧
      (t < 2 → put mulh 3 (fun L => byElems t (mulhElem env t) (rd a L) (y L) 0)) ∧
      (6 ≤ t → t < 14 → put dot 3 (fun L => dotLane env t (rd a L) (y L) (rd d L))))

/-- R60, R110, R111: what the elements of integer types are. A result is the exact value, wrapped to the type's width, or
saturated to its range where MODE.SAT is set; no flag is raised. VSHL and VSHR take the count as unsigned, and VMULH the
high half of the exact product. -/
def Claims.IntegerElements : Prop :=
  ∀ (env : FEnv) (t a b d : Nat), t ∈ [0, 1, 2, 3, 8, 9, 10, 11] → a < 2 ^ tyWidth t → b < 2 ^ tyWidth t →
    d < 2 ^ tyWidth t →
    let w := tyWidth t
    let signed : Bool := t % 2 = 0
    let val := fun (x : Nat) => if signed ∧ 2 ^ (w - 1) ≤ x then (x : Int) - 2 ^ w else (x : Int)
    let lo : Int := if signed then -2 ^ (w - 1) else 0
    let hi : Int := if signed then 2 ^ (w - 1) - 1 else 2 ^ w - 1
    let res := fun (v : Int) => ((if env.sat then max lo (min hi v) else v) % 2 ^ w).toNat
    addElem env t a b d = (res (val a + val b), 0) ∧ subElem env t a b d = (res (val a - val b), 0) ∧
    mulElem env t a b d = (res (val a * val b), 0) ∧ fmaElem env t a b d = (res (val a * val b + val d), 0) ∧
    fnmaElem env t a b d = (res (val d - val a * val b), 0) ∧
    pickElem false env t a b d = (if val a ≤ val b then a else b, 0) ∧
    pickElem true env t a b d = (if val b ≤ val a then a else b, 0) ∧
    shlElem env t a b d = (a * 2 ^ (b % 2 ^ 32) % 2 ^ w, 0) ∧
    shrElem env t a b d = ((val a / 2 ^ (b % 2 ^ 32) % 2 ^ w).toNat, 0) ∧
    vunElem 0 env t a b d = (res (-val a), 0) ∧ vunElem 1 env t a b d = (res (val a).natAbs, 0) ∧
    (w = 32 → mulhElem env t a b d = ((val a * val b / 2 ^ 32 % 2 ^ 32).toNat, 0))

/-- R61, R67: every arithmetic result of a NaN operand is the canonical NaN of its format, whatever the NaN's sign and
payload. -/
def Claims.NanResultsAreCanonical : Prop :=
  ∀ (env : FEnv) (t : Nat) (g : Fmt) (nan a b : Nat), (t, g, nan) ∈
      [(4, fmtF32, 0x7FC00000), (5, fmtF64, 0x7FF8000000000000), (6, fmtF16, 0x7E00), (7, fmtBF16, 0x7FC0)] →
    (decodeNum g a).isNan = true → ∀ d, ∀ op ∈ [addElem, subElem, mulElem, fmaElem, fnmaElem],
      (op env t a b d).1 = nan ∧ (op env t b a d).1 = nan

/-- Integer elements are exact, wrapped or saturated; a NaN operand gives the canonical NaN. -/
def Obligations.ElementsOfIntegersAndNans : Prop :=
  Claims.IntegerElements ∧ Claims.NanResultsAreCanonical

/-- R63 to R65, R68, R108: with FTZ = 0, sums, products and fused forms of finite elements are the exact value rounded once under
MODE.RM, with its flags; an exact zero takes the sign that R63 gives it; and an overflow is replaced under R64. -/
def Claims.FiniteArithmeticRounds : Prop :=
  ∀ (t ew fw rm a b d : Nat) (sat : Bool), (t, ew, fw) ∈ [(4, 8, 23), (5, 11, 52), (6, 5, 10), (7, 8, 7)] → rm < 4 →
    imgFinite ew fw a → imgFinite ew fw b → imgFinite ew fw d →
    let env : FEnv := { rm, sat, ftz := false }
    let u := imgUnits ew fw
    let k := unitExp ew fw
    let sg := imgSign ew fw
    let zero := fun (s : Nat) => (signed ew fw s 0, 0)
    let gives := fun (r : Nat × Nat) (c : Nat) (X : Int) (z : Nat) =>
      (X ≠ 0 → RoundsWith ew fw rm sat c X r) ∧ (X = 0 → r = zero z)
    let sum := fun (p q : Nat) (both : Prop) [Decidable both] => if both ∧ p = q then p else if rm = 3 then 1 else 0
    gives (addElem env t a b 0) 1 (u a + u b) (sum (sg a) (sg b) (u a = 0 ∧ u b = 0)) ∧
    gives (subElem env t a b 0) 1 (u a - u b) (sum (sg a) (1 - sg b) (u a = 0 ∧ u b = 0)) ∧
    gives (mulElem env t a b 0) (2 ^ k) (u a * u b) ((sg a + sg b) % 2) ∧
    gives (fmaElem env t a b d) (2 ^ k) (u a * u b + u d * 2 ^ k) (sum ((sg a + sg b) % 2) (sg d) (u a * u b = 0 ∧ u d = 0)) ∧
    gives (fnmaElem env t a b d) (2 ^ k) (u d * 2 ^ k - u a * u b)
      (sum ((sg a + sg b + 1) % 2) (sg d) (u a * u b = 0 ∧ u d = 0))

/-- R65, R67: infinite operands. An infinite result keeps its sign, or is the largest finite value under SAT, with no flag; the
difference of two infinities and a product of zero and infinity are the canonical NaN with IO, in a fused form even where d is
a NaN. -/
def Claims.InfiniteOperands : Prop :=
  ∀ (t ew fw a b d s : Nat) (env : FEnv), (t, ew, fw) ∈ [(4, 8, 23), (5, 11, 52), (6, 5, 10), (7, 8, 7)] → s < 2 →
    imgFinite ew fw b → (env.ftz = true → ¬ imgDenormal ew fw b) → a = signed ew fw s (infOf ew fw) →
    let res := fun (s : Nat) => (signed ew fw s (if env.sat then topOf ew fw else infOf ew fw), 0)
    let bad := (nanOf ew fw, 1)
    let other := signed ew fw (1 - s) (infOf ew fw)
    addElem env t a b 0 = res s ∧ addElem env t b a 0 = res s ∧ addElem env t a a 0 = res s ∧ addElem env t a other 0 = bad ∧
    subElem env t a b 0 = res s ∧ subElem env t b a 0 = res (1 - s) ∧ subElem env t a a 0 = bad ∧
    mulElem env t a a 0 = res 0 ∧ mulElem env t a other 0 = res 1 ∧
    (imgUnits ew fw b ≠ 0 → mulElem env t a b 0 = res ((s + imgSign ew fw b) % 2)) ∧
    (imgUnits ew fw b = 0 → mulElem env t a b 0 = bad ∧ mulElem env t b a 0 = bad ∧
      (d < 2 ^ (1 + ew + fw) → imgNan ew fw d → ¬ imgSignalling ew fw d → fmaElem env t a b d = bad ∧ fnmaElem env t a b d = bad))

/-- R66: with FTZ = 1 a denormal element of F32, F16 or BF16 acts as a zero of its sign and raises DN, and a nonzero result
below the smallest normal is a zero of its sign with UF and NX; F64 does neither. -/
def Claims.DenormalsAreFlushed : Prop :=
  ∀ (t ew fw rm a b d : Nat) (sat : Bool), rm < 4 →
    let env : FEnv := { rm, sat, ftz := true }
    let keep : FEnv := { rm, sat, ftz := false }
    (∀ op ∈ [addElem, subElem, mulElem, fmaElem, fnmaElem], op env 5 a b d = op keep 5 a b d) ∧
    ((t, ew, fw) ∈ [(4, 8, 23), (6, 5, 10), (7, 8, 7)] → imgFinite ew fw a → imgFinite ew fw b → imgFinite ew fw d →
      let flush := fun x => if imgExp ew fw x = 0 then signed ew fw (imgSign ew fw x) 0 else x
      let u := fun x => imgUnits ew fw (flush x)
      let k := unitExp ew fw
      let dn := fun (xs : List Nat) => if ∃ x ∈ xs, imgExp ew fw x = 0 ∧ imgFrac fw x ≠ 0 then 32 else 0
      let gives := fun (r q : Nat × Nat) (c : Nat) (X : Int) (xs : List Nat) =>
        (X = 0 ∨ 2 ^ fw * c ≤ X.natAbs → r = (q.1, q.2 + dn xs)) ∧
        (X ≠ 0 → X.natAbs * 2 ^ (fw + 1) ≤ (2 ^ (fw + 1) - 1) * 2 ^ fw * c →
          r = (signed ew fw (if X < 0 then 1 else 0) 0, 8 + 16 + dn xs))
      gives (addElem env t a b 0) (addElem keep t (flush a) (flush b) 0) 1 (u a + u b) [a, b] ∧
      gives (subElem env t a b 0) (subElem keep t (flush a) (flush b) 0) 1 (u a - u b) [a, b] ∧
      gives (mulElem env t a b 0) (mulElem keep t (flush a) (flush b) 0) (2 ^ k) (u a * u b) [a, b] ∧
      gives (fmaElem env t a b d) (fmaElem keep t (flush a) (flush b) (flush d)) (2 ^ k) (u a * u b + u d * 2 ^ k) [a, b, d] ∧
      gives (fnmaElem env t a b d) (fnmaElem keep t (flush a) (flush b) (flush d)) (2 ^ k) (u d * 2 ^ k - u a * u b) [a, b, d])

/-- R109, R116: the lesser and the greater float element, −0 below +0, and a NaN beside a number giving the number; VCLAMP is the
greater of a and b, then the lesser of that and d; NEG and ABS change the sign bit alone. A signalling NaN raises IO, and no other
flag is raised. -/
def Claims.FloatsAreCompared : Prop :=
  ∀ (t ew fw a b d : Nat) (env : FEnv), (t, ew, fw) ∈ [(4, 8, 23), (5, 11, 52), (6, 5, 10), (7, 8, 7)] →
    a < 2 ^ (1 + ew + fw) → b < 2 ^ (1 + ew + fw) → d < 2 ^ (1 + ew + fw) →
    (env.ftz = true → ∀ x ∈ [a, b, d], ¬ imgDenormal ew fw x) →
    let nan := imgNan ew fw
    let io := fun (x : Nat) => if nan x ∧ imgFrac fw x < 2 ^ (fw - 1) then 1 else 0
    let key := imgKey ew fw
    (¬ nan a → ¬ nan b →
      pickElem false env t a b 0 = (if key a ≤ key b then a else b, 0) ∧
      pickElem true env t a b 0 = (if key b ≤ key a then a else b, 0) ∧
      (¬ nan d → clampElem env t a b d = (let x := if key b ≤ key a then a else b; if key x ≤ key d then x else d, 0))) ∧
    (∀ greater, (nan a → ¬ nan b → pickElem greater env t a b 0 = (b, io a) ∧ pickElem greater env t b a 0 = (b, io a)) ∧
      (nan a → nan b → (pickElem greater env t a b 0).1 = nanOf ew fw)) ∧
    (¬ nan a → vunElem 0 env t a 0 0 = (signed ew fw (1 - imgSign ew fw a) (a % 2 ^ (ew + fw)), 0) ∧
      vunElem 1 env t a 0 0 = (a % 2 ^ (ew + fw), 0)) ∧
    (nan a → ∀ fn, fn < 2 ∨ (10 ≤ fn ∧ fn ≤ 14) → vunElem fn env t a 0 0 = (nanOf ew fw, io a))

/-- R116: FLOOR, CEIL, TRUNC and RINT give a finite element's integral value in their direction, with its sign and no flag, and an
infinity itself; FRACT gives a − FLOOR(a), rounded RDN, +0 where that is zero, with NX where it is inexact. -/
def Claims.IntegralValues : Prop :=
  ∀ (t ew fw a s : Nat) (env : FEnv), (t, ew, fw) ∈ [(4, 8, 23), (5, 11, 52), (6, 5, 10), (7, 8, 7)] → env.ftz = false →
    env.rm < 4 →
    let one : Int := 2 ^ unitExp ew fw
    let X := imgUnits ew fw a
    let gives := fun (fn : Nat) (P : Int → Prop) => (vunElem fn env t a 0 0).2 = 0 ∧
      imgFinite ew fw (vunElem fn env t a 0 0).1 ∧ imgSign ew fw (vunElem fn env t a 0 0).1 = imgSign ew fw a ∧
      ∃ n : Int, imgUnits ew fw (vunElem fn env t a 0 0).1 = n * one ∧ P n
    let floor := fun (n : Int) => n * one ≤ X ∧ X < (n + 1) * one
    let ceil := fun (n : Int) => (n - 1) * one < X ∧ X ≤ n * one
    let trunc := fun (n : Int) => if 0 ≤ X then floor n else ceil n
    let even := fun (n : Int) => 2 * (X - n * one).natAbs ≤ one.natAbs ∧ (2 * (X - n * one).natAbs = one.natAbs → n % 2 = 0)
    (imgFinite ew fw a →
      gives 10 floor ∧ gives 11 ceil ∧ gives 12 trunc ∧
      gives 13 (fun n => (env.rm = 0 → even n) ∧ (env.rm = 1 → trunc n) ∧ (env.rm = 2 → ceil n) ∧ (env.rm = 3 → floor n)) ∧
      (X % one = 0 → vunElem 14 env t a 0 0 = (0, 0)) ∧
      (X % one ≠ 0 → RoundsTo ew fw 3 1 (X % one) (vunElem 14 env t a 0 0).1 ∧
        (vunElem 14 env t a 0 0).2 = if imgUnits ew fw (vunElem 14 env t a 0 0).1 = X % one then 0 else 16)) ∧
    (s < 2 → a = signed ew fw s (infOf ew fw) → (∀ fn ∈ [10, 11, 12, 13], vunElem fn env t a 0 0 = (a, 0)) ∧
      vunElem 14 env t a 0 0 = (nanOf ew fw, 1))

/-- R70: VCVT's elements. A finite float goes to another format rounded, to an integer type rounded under RM, the nearest end
of the range with IO where it does not fit; an integer goes to a float rounded, and to an integer type wrapped or, with SAT,
clamped. The examples of E4M3 are R70's own. -/
def Claims.ElementsAreConverted : Prop :=
  (∀ (src ews fws dst ewd fwd rm a s : Nat) (sat : Bool),
    (src, ews, fws) ∈ [(4, 8, 23), (5, 11, 52), (6, 5, 10), (7, 8, 7), (13, 5, 2)] →
    (dst, ewd, fwd) ∈ [(4, 8, 23), (5, 11, 52), (6, 5, 10), (7, 8, 7), (13, 5, 2)] → rm < 4 →
    let env : FEnv := { rm, sat, ftz := false }
    let ks := unitExp ews fws
    let kd := unitExp ewd fwd
    let X := imgUnits ews fws a * 2 ^ (kd - ks)
    (imgFinite ews fws a → (X ≠ 0 → RoundsWith ewd fwd rm sat (2 ^ (ks - kd)) X (cvtElem env src dst a)) ∧
      (X = 0 → cvtElem env src dst a = (signed ewd fwd (imgSign ews fws a) 0, 0))) ∧
    (s < 2 → a = signed ews fws s (infOf ews fws) →
      cvtElem env src dst a = (signed ewd fwd s (if sat then topOf ewd fwd else infOf ewd fwd), 0)) ∧
    (a < 2 ^ (1 + ews + fws) → imgNan ews fws a → (cvtElem env src dst a).1 = nanOf ewd fwd)) ∧
  (∀ (src ew fw dst rm a : Nat) (sat : Bool), (src, ew, fw) ∈ [(4, 8, 23), (5, 11, 52), (6, 5, 10), (7, 8, 7), (13, 5, 2)] →
    dst ∈ [0, 1, 2, 3, 8, 9, 10, 11] → rm < 4 →
    let env : FEnv := { rm, sat, ftz := false }
    let w := tyWidth dst
    let lo : Int := if dst % 2 = 0 then -2 ^ (w - 1) else 0
    let hi : Int := if dst % 2 = 0 then 2 ^ (w - 1) - 1 else 2 ^ w - 1
    let img := fun (v : Int) => (v % 2 ^ w).toNat
    let one : Int := 2 ^ unitExp ew fw
    let X := imgUnits ew fw a
    (imgFinite ew fw a → ∃ n : Int,
      (rm = 0 → 2 * (X - n * one).natAbs ≤ one.natAbs ∧ (2 * (X - n * one).natAbs = one.natAbs → n % 2 = 0)) ∧
      (rm = 1 → if 0 ≤ X then n * one ≤ X ∧ X < (n + 1) * one else (n - 1) * one < X ∧ X ≤ n * one) ∧
      (rm = 2 → (n - 1) * one < X ∧ X ≤ n * one) ∧ (rm = 3 → n * one ≤ X ∧ X < (n + 1) * one) ∧
      cvtElem env src dst a = if n < lo then (img lo, 1) else if hi < n then (img hi, 1)
        else (img n, if n * one = X then 0 else 16)) ∧
    (a < 2 ^ (1 + ew + fw) → imgNan ew fw a → cvtElem env src dst a = (0, 1)) ∧
    (a = infOf ew fw → cvtElem env src dst a = (img hi, 1)) ∧
    (a = signed ew fw 1 (infOf ew fw) → cvtElem env src dst a = (img lo, 1))) ∧
  (∀ (src dst ew fw rm a : Nat) (sat : Bool), src ∈ [0, 1, 2, 3, 8, 9, 10, 11] →
    (dst, ew, fw) ∈ [(4, 8, 23), (5, 11, 52), (6, 5, 10), (7, 8, 7), (13, 5, 2)] → rm < 4 → a < 2 ^ tyWidth src →
    let env : FEnv := { rm, sat, ftz := false }
    let v : Int := if src % 2 = 0 ∧ 2 ^ (tyWidth src - 1) ≤ a then (a : Int) - 2 ^ tyWidth src else a
    (v ≠ 0 → RoundsWith ew fw rm sat 1 (v * 2 ^ unitExp ew fw) (cvtElem env src dst a)) ∧
    (v = 0 → cvtElem env src dst a = (0, 0))) ∧
  (∀ (src dst a : Nat) (env : FEnv), src ∈ [0, 1, 2, 3, 8, 9, 10, 11] → dst ∈ [0, 1, 2, 3, 8, 9, 10, 11] → a < 2 ^ tyWidth src →
    let v : Int := if src % 2 = 0 ∧ 2 ^ (tyWidth src - 1) ≤ a then (a : Int) - 2 ^ tyWidth src else a
    let w := tyWidth dst
    let lo : Int := if dst % 2 = 0 then -2 ^ (w - 1) else 0
    let hi : Int := if dst % 2 = 0 then 2 ^ (w - 1) - 1 else 2 ^ w - 1
    cvtElem env src dst a = (((if env.sat then max lo (min hi v) else v) % 2 ^ w).toNat, 0)) ∧
  (∀ sat, let env : FEnv := { rm := 0, sat, ftz := false }
    cvtElem env 4 12 0x43980000 = (0x7A, 16) ∧ cvtElem env 4 12 0x43960000 = (0x79, 16) ∧
    cvtElem env 4 12 0x43FA0000 = (0x7E, 4 + 16))

/-- R123: VDOT2 adds the exact products of the elements of a lane and the old d, and rounds once to F32 under RM; of integer
types the exact sum is wrapped or, with SAT, clamped to 32 bits. -/
def Claims.DotProductsRoundOnce : Prop :=
  (∀ (t ew fw n rm a b d : Nat) (sat : Bool), (t, ew, fw, n) ∈ [(6, 5, 10, 2), (7, 8, 7, 2), (13, 5, 2, 4)] → rm < 4 →
    let env : FEnv := { rm, sat, ftz := false }
    let w := 1 + ew + fw
    let elem := fun (x i : Nat) => x / 2 ^ (w * i) % 2 ^ w
    let k := 2 * unitExp ew fw
    (∀ i, i < n → imgFinite ew fw (elem a i) ∧ imgFinite ew fw (elem b i)) → imgFinite 8 23 d →
    let X := ((List.range n).map (fun i => imgUnits ew fw (elem a i) * imgUnits ew fw (elem b i))).sum * 2 ^ (149 - k) +
      imgUnits 8 23 d * 2 ^ (k - 149)
    X ≠ 0 → RoundsWith 8 23 rm sat (2 ^ (k - 149)) X (dotLane env t a b d)) ∧
  (∀ (t n a b d : Nat) (env : FEnv), (t, n) ∈ [(8, 2), (9, 2), (10, 4), (11, 4)] → d < 2 ^ 32 →
    let w := 32 / n
    let elem := fun (x i : Nat) => x / 2 ^ (w * i) % 2 ^ w
    let val := fun (w x : Nat) => if t % 2 = 0 ∧ 2 ^ (w - 1) ≤ x then (x : Int) - 2 ^ w else (x : Int)
    let lo : Int := if t % 2 = 0 then -2 ^ 31 else 0
    let hi : Int := if t % 2 = 0 then 2 ^ 31 - 1 else 2 ^ 32 - 1
    let v := ((List.range n).map (fun i => val w (elem a i) * val w (elem b i))).sum + val 32 d
    dotLane env t a b d = (((if env.sat then max lo (min hi v) else v) % 2 ^ 32).toNat, 0))

/-- What the elements of float types are: exact values rounded once, their flags, overflow, flushing, order, conversion. -/
def Obligations.FloatElements : Prop :=
  Claims.FiniteArithmeticRounds ∧
  Claims.InfiniteOperands ∧
  Claims.DenormalsAreFlushed ∧
  Claims.FloatsAreCompared ∧
  Claims.IntegralValues ∧
  Claims.ElementsAreConverted ∧
  Claims.DotProductsRoundOnce

/-- R110: VMULH writes the high 32 bits of the exact 64-bit product, of I32 or of N32 values; SAT, RM and the trap enables have
no effect, and no flag is raised. -/
def Obligations.HighHalvesOfProducts : Prop :=
  ∀ (s : State) (f : Focus) (d a b : Code) (stl : Stall) (lit : Option Word) (i : Instr) (y : Nat → Word), s.quiet f = true →
    let t := modeType (s.readMode f.wave)
    t < 2 → vOk (s.wave f.wave) d 1 = true → vOk (s.wave f.wave) a 1 = true →
    (i = .vmulhVV d a b stl ∧ vOk (s.wave f.wave) b 1 = true ∧ y = (fun L => s.readV f.wave b.toNat L) ∨
      i = .vmulhVS d a b stl lit ∧ typedOk t b = true ∧ litOnce [b] = true ∧ y = (fun _ => s.readSrc f.wave f.split lit b)) →
    let val : Word → Int := fun x => if t = 0 then x.toInt else x.toNat
    VectorResult i s f 3 1 d (s.active f.wave f.split) (fun L =>
      ((val (s.readV f.wave a.toNat L) * val (y L) / 2 ^ 32 % 2 ^ 32).toNat, 0))

/-- R111, R112: logic and bit fields on 32-bit registers, independent of type. -/
def Claims.VectorBitResults : Prop :=
  ∀ (s : State) (f : Focus) (d a b : Code) (stl : Stall) (lit : Option Word), s.quiet f = true →
    vOk (s.wave f.wave) d 1 = true → vOk (s.wave f.wave) a 1 = true →
    let m := s.active f.wave f.split
    let x := fun L => s.readV f.wave a.toNat L
    let o := fun L => s.readV f.wave d.toNat L
    let put := fun (i : Instr) (g : Nat → Word) =>
      VectorResult i s f 3 1 d m (fun L => ((g L).toNat, 0))
    ∀ (y : Nat → Word) (and or xor bfe bfi : Instr),
      (vOk (s.wave f.wave) b 1 = true ∧ y = (fun L => s.readV f.wave b.toNat L) ∧
        [and, or, xor, bfe, bfi] = [.vandVV d a b stl, .vorVV d a b stl, .vxorVV d a b stl, .vbfeVV d a b stl,
          .vbfiVV d a b stl] ∨
       srcOk false b = true ∧ litOnce [b] = true ∧ y = (fun _ => s.readSrc f.wave f.split lit b) ∧
        [and, or, xor, bfe, bfi] = [.vandVS d a b stl lit, .vorVS d a b stl lit, .vxorVS d a b stl lit,
          .vbfeVS d a b stl lit, .vbfiVS d a b stl lit]) →
      put and (fun L => x L &&& y L) ∧ put or (fun L => x L ||| y L) ∧ put xor (fun L => x L ^^^ y L) ∧
      put bfe (fun L =>
        let n := min ((y L).toNat / 256 % 64) 32
        let v := (x L).toNat / 2 ^ ((y L).toNat % 32) % 2 ^ n
        if (y L).getLsbD 16 = true ∧ 0 < n ∧ 2 ^ (n - 1) ≤ v then BitVec.ofInt 32 ((v : Int) - 2 ^ n) else BitVec.ofNat 32 v) ∧
      (∀ v : Nat → Word, (∀ L i, L < 64 → i < 32 → (v L).getLsbD i =
          let off := (y L).toNat % 32
          if off ≤ i ∧ i < off + min ((y L).toNat / 256 % 64) 32 then (x L).getLsbD (i - off) else (o L).getLsbD i) →
        put bfi v)

/-- R115, R118, R119: moves of 32-bit registers, which raise no flag and leave every bit pattern as it is. VSEL acts
on every lane of EXEC, and the guard chooses. -/
def Claims.VectorMoveResults : Prop :=
  ∀ (s : State) (f : Focus) (d a b : Code) (stl : Stall) (lit : Option Word), s.quiet f = true →
    vOk (s.wave f.wave) d 1 = true →
    let m := s.active f.wave f.split
    let rd := fun (c : Code) (L : Nat) => s.readV f.wave c.toNat L
    let sc := fun (_ : Nat) => s.readSrc f.wave f.split lit b
    let put := fun (i : Instr) (lat : Nat) (m : Mask) (g : Nat → Word) =>
      VectorResult i s f lat 1 d m (fun L => ((g L).toNat, 0))
    let g := fun L => (s.guardMask f.wave).getLsbD L
    let pick : Nat → Nat → Nat := fun p L =>
      if p = 0 then (if L % 2 = 0 then L + 1 else L - 1)
      else if p = 1 then (if L % 4 < 2 then L + 2 else L - 2)
      else if p = 2 then L / 4 * 4 + (3 - L % 4)
      else L / 4 * 4 + (p - 4)
    (srcOk false b = true → litOnce [b] = true →
      put (.vmovVS d b stl lit) 3 m sc ∧
      (∀ p : Code, p.toNat ∈ [0, 1, 2, 4, 5, 6, 7] → put (.vquadVS d b p stl lit) 5 m sc)) ∧
    (vOk (s.wave f.wave) a 1 = true →
      put (.vmovVV d a stl) 3 m (rd a) ∧
      (∀ p : Code, p.toNat ∈ [0, 1, 2, 4, 5, 6, 7] → put (.vquadVV d a p stl) 5 m (fun L => rd a (pick p.toNat L))) ∧
      (vOk (s.wave f.wave) b 1 = true →
        put (.vselVV d a b stl) 3 (s.readExec f.wave f.split) (fun L => if g L then rd a L else rd b L)) ∧
      (srcOk false b = true → litOnce [b] = true →
        put (.vselVS d a b stl lit) 3 (s.readExec f.wave f.split) (fun L => if g L then rd a L else sc L)))

/-- R119: the derivatives of VQUAD subtract two lanes of the quad as VSUB does. -/
def Claims.QuadDerivatives : Prop :=
  ∀ (s : State) (f : Focus) (d a p : Code) (stl : Stall) (lit : Option Word), s.quiet f = true →
    (s.wave f.wave).fpen = 0 → vOk (s.wave f.wave) d 1 = true →
    let t := modeType (s.readMode f.wave)
    t ∈ [4, 6, 7] →
    ∀ (x : Nat → Nat) (i : Instr),
      (vOk (s.wave f.wave) a 1 = true ∧ x = (fun L => s.readVn f.wave 1 a L) ∧ i = .vquadVV d a p stl ∨
       typedOk t a = true ∧ litOnce [a] = true ∧ x = (fun _ => s.readTyped f.wave f.split lit t a) ∧
        i = .vquadVS d a p stl lit) →
      let q := fun L => L / 4 * 4
      let sub := fun (hi lo : Nat → Nat) => VectorResult i s f 5 1 d (s.active f.wave f.split) (fun L =>
        byElems t (subElem (modeEnv (s.readMode f.wave)) t) (x (hi L)) (x (lo L)) 0)
      (p = 8 → sub (fun L => L / 2 * 2 + 1) (fun L => L / 2 * 2)) ∧
      (p = 9 → sub (fun L => q L + 2 + L % 2) (fun L => q L + L % 2)) ∧
      (p = 10 → sub (fun L => q L + 1) q) ∧
      (p = 11 → sub (fun L => q L + 2) q)

/-- What logic, bit fields, moves and quad operations of lanes write. -/
def Obligations.VectorBitsAndMoves : Prop :=
  Claims.VectorBitResults ∧ Claims.VectorMoveResults ∧ Claims.QuadDerivatives

/-- R120: VSHUF gives each lane of ACTIVE the register of the lane that bits 5:0 of B name, whatever that lane's own bit in
ACTIVE; in class 2 every lane reads the same one. -/
def Obligations.ShufflesTakeOtherLanes : Prop :=
  ∀ (s : State) (f : Focus) (d a b : Code) (stl : Stall) (lit : Option Word), s.quiet f = true →
    vOk (s.wave f.wave) d 1 = true → vOk (s.wave f.wave) a 1 = true →
    let put := fun (i : Instr) (lane : Nat → Nat) => VectorResult i s f 5 1 d (s.active f.wave f.split) (fun L =>
      ((s.readV f.wave a.toNat (lane L)).toNat, 0))
    (vOk (s.wave f.wave) b 1 = true →
      put (.vshufVV d a b stl) (fun L => ((s.readV f.wave b.toNat L).extractLsb' 0 6).toNat)) ∧
    (srcOk false b = true → litOnce [b] = true →
      put (.vshufVS d a b stl lit) (fun _ => ((s.readSrc f.wave f.split lit b).extractLsb' 0 6).toNat))

/-- R113, R35, R87: the compares. A test is of the order of the two values, −0 equal to +0; a NaN makes VCEQ, VCLT and
VCLE false and VCNE true. Only the bits of ACTIVE are written. -/
def Claims.CompareResults : Prop :=
  ∀ (s : State) (f : Focus) (d a b : Code) (stl : Stall) (lit : Option Word), s.quiet f = true →
    (s.wave f.wave).fpen = 0 → d.toNat < 9 →
    let t := modeType (s.readMode f.wave)
    let n := tyRegs t
    t < 6 → vOk (s.wave f.wave) a n = true →
    ∀ (y : Nat → Nat) (eq lt le ne : Instr),
      (vOk (s.wave f.wave) b n = true ∧ y = (fun L => s.readVn f.wave n b L) ∧
        [eq, lt, le, ne] = [.vceqVV d a b stl, .vcltVV d a b stl, .vcleVV d a b stl, .vcneVV d a b stl] ∨
       typedOk t b = true ∧ litOnce [b] = true ∧ y = (fun _ => s.readTyped f.wave f.split lit t b) ∧
        [eq, lt, le, ne] = [.vceqVS d a b stl lit, .vcltVS d a b stl lit, .vcleVS d a b stl lit,
          .vcneVS d a b stl lit]) →
      let x := fun L => s.readVn f.wave n a L
      let (ew, fw) := if t = 5 then (11, 52) else (8, 23)
      let float := t = 4 ∨ t = 5
      let flushed := fun v => float ∧ t = 4 ∧ (modeEnv (s.readMode f.wave)).ftz = true ∧ imgDenormal 8 23 v
      let key := fun (v : Nat) => if ¬ float then (if t % 2 = 0 ∧ 2 ^ (32 * n - 1) ≤ v then (v : Int) - 2 ^ (32 * n) else v)
        else if v % 2 ^ (ew + fw) = 0 ∨ flushed v then 0 else imgKey ew fw v
      let unordered := fun L => float ∧ (imgNan ew fw (x L) ∨ imgNan ew fw (y L))
      let fl := fun L => (if float ∧ (imgSignalling ew fw (x L) ∨ imgSignalling ew fw (y L)) then 1 else 0) +
        (if flushed (x L) ∨ flushed (y L) then 32 else 0)
      CompareResult eq s f d (fun L => ¬ unordered L ∧ key (x L) = key (y L)) fl ∧
      CompareResult lt s f d (fun L => ¬ unordered L ∧ key (x L) < key (y L)) fl ∧
      CompareResult le s f d (fun L => ¬ unordered L ∧ key (x L) ≤ key (y L)) fl ∧
      CompareResult ne s f d (fun L => unordered L ∨ key (x L) ≠ key (y L)) fl

/-- R114: VCLASS tests the class of a[L] against the set in b[L]; it does not flush and raises no flag. -/
def Claims.ClassTestResults : Prop :=
  ∀ (s : State) (f : Focus) (d a b : Code) (stl : Stall) (lit : Option Word), s.quiet f = true → d.toNat < 9 →
    let t := modeType (s.readMode f.wave)
    let n := tyRegs t
    vOk (s.wave f.wave) a n = true →
    ∀ (y : Nat → Nat) (i : Instr),
      (vOk (s.wave f.wave) b n = true ∧ y = (fun L => s.readVn f.wave n b L) ∧ i = .vclassVV d a b stl ∨
       typedOk t b = true ∧ litOnce [b] = true ∧ y = (fun _ => s.readTyped f.wave f.split lit t b) ∧
        i = .vclassVS d a b stl lit) →
      let x := fun L => s.readVn f.wave n a L
      (t = 4 → CompareResult i s f d (fun L =>
        let e := x L / 2 ^ 23 % 2 ^ 8
        let m := x L % 2 ^ 23
        let neg : Bool := 2 ^ 31 ≤ x L
        (y L).testBit (
          if e = 255 ∧ m ≠ 0 then (if m < 2 ^ 22 then 0 else 1)
          else if e = 255 then (if neg then 2 else 9)
          else if e ≠ 0 then (if neg then 3 else 8)
          else if m ≠ 0 then (if neg then 4 else 7)
          else (if neg then 5 else 6))) (fun _ => 0)) ∧
      (t = 5 → CompareResult i s f d (fun L => (y L).testBit (classOf fmtF64 (x L))) (fun _ => 0))

/-- What compares and class tests write to the bits of ACTIVE. -/
def Obligations.CompareResults : Prop :=
  Claims.CompareResults ∧ Claims.ClassTestResults

/-- R116: VUN. The functions of registers are those of SUN; LANEID and QUADID give the lane's number; the others act on
each element of the type. -/
def Claims.VectorFunctionResults : Prop :=
  ∀ (s : State) (f : Focus) (d a fn : Code) (stl : Stall) (lit : Option Word), s.quiet f = true →
    (s.wave f.wave).fpen = 0 →
    let t := modeType (s.readMode f.wave)
    let env := modeEnv (s.readMode f.wave)
    let m := s.active f.wave f.split
    ∀ (x : Nat → Nat → Nat) (ok : Nat → Bool) (i : Instr),
      (i = .vunVV d a fn stl ∧ x = (fun t L => s.readVn f.wave (tyRegs t) a L) ∧
        ok = (fun t => vOk (s.wave f.wave) a (tyRegs t)) ∨
       i = .vunVS d a fn stl lit ∧ x = (fun t _ => s.readTyped f.wave f.split lit t a) ∧
        ok = (fun t => litOnce [a] && typedOk t a)) →
      let reg := fun (g : Word → Word) => VectorResult i s f 3 1 d m (fun L => ((g (BitVec.ofNat 32 (x 0 L))).toNat, 0))
      let elem := fun (lat : Nat) => VectorResult i s f lat (tyRegs t) d m (fun L =>
        byElems t (vunElem fn.toNat env t) (x t L) 0 0)
      (vOk (s.wave f.wave) d 1 = true →
        (fn = 26 → VectorResult i s f 3 1 d m (fun L => (L, 0))) ∧
        (fn = 27 → VectorResult i s f 3 1 d m (fun L => (L / 4, 0)))) ∧
      (vOk (s.wave f.wave) d 1 = true → ok 0 = true →
        (fn = 2 → reg (fun v => ~~~ v)) ∧ (fn = 15 → reg (fun v => BitVec.ofNat 32 (popc v))) ∧
        (fn = 16 → reg (fun v => BitVec.ofNat 32 (clz v))) ∧ (fn = 17 → reg (fun v => BitVec.ofNat 32 (ctz v))) ∧
        (fn = 18 → reg (fun v => v.reverse)) ∧ (fn = 19 → reg (fun v => (v.setWidth 8).signExtend 32)) ∧
        (fn = 20 → reg (fun v => (v.setWidth 16).signExtend 32))) ∧
      (vOk (s.wave f.wave) d (tyRegs t) = true → ok t = true →
        (fn.toNat ∈ [0, 1] → t < 12 → elem 3) ∧
        (fn.toNat ∈ [3, 4, 5] → t ∈ [4, 5, 6, 7] → elem 7) ∧
        (fn.toNat ∈ [6, 7, 8, 9, 21] → t ∈ [4, 6, 7] → elem 7) ∧
        (fn.toNat ∈ [10, 11, 12, 13, 14] → t ∈ [4, 5, 6, 7] → elem 3) ∧
        (fn.toNat ∈ [22, 23] → t ∈ [4, 5] → elem 3))

/-- R72: the special inputs of the functions of VUN on F32, and the flags they raise: bit 0 IO, bit 1 DZ. Each row lists
RCP, RSQ, SQRT, EXP2, LOG2, SINPI, COSPI and TANH. -/
def Claims.FunctionsOfSpecialInputs : Prop :=
  ∀ (env : FEnv) (k : Nat), k < 8 →
    let fn := [3, 4, 5, 6, 7, 8, 9, 21].getD k 0
    let nan : LaneRes := (0x7FC00000, 1)
    let pinf := if env.sat then 0x7F7FFFFF else 0x7F800000
    let ninf := if env.sat then 0xFF7FFFFF else 0xFF800000
    let row := fun (x : Nat) (rs : List LaneRes) => ∀ y z, vunElem fn env 4 x y z = rs.getD k (0, 0)
    row 0 [(pinf, 2), (pinf, 2), (0, 0), (0x3F800000, 0), (ninf, 2), (0, 0), (0x3F800000, 0), (0, 0)] ∧
    row 0x80000000 [(ninf, 2), (ninf, 2), (0x80000000, 0), (0x3F800000, 0), (ninf, 2), (0x80000000, 0),
      (0x3F800000, 0), (0x80000000, 0)] ∧
    row 0x7F800000 [(0, 0), (0, 0), (pinf, 0), (pinf, 0), (pinf, 0), nan, nan, (0x3F800000, 0)] ∧
    row 0xFF800000 [(0x80000000, 0), nan, nan, (0, 0), nan, nan, nan, (0xBF800000, 0)] ∧
    row 0x7FC12345 (List.replicate 8 (0x7FC00000, 0)) ∧ row 0xFF812345 (List.replicate 8 nan)

/-- What the functions of VUN write, and their special inputs. -/
def Obligations.VectorFunctionResults : Prop :=
  Claims.VectorFunctionResults ∧ Claims.FunctionsOfSpecialInputs

/-- R117: VCVT converts N elements of each lane, source element i to destination element i, in the order of R59. -/
def Claims.ConversionResults : Prop :=
  ∀ (s : State) (f : Focus) (d a ty : Code) (stl : Stall) (lit : Option Word), s.quiet f = true →
    (s.wave f.wave).fpen = 0 →
    let src := ty.toNat
    let dst := modeType (s.readMode f.wave)
    let per := fun t => if tyWidth t = 64 then 1 else 32 / tyWidth t
    let n := max (per src) (per dst)
    let rs := max 1 (n * tyWidth src / 32)
    let rd := max 1 (n * tyWidth dst / 32)
    src < 14 → dst < 14 → vOk (s.wave f.wave) d rd = true →
    let put := fun (i : Instr) (x : Nat → Nat → Nat) => VectorResult i s f 3 rd d (s.active f.wave f.split) (fun L =>
      let es := (List.range n).map (fun k => cvtElem (modeEnv (s.readMode f.wave)) src dst (x L k))
      (packElems (tyWidth dst) (es.map Prod.fst), es.foldl (fun m e => m ||| e.2) 0))
    (vOk (s.wave f.wave) a rs = true →
      put (.vcvtVV d a ty stl) (fun L k => s.readVn f.wave rs a L / 2 ^ (tyWidth src * k) % 2 ^ tyWidth src)) ∧
    (typedOk src a = true → litOnce [a] = true →
      put (.vcvtVS d a ty stl lit)
        (fun _ k => s.readTyped f.wave f.split lit src a / 2 ^ (tyWidth src * (k % per src)) % 2 ^ tyWidth src))

/-- R122: VPFX. Each ACTIVE lane receives the accumulated value at it: that of the first ACTIVE lane is its own, and each
later one combines the accumulated value before it with its own. -/
def Claims.PrefixResults : Prop :=
  ∀ (s : State) (f : Focus) (d a fn : Code) (stl : Stall) (lit : Option Word), s.quiet f = true →
    (s.wave f.wave).fpen = 0 →
    let t := modeType (s.readMode f.wave)
    let env := modeEnv (s.readMode f.wave)
    let m := s.active f.wave f.split
    t < 5 → fn.toNat < 3 → vOk (s.wave f.wave) d (tyRegs t) = true →
    ∀ (x : Nat → Nat) (i : Instr),
      (i = .vpfxVV d a fn stl ∧ x = (fun L => s.readVn f.wave (tyRegs t) a L) ∧ vOk (s.wave f.wave) a (tyRegs t) = true ∨
       i = .vpfxVS d a fn stl lit ∧ x = (fun _ => s.readTyped f.wave f.split lit t a) ∧ litOnce [a] = true ∧
        typedOk t a = true) →
      let op := if fn = 0 then addElem env t else pickElem (fn = 1) env t
      ∃ g : Nat → LaneRes, VectorResult i s f 5 (tyRegs t) d m g ∧
        ∀ L, L < 64 → m.getLsbD L = true →
          (if ∃ k, k < L ∧ m.getLsbD k = true
           then ∀ k, k < L → m.getLsbD k = true → (∀ j, k < j → j < L → m.getLsbD j = false) →
             g L = byElems t op (g k).1 (x L) 0
           else (t < 4 → g L = (x L, 0)) ∧ (t = 4 →
             let e := x L / 2 ^ 23 % 256
             let fr := x L % 2 ^ 23
             g L = if e = 255 ∧ fr ≠ 0 then (0x7FC00000, if fr < 2 ^ 22 then 1 else 0)
               else if e = 0 ∧ fr ≠ 0 ∧ env.ftz = true then (x L / 2 ^ 31 * 2 ^ 31, 32)
               else (x L, 0)))

/-- R121: moves between a lane and a scalar. With no lane ACTIVE nothing is written. -/
def Claims.LaneMoveResults : Prop :=
  ∀ (s : State) (f : Focus) (d a b : Code) (stl : Stall) (lit : Option Word), s.quiet f = true →
    let m := s.active f.wave f.split
    let sb := s.readSrc f.wave f.split lit b
    let first := ((List.range 64).find? (fun L => m.getLsbD L)).getD 0
    let put := fun (i : Instr) (x : Word) => dstBad d x = false → Answers i s (fun t =>
      OnlyRegs s t f ∧ SameV s t f.wave ∧ SameP s t f.wave [] ∧ SameS s t f.wave [d.toNat] ∧
      (d.toNat < 96 → t.readsS f.wave d.toNat (s.clk + 5) x) ∧
      (d.toNat = 98 → (t.wave f.wave).mode = x ∧ t.readsMode f.wave (s.clk + 5) x) ∧
      (d.toNat = 96 → ((t.wave f.wave).split f.split).exec =
        (Dword.ofWords x (Dword.hi ((s.wave f.wave).split f.split).exec) &&& s.arm f.wave f.split)) ∧
      (d.toNat = 97 → ((t.wave f.wave).split f.split).exec =
        (Dword.ofWords (Dword.lo ((s.wave f.wave).split f.split).exec) x &&& s.arm f.wave f.split)) ∧
      (d.toNat = 96 ∨ d.toNat = 97 ∨ SameExec s t f) ∧ (d.toNat = 98 ∨ SameMode s t f.wave))
    let none := fun (i : Instr) => Answers i s (fun t =>
      OnlyRegs s t f ∧ SameV s t f.wave ∧ SameP s t f.wave [] ∧ SameS s t f.wave [] ∧ SameExec s t f ∧
      SameMode s t f.wave)
    (dstOk d = true → vOk (s.wave f.wave) a 1 = true →
      (m ≠ 0 → put (.vrfirst d a stl) (s.readV f.wave a.toNat first)) ∧ (m = 0 → none (.vrfirst d a stl)) ∧
      (srcOk false b = true → litOnce [b] = true →
        (m ≠ 0 → put (.vrlane d a b stl lit) (s.readV f.wave a.toNat (sb.toNat % 64))) ∧
        (m = 0 → none (.vrlane d a b stl lit)))) ∧
    (vOk (s.wave f.wave) d 1 = true → srcOk false a = true → srcOk false b = true → litOnce [a, b] = true →
      (m ≠ 0 → VectorResult (.vwlane d a b stl lit) s f 5 1 d (BitVec.ofNat 64 (2 ^ (sb.toNat % 64)))
        (fun _ => ((s.readSrc f.wave f.split lit a).toNat, 0))) ∧
      (m = 0 → none (.vwlane d a b stl lit)))

/-- What conversions, prefixes and moves between lane and scalar write. -/
def Obligations.ConversionsPrefixesAndLaneMoves : Prop :=
  Claims.ConversionResults ∧ Claims.PrefixResults ∧ Claims.LaneMoveResults

/-- R91, R99, R103: branches that do not divide, returns and jumps, NOP and YIELD. An offset counts words from the next
instruction; BRA looks at the lanes of EXEC. -/
def Claims.BranchesGoToTheirTarget : Prop :=
  ∀ (s : State) (f : Focus) (stl : Stall) (lit : Option Word), s.calm f = true →
    let goes := fun (i : Instr) (pc : Dword) => Answers i s (fun t => Goes s t f pc)
    (∀ (c : BitVec 4) (n h : BitVec 1) (o : BitVec 15),
      let goal := f.next + 4 * o.signExtend 64
      let p := s.readP f.wave (c.toNat - 8)
      let E := s.readExec f.wave f.split
      let T := E &&& (if n = 1 then ~~~ p else p)
      (c = 0 → goes (.bra c n h o stl) goal) ∧ (c ≠ 0 → T = 0 → goes (.bra c n h o stl) f.next) ∧
      (c ≠ 0 → T ≠ 0 → T = E → goes (.bra c n h o stl) goal)) ∧
    (∀ a b : Code, a.toNat < 95 → a.toNat % 2 = 0 →
      let x := s.readPair f.wave f.split lit a
      let late := fun (i : Instr) (pc : Dword) => Answers i s (fun t => Goes s t f pc ∧
        s.clk + max stl.toNat 4 ≤ ((t.wave f.wave).split f.split).next)
      (x.toNat % 4 = 0 → late (.ret a stl lit) x) ∧ (x.toNat % 4 ≠ 0 → Traps (.ret a stl lit) s f 5 f.pc x) ∧
      (srcOk false b = true →
        let y := x + 4 * (s.readSrc f.wave f.split lit b).setWidth 64
        (y.toNat % 4 = 0 → late (.jmpi a b stl lit) y) ∧ (y.toNat % 4 ≠ 0 → Traps (.jmpi a b stl lit) s f 5 f.pc y))) ∧
    goes (.nop stl) f.next ∧
    Answers (.yield stl) s (fun t => Goes s t f f.next ∧
      mapGet noIssue t.lastIssue (s.wave f.wave).port = (f.wave, f.split, true))

/-- R99, R30, R38: CALL links in s94:s95, and SETMODE writes MODE or, with one of bits 31:13 set, traps with ILLEGAL. -/
def Claims.CallLinksAndModeIsSet : Prop :=
  ∀ (s : State) (f : Focus) (stl : Stall) (o : BitVec 15) (imm : BitVec 21), s.calm f = true →
    Answers (.call o stl) s (fun t =>
      OnlyRegs s (t.setPc f f.next) f ∧ ((t.wave f.wave).split f.split).pc = f.next + 4 * o.signExtend 64 ∧
      SameV s t f.wave ∧ SameS s t f.wave [94, 95] ∧ SameP s t f.wave [] ∧ SameExec s t f ∧ SameMode s t f.wave ∧
      t.readsS f.wave 94 (s.clk + 1) (f.next.extractLsb' 0 32) ∧ t.readsS f.wave 95 (s.clk + 1) (f.next.extractLsb' 32 32)) ∧
    (imm.toNat < 2 ^ 13 → Answers (.setmode imm stl) s (fun t =>
      OnlyRegs s t f ∧ SameV s t f.wave ∧ SameS s t f.wave [] ∧ SameP s t f.wave [] ∧ SameExec s t f ∧
      (t.wave f.wave).csr.fpstat = (s.wave f.wave).csr.fpstat ∧ (t.wave f.wave).mode = imm.setWidth 32 ∧
      t.readsMode f.wave (s.clk + 1) (imm.setWidth 32))) ∧
    (2 ^ 13 ≤ imm.toNat → Traps (.setmode imm stl) s f 1 f.pc 0)

/-- R91, R86: a BRA whose lanes disagree divides its split. The hint chooses the arm that stays; the other goes to the
lowest FREE split, with a LINK to the topmost J of the stack, or, with no split FREE, to a P entry. -/
def Claims.BranchDividesTheSplit : Prop :=
  ∀ (s : State) (f : Focus) (stl : Stall) (c : BitVec 4) (n h : BitVec 1) (o : BitVec 15), s.calm f = true →
    f.split < 4 → (s.wave f.wave).splits.length = 5 → (s.wave f.wave).csr.handler = false → c ≠ 0 →
    let x := s.wave f.wave
    let sp := x.split f.split
    let p := s.readP f.wave (c.toNat - 8)
    let E := s.readExec f.wave f.split
    let T := E &&& (if n = 1 then ~~~ p else p)
    let F := E &&& ~~~ T
    let goal := f.next + 4 * o.signExtend 64
    let p1 := if h = 0 then goal else f.next
    let m1 := if h = 0 then T else F
    let p2 := if h = 0 then f.next else goal
    let m2 := if h = 0 then F else T
    T ≠ 0 → F ≠ 0 →
    (∀ k, k < 4 → k ≠ f.split → (x.split k).state = 0 → (∀ j, j < k → (x.split j).state ≠ 0) →
      Answers (.bra c n h o stl) s (fun t =>
        OnlySplits s t f [f.split, k] ∧
        (t.wave f.wave).split f.split = { sp with
          pc := p1, own := sp.own &&& ~~~ m2, exec := m1, next := ((t.wave f.wave).split f.split).next, wait := .none } ∧
        let q := (t.wave f.wave).split k
        q.pc = p2 ∧ q.own = m2 ∧ q.exec = m2 ∧ q.state = 1 ∧ q.wait = .none ∧ s.clk < q.next ∧
        ((∀ i, i < sp.depth → (s.stackAt f.wave f.split i).isJ = false) → q.depth = 0) ∧
        (∀ i, i < sp.depth → (s.stackAt f.wave f.split i).isJ = true →
          (∀ j, i < j → j < sp.depth → (s.stackAt f.wave f.split j).isJ = false) →
          let e := s.stackAt f.wave f.split i
          let l := mapGet Entry.zero q.stack 0
          q.depth = 1 ∧ l.kind = 3 ∧ l.mask = e.mask ∧ l.word.extractLsb' 2 53 = e.word.extractLsb' 2 53 ∧
          (e.kind = 3 → l.homeSplit = e.homeSplit ∧ l.homeDepth = e.homeDepth) ∧
          (e.kind = 1 → l.homeSplit = f.split ∧ l.homeDepth = i % 32)))) ∧
    ((∀ k, k < 4 → (x.split k).state ≠ 0) → sp.depth < 8 → Answers (.bra c n h o stl) s (fun t =>
      OnlySplits s t f [f.split] ∧
      let q := (t.wave f.wave).split f.split
      let e := mapGet Entry.zero q.stack sp.depth
      q = { sp with pc := p1, exec := m1, depth := sp.depth + 1, stack := q.stack, next := q.next, wait := .none } ∧
      e.kind = 2 ∧ e.mask = m2 ∧ e.word.extractLsb' 2 53 = p2.extractLsb' 2 53 ∧
      ∀ i, i ≠ sp.depth → mapGet Entry.zero q.stack i = mapGet Entry.zero sp.stack i)) ∧
    ((∀ k, k < 4 → (x.split k).state ≠ 0) → sp.depth = 32 → Traps (.bra c n h o stl) s f 15 f.pc 1)

/-- Branches, calls, returns, jumps, NOP, YIELD and SETMODE, and a BRA that divides its split. -/
def Obligations.BranchesGoToTheirTarget : Prop :=
  Claims.BranchesGoToTheirTarget ∧ Claims.CallLinksAndModeIsSet ∧ Claims.BranchDividesTheSplit

/-- R98: BRAZ goes to its target where the 32-bit value that it reads at issue is 0, a literal included, and BRANZ where it is
not; otherwise the next instruction follows. Neither looks at EXEC or divides its split. -/
def Obligations.ScalarBranches : Prop :=
  ∀ (s : State) (f : Focus) (stl : Stall) (lit : Option Word) (d : Code) (o : BitVec 14), s.calm f = true →
    srcOk false d = true →
    let goal := f.next + 4 * o.signExtend 64
    let x := s.readSrc f.wave f.split lit d
    Answers (.braz d o stl lit) s (fun t => Goes s t f (if x = 0 then goal else f.next)) ∧
    Answers (.branz d o stl lit) s (fun t => Goes s t f (if x = 0 then f.next else goal))

/-- R90, R91: SETJ pushes J HOME with EXEC and the join's address. Onto 8 core entries it first moves the bottom one to the
spill region, and holds the split for 16 clk; a spill region that does not take it, or a full stack, traps with DIVSTACK. -/
def Claims.JoinAddressIsPushed : Prop :=
  ∀ (s : State) (f : Focus) (stl : Stall) (o : BitVec 15), s.calm f = true →
    f.split < 4 → (s.wave f.wave).csr.handler = false →
    let sp := (s.wave f.wave).split f.split
    let d := sp.depth
    let goal := f.next + 4 * o.signExtend 64
    let top := fun (t : State) =>
      let q := (t.wave f.wave).split f.split
      let e := mapGet Entry.zero q.stack d
      q.pc = f.next ∧ q.depth = d + 1 ∧ q.own = sp.own ∧ q.exec = sp.exec ∧ q.state = sp.state ∧ e.kind = 1 ∧
      e.mask = s.readExec f.wave f.split ∧ e.word.extractLsb' 2 53 = goal.extractLsb' 2 53
    (d < 8 → Answers (.setj o stl) s (fun t => OnlySplits s t f [f.split] ∧ top t ∧
      ∀ i, i ≠ d → mapGet Entry.zero ((t.wave f.wave).split f.split).stack i = mapGet Entry.zero sp.stack i)) ∧
    (8 ≤ d → d < 32 → ∀ ps, s.spillPa f.wave f.split (d - 8) .write = some ps →
      Answers (.setj o stl) s (fun t => top t ∧ s.clk + 16 ≤ ((t.wave f.wave).split f.split).next ∧
        (∀ w, w ≠ f.wave → t.wave w = s.wave w) ∧
        (∀ i, i ≠ d → i ≠ d - 8 →
          mapGet Entry.zero ((t.wave f.wave).split f.split).stack i = mapGet Entry.zero sp.stack i) ∧
        t.readSpan ps = entryBytes (mapGet Entry.zero sp.stack (d - 8)) ∧
        (∃ pa m qa, ps = [(pa, 16)] ∨ m < 16 ∧ ps = [(pa, m), (qa, 16 - m)]) ∧
        ∀ a, (∀ p ∈ ps, a < p.1 ∨ p.1 + p.2 ≤ a) → t.readByte a = s.readByte a)) ∧
    (8 ≤ d → d < 32 → s.spillPa f.wave f.split (d - 8) .write = none → Traps (.setj o stl) s f 15 f.pc 3) ∧
    (d = 32 → Traps (.setj o stl) s f 15 f.pc 1)

/-- R92, R93: JOIN. With an empty stack it has no effect; a P entry on top is popped and run; a J of another address traps
with DIVSTACK 2; an arrival waits until the instance's home and every split with a LINK to it have arrived, and then the
home goes on with the lanes of all of them and the others become FREE. -/
def Claims.JoinReconverges : Prop :=
  ∀ (s : State) (f : Focus) (stl : Stall), s.calm f = true → f.split < 4 → (s.wave f.wave).splits.length = 5 →
    (s.wave f.wave).csr.handler = false →
    let x := s.wave f.wave
    let sp := x.split f.split
    let top := fun k => s.stackAt f.wave k ((x.split k).depth - 1)
    let e := top f.split
    let st := fun k => if k = f.split then 2 else (x.split k).state
    let h := if e.kind = 3 then e.homeSplit else f.split
    let pos := if e.kind = 3 then e.homeDepth else sp.depth - 1
    let link := fun (y : Entry) => y.kind = 3 ∧ y.homeSplit = h ∧ y.homeDepth = pos
    let linked := fun k => st k ≠ 0 ∧ ∃ i, i < (x.split k).depth ∧ link (s.stackAt f.wave k i)
    let complete := st h = 2 ∧ (x.split h).depth = pos + 1 ∧ (top h).kind = 1 ∧
      ∀ k, k < 4 → linked k → st k = 2 ∧ link (top k)
    (sp.depth = 0 → Answers (.join stl) s (fun t => Goes s t f f.next)) ∧
    (0 < sp.depth → sp.depth ≤ 8 → e.kind = 2 → Answers (.join stl) s (fun t => OnlySplits s t f [f.split] ∧
      let q := (t.wave f.wave).split f.split
      q.pc = e.target ∧ q.exec = e.mask ∧ q.depth = sp.depth - 1 ∧ q.own = sp.own ∧ q.state = sp.state)) ∧
    (0 < sp.depth → e.kind ∈ [1, 3] → e.target ≠ f.pc → Traps (.join stl) s f 15 f.pc 2) ∧
    (0 < sp.depth → e.kind ∈ [1, 3] → e.target = f.pc → ¬ complete → Answers (.join stl) s (fun t =>
      OnlySplits s t f [f.split] ∧ let q := (t.wave f.wave).split f.split
      q.state = 2 ∧ q.pc = f.next ∧ q.own = sp.own ∧ q.exec = sp.exec ∧ q.depth = sp.depth)) ∧
    (0 < sp.depth → e.kind ∈ [1, 3] → e.target = f.pc → complete → pos < 8 → Answers (.join stl) s (fun t =>
      OnlySplits s t f [0, 1, 2, 3] ∧
      let q := (t.wave f.wave).split h
      q.state = 1 ∧ q.pc = e.target + 4 ∧ q.depth = pos ∧ q.exec = (top h).mask &&& q.own ∧
      (∀ L, L < 64 → (q.own.getLsbD L = true ↔ (x.split h).own.getLsbD L = true ∨
        ∃ k, k < 4 ∧ linked k ∧ (x.split k).own.getLsbD L = true)) ∧
      (∀ k, k < 4 → linked k → ((t.wave f.wave).split k).state = 0 ∧ ((t.wave f.wave).split k).own = 0) ∧
      ∀ k, k < 4 → k ≠ h → ¬ linked k → k ≠ f.split → (t.wave f.wave).split k = x.split k))

/-- R100, R167: EXIT takes its lanes out of the split and out of every clause of which they are members. With EXEC = 0 it
only goes on; with lanes left in ARM the split goes on with none enabled; with an empty stack the split is FREE. -/
def Claims.ExitRemovesItsLanes : Prop :=
  ∀ (s : State) (f : Focus) (stl : Stall), s.calm f = true → f.split < 4 → (s.wave f.wave).splits.length = 5 →
    (s.wave f.wave).csr.handler = false →
    let x := s.wave f.wave
    let sp := x.split f.split
    let E := s.readExec f.wave f.split
    let left := s.arm f.wave f.split &&& ~~~ E
    let leaves := (List.range 8).filterMap (fun j =>
      let m := mapGet Memb.empty x.memb j
      if m.handle ≠ 0 ∧ m.mask &&& E ≠ 0 then some (m.handle, m.mask &&& E, f.split) else none)
    let out := fun (t : State) => (∀ w, w ≠ f.wave → t.wave w = s.wave w) ∧ t.mem = s.mem ∧
      (t.wave f.wave).v = x.v ∧ (t.wave f.wave).s = x.s ∧ (t.wave f.wave).p = x.p ∧ (t.wave f.wave).csr = x.csr ∧
      (∀ k, k ≠ f.split → (t.wave f.wave).split k = x.split k) ∧
      ∃ hs, (t.wave f.wave).hops = x.hops ++ hs ∧ hs.map (fun g => (g.hnd, g.act, g.split)) = leaves ∧
        ∀ g ∈ hs, g.op = .clleave 0 0 ∧ g.holding = false
    (E = 0 → Answers (.exit stl) s (fun t => Goes s t f f.next)) ∧
    (E ≠ 0 → left ≠ 0 → Answers (.exit stl) s (fun t => out t ∧ let q := (t.wave f.wave).split f.split
      q.pc = f.next ∧ q.own = sp.own &&& ~~~ E ∧ q.exec = 0 ∧ q.state = sp.state ∧ q.depth = sp.depth ∧
      t.gangs = s.gangs)) ∧
    (E ≠ 0 → left = 0 → sp.depth = 0 → Answers (.exit stl) s (fun t => out t ∧
      ((t.wave f.wave).split f.split).state = 0 ∧
      ((∃ k, k < 4 ∧ k ≠ f.split ∧ (x.split k).state ≠ 0) → t.gangs = s.gangs) ∧
      ((∀ k, k < 4 → k ≠ f.split → (x.split k).state = 0) → ∀ g, t.gang g =
        if g = x.gang then (s.gang g).endWave x.idx s.clk else s.gang g)))

/-- SETJ pushes a join, JOIN reconverges, EXIT takes lanes away. -/
def Obligations.SplitsJoinAndExit : Prop :=
  Claims.JoinAddressIsPushed ∧ Claims.JoinReconverges ∧ Claims.ExitRemovesItsLanes

/-- R101: SLEEP sends its split to sleep for min(c, 1,048,576) − 1 clk, after which the device wakes it at the next
instruction; SLEEP 0 acts as YIELD. That WAKE counts from the clk of issue is the model's choice (log 72). -/
def Claims.SleepAndWake : Prop :=
  (∀ (s : State) (f : Focus) (a : Code) (stl : Stall) (lit : Option Word), s.calm f = true → srcOk false a = true →
    (s.wave f.wave).csr.handler = false →
    let c := (s.readSrc f.wave f.split lit a).toNat
    (c = 0 → Answers (.sleep a stl lit) s (fun t => Goes s t f f.next)) ∧
    (c ≠ 0 → Answers (.sleep a stl lit) s (fun t => OnlySplits s t f [f.split] ∧
      (t.wave f.wave).split f.split = { (s.wave f.wave).split f.split with
        pc := f.next, state := 3, wake := min c 1048576 - 1, wakeAt := s.clk + (min c 1048576 - 1),
        next := ((t.wave f.wave).split f.split).next, wait := .none }))) ∧
  (∀ (s : State) (w k : Nat) (r : List Nat), s.nums = w :: k :: r → k < 4 → k < (s.wave w).splits.length →
    (s.wave w).running = true →
    (s.wave w).ra = none → ((s.wave w).split k).state = 3 → Answers .sleepWake s (fun t =>
      let due := max s.clk ((s.wave w).split k).wakeAt
      t = { s with waves := t.waves, clk := due } ∧ (∀ v, v ≠ w → t.wave v = s.wave v) ∧
      (∀ j, j ≠ k → (t.wave w).split j = (s.wave w).split j) ∧
      (t.wave w).split k = { (s.wave w).split k with
        state := 1, wake := 0, next := max ((s.wave w).split k).next due }))

/-- R102: REGGIVE gives blocks of registers back to the gang's pool, and REGCLAIM takes them, with every new register 0,
at once or when the pool holds them, oldest first; and both trap with REGCLAIM where the numbers do not allow it. That
TRAPARG [15:8] holds n modulo 256, and that a grant adds n without a second check, are the model's choices (log 63). -/
def Claims.RegisterBlocksMove : Prop :=
  (∀ (s : State) (f : Focus) (a : Code) (stl : Stall) (lit : Option Word), s.calm f = true → srcOk false a = true →
    (s.wave f.wave).csr.handler = false →
    let x := s.wave f.wave
    let n := (s.readSrc f.wave f.split lit a).toNat
    let others := ((s.gangOn x.gang x.core).filter (fun w => w ≠ f.wave)).length + s.unstarted x.gang x.core
    let quota := mapGet 0 (s.gang x.gang).quota x.core
    let blocks := fun (t : State) (b : Nat) => (t.wave f.wave).blocks = b ∧
      t = { s with waves := t.waves, ports := t.ports, lastIssue := t.lastIssue } ∧
      (∀ w, w ≠ f.wave → t.wave w = s.wave w) ∧ (t.wave f.wave).s = x.s ∧ (t.wave f.wave).p = x.p ∧
      (t.wave f.wave).csr = x.csr ∧ ((t.wave f.wave).split f.split).pc = f.next ∧
      ∀ r L, L < 64 → (r < 8 * min b x.blocks → t.vReg f.wave r L = s.vReg f.wave r L) ∧
        (8 * x.blocks ≤ r → x.blocks < b → t.vReg f.wave r L = 0)
    (n = 0 → Answers (.reggive a stl lit) s (fun t => Goes s t f f.next) ∧
      Answers (.regclaim a stl lit) s (fun t => Goes s t f f.next)) ∧
    (0 < n → n < x.blocks → x.targetsFrom (8 * (x.blocks - n)) = false →
      Answers (.reggive a stl lit) s (fun t => blocks t (x.blocks - n))) ∧
    (0 < n → x.blocks ≤ n → Traps (.reggive a stl lit) s f 0x18 f.pc (BitVec.ofNat 64 (1 + 256 * (n % 256)))) ∧
    (0 < n → x.blocks + n ≤ 16 → x.blocks + n + others ≤ quota → n ≤ s.pool x.gang x.core →
      s.olderClaim x.gang x.core s.orders = false →
      Answers (.regclaim a stl lit) s (fun t => blocks t (x.blocks + n))) ∧
    (0 < n → x.blocks + n ≤ 16 → x.blocks + n + others ≤ quota → s.pool x.gang x.core < n →
      Answers (.regclaim a stl lit) s (fun t => (∀ w, w ≠ f.wave → t.wave w = s.wave w) ∧ t.mem = s.mem ∧
        (t.wave f.wave).blocks = x.blocks ∧ (t.wave f.wave).v = x.v ∧ (t.wave f.wave).s = x.s ∧
        (f.split < x.splits.length → ((t.wave f.wave).split f.split).state = 4 ∧
          ((t.wave f.wave).split f.split).claim = some (n, s.orders, f.next, stl.toNat)))) ∧
    (0 < n → (16 < x.blocks + n ∨ quota < x.blocks + n + others) →
      Traps (.regclaim a stl lit) s f 0x18 f.pc (BitVec.ofNat 64 (2 + 256 * (n % 256))))) ∧
  (∀ (s : State) (w k n o S : Nat) (next : Dword) (r : List Nat), s.nums = w :: k :: r →
    k < (s.wave w).splits.length → (s.wave w).running = true → ((s.wave w).split k).state = 4 →
    ((s.wave w).split k).claim = some (n, o, next, S) → n ≤ s.pool (s.wave w).gang (s.wave w).core →
    s.olderClaim (s.wave w).gang (s.wave w).core o = false →
    Answers .regclaimGrant s (fun t => (t.wave w).blocks = (s.wave w).blocks + n ∧
      ((t.wave w).split k).state = 1 ∧ ((t.wave w).split k).claim = none ∧ ((t.wave w).split k).pc = next ∧
      ((t.wave w).split k).next = s.nextAfter w k S ∧
      (∀ v, v ≠ w → t.wave v = s.wave v) ∧ t.mem = s.mem ∧
      ∀ q L, L < 64 → t.vReg w q L = if q < 8 * (s.wave w).blocks then s.vReg w q L else 0))

/-- SLEEP and its waking, and the giving and claiming of register blocks. -/
def Obligations.SplitsSleepAndBlocksMove : Prop :=
  Claims.SleepAndWake ∧ Claims.RegisterBlocksMove

/-- R129, R130, R133, R134: the lane instructions of global memory and scratch put one operation on their path, with an
elementary access of at most 8 bytes for each part of each ACTIVE lane's datum; of loads it is signed for the size codes I8
and I16 (1 and 3) and for no other (R127); of stores to one place the highest lane's stands. Memory and registers are as before until the operation is performed. -/
def Claims.LaneMemoryInstructionsIssue : Prop :=
  ∀ (s : State) (f : Focus) (d a : Code) (z : BitVec 3) (m : BitVec 4) (stl : Stall), s.quiet f = true →
    z.toNat < 7 →
    let x := s.wave f.wave
    let n := [1, 1, 2, 2, 4, 8, 16].getD z.toNat 16
    let k := max 1 (n / 4)
    let parts := accessParts n
    let act := s.active f.wave f.split
    let live := s.live f.wave f.split
    let base := Dword.ofWords (s.readS f.wave (2 * m.toNat)) (s.readS f.wave (2 * m.toNat + 1))
    let off := fun L => s.readV f.wave a.toNat L
    let pair := fun L => Dword.ofWords (s.readV f.wave a.toNat L) (s.readV f.wave (a.toNat + 1) L)
    let scr := fun L => (off L + (if m = 15 then 0 else s.readS f.wave m.toNat)).toNat
    let bytes := fun L => leBytes n (s.readVn f.wave k d L)
    let translates := fun (acc : Access) (lanes : Mask) (va : Nat → Dword) (pa : Nat → Nat) =>
      ∀ L, L < 64 → lanes.getLsbD L = true → checkVa s (s.space f.wave) acc n (va L) = .ok (pa L)
    let inside := fun (lanes : Mask) => ∀ L, L < 64 → lanes.getLsbD L = true →
      scr L % n = 0 ∧ scr L + n ≤ x.csr.scrsize.toNat
    let loads := fun (i : Instr) (path : Nat) (scratch : Bool) (pa : Nat → Nat) => Answers i s (fun t =>
      ∃ o : Flight, PutFlight s t f o ∧ o.path = path ∧ o.kind = .load ∧ o.scratch = scratch ∧ o.dests = vRegs d k ∧
        (∀ c ∈ o.accs, c.sgn = (z = 1 || z = 3)) ∧
        o.accs.map Acc.loads = (Mask.lanes act).flatMap (fun L => parts.map (fun p => (L, pa L + p.1, p.2, d.toNat + p.1 / 4))))
    let stores := fun (i : Instr) (scratch : Bool) (pa : Nat → Nat) => Answers i s (fun t =>
      ∃ o : Flight, PutFlight s t f o ∧ o.path = 1 ∧ o.kind = .store ∧ o.scratch = scratch ∧ o.dests = [] ∧
        o.accs.map Acc.stores = ((Mask.lanes live).filter (fun L =>
          !((Mask.lanes live).any (fun j => decide (L < j) && decide (pa j = pa L))))).flatMap (fun L =>
            parts.map (fun p => (L, pa L + p.1, ((bytes L).drop p.1).take p.2))))
    vOk x d k = true →
    (∀ pa : Nat → Nat, vOk x a 1 = true → x.counter 0 < 63 → act ≠ 0 →
      translates .read act (fun L => base + (off L).setWidth 64) pa → loads (.ldg d a z m stl) 0 false pa) ∧
    (∀ pa : Nat → Nat, vOk x a 2 = true → x.counter 0 < 63 → act ≠ 0 →
      translates .read act pair pa → loads (.ldga d a z stl) 0 false pa) ∧
    (vOk x a 1 = true → x.counter 2 < 63 → act ≠ 0 → inside act → loads (.lds d a z m stl) 2 true scr) ∧
    (∀ pa : Nat → Nat, vOk x a 1 = true → x.counter 1 < 63 → live ≠ 0 →
      translates .write live (fun L => base + (off L).setWidth 64) pa → stores (.stg d a z m stl) false pa) ∧
    (∀ pa : Nat → Nat, vOk x a 2 = true → x.counter 1 < 63 → live ≠ 0 →
      translates .write live pair pa → stores (.stga d a z stl) false pa) ∧
    (vOk x a 1 = true → x.counter 1 < 63 → live ≠ 0 → inside live → stores (.sts d a z m stl) true scr) ∧
    (∀ pa : Nat → Nat, vOk x a 1 = true → x.counter 7 < 63 → live ≠ 0 → 4 ≤ z.toNat →
      translates .read live (fun L => base + (off L).setWidth 64) pa →
      (∀ L, L < 64 → live.getLsbD L = true → (s.readV f.wave d.toNat L).toNat % n = 0 ∧
        (s.readV f.wave d.toNat L).toNat + n ≤ x.csr.scrsize.toNat) →
      Answers (.ldgs d a z m stl) s (fun t => ∃ o : Flight, PutFlight s t f o ∧ o.path = 7 ∧ o.kind = .gs ∧ o.dests = [] ∧
        o.accs.map (fun c => (c.lane, c.pa, c.size, c.target)) = ((Mask.lanes live).filter (fun L =>
          !((Mask.lanes live).any (fun j => decide (L < j) && s.readV f.wave d.toNat j = s.readV f.wave d.toNat L)))).flatMap
            (fun L => parts.map (fun p => (L, pa L + p.1, p.2, (s.readV f.wave d.toNat L).toNat + p.1)))))

/-- R130, R135, R139, R140: scalar loads and stores, PREF, which only goes on, and CMAINT, on one page or several, whose ZERO is
a store of zeros; an empty set of lanes, or an empty range, does nothing. -/
def Claims.ScalarMemoryInstructionsIssue : Prop :=
  ∀ (s : State) (f : Focus) (d a b : Code) (stl : Stall) (lit : Option Word), s.calm f = true →
    let x := s.wave f.wave
    let A := s.readPair f.wave f.split lit a
    let B := s.readSrc f.wave f.split lit b
    (pairSrcOk false a = true → srcOk false b = true → litOnce [a, b] = true →
    (∀ (z : BitVec 3) (off : BitVec 24) (pa : Nat → Nat), z.toNat < 5 →
      let c := 2 ^ z.toNat
      let va := A + B.setWidth 64 + off.signExtend 64
      let n := min (4 * c) 16
      let parts := (List.range (max 1 (c / 4))).flatMap (fun i => (accessParts n).map (fun p => (i, p)))
      let fits := fun (acc : Access) => ∀ i, i < max 1 (c / 4) →
        checkVa s (s.space f.wave) acc n (va + BitVec.ofNat 64 (16 * i)) = .ok (pa i)
      d.toNat + c ≤ 96 → d.toNat % min c 2 = 0 →
      (x.counter 0 < 63 → fits .read → Answers (.sld d a b z off stl lit) s (fun t => ∃ o : Flight,
        PutFlight s t f o ∧ o.path = 0 ∧ o.kind = .sload ∧ o.scratch = false ∧
        o.dests = (List.range c).map (fun i => Reg.s (d.toNat + i)) ∧
        o.accs.map Acc.loads = parts.map (fun p => (0, pa p.1 + p.2.1, p.2.2, d.toNat + 4 * p.1 + p.2.1 / 4)))) ∧
      (x.counter 1 < 63 → fits .write → Answers (.sst d a b z off stl lit) s (fun t => ∃ o : Flight,
        PutFlight s t f o ∧ o.path = 1 ∧ o.kind = .store ∧ o.scratch = false ∧ o.dests = [] ∧
        o.accs.map Acc.stores = parts.map (fun p => (0, pa p.1 + p.2.1,
          (((List.range c).flatMap (fun i => leBytes 4 (s.readS f.wave (d.toNat + i)).toNat)).drop (16 * p.1 + p.2.1)).take
            p.2.2))))) ∧
    (∀ (op : BitVec 4) (pa : Nat), op.toNat < 4 → (op = 3 → s.mayPriv f = true) → A.toNat % 128 = 0 → B.toNat % 128 = 0 →
      (B = 0 → Answers (.cmaint a b op stl lit) s (fun t => Goes s t f f.next)) ∧
      (0 < B.toNat → A.toNat % 65536 + B.toNat ≤ 65536 → x.counter 1 < 63 →
        checkVa s (s.space f.wave) (if op = 2 then .write else .read) 1 A = .ok pa →
        Answers (.cmaint a b op stl lit) s (fun t => ∃ o : Flight, PutFlight s t f o ∧ o.path = 1 ∧
          o.kind = (if op = 2 then .store else .maint op.toNat) ∧ o.scratch = false ∧
          o.accs.map (fun c => (c.pa, c.size, c.data)) = (List.range (B.toNat / 128)).map (fun i =>
            (pa + 128 * i, 128, if op = 2 then List.replicate 128 0 else [])))) ∧
      (∀ pas : Nat → Nat, 0 < B.toNat → B.toNat ≤ 0x100000 → x.counter 1 < 63 →
        let first := 65536 - A.toNat % 65536
        (∀ j, (j = 0 ∨ first + 65536 * (j - 1) < B.toNat) → checkVa s (s.space f.wave) (if op = 2 then .write else .read) 1
          (A + BitVec.ofNat 64 (if j = 0 then 0 else first + 65536 * (j - 1))) = .ok (pas j)) →
        Answers (.cmaint a b op stl lit) s (fun t => ∃ o : Flight, PutFlight s t f o ∧ o.path = 1 ∧
          o.kind = (if op = 2 then .store else .maint op.toNat) ∧ o.scratch = false ∧
          o.accs.map (fun c => (c.pa, c.size, c.data)) = (List.range (B.toNat / 128)).map (fun i =>
            (if 128 * i < first then pas 0 + 128 * i
              else pas (1 + (128 * i - first) / 65536) + (128 * i - first) % 65536, 128,
             if op = 2 then List.replicate 128 0 else [])))))) ∧
    (∀ (m : BitVec 4) (z3 : BitVec 3) (own : BitVec 1) (lv2 : BitVec 2), s.quiet f = true → vOk x a 1 = true →
      Answers (.pref a m lv2 own stl) s (fun t => Goes s t f f.next) ∧
      (s.active f.wave f.split = 0 → vOk x d (max 1 ([1, 1, 2, 2, 4, 8, 16].getD z3.toNat 16 / 4)) = true →
        Answers (.ldg d a z3 m stl) s (fun t => Goes s t f f.next) ∧
        Answers (.stg d a z3 m stl) s (fun t => Goes s t f f.next)))

/-- R136, R137: an atomic puts one operation on LD or SCR where it returns values, and on ST where it does not, with one
access for each ACTIVE lane: its operand is D and its compare value CMP. -/
def Claims.AtomicsIssue : Prop :=
  ∀ (s : State) (f : Focus) (d a : Code) (m kind : BitVec 4) (scope : BitVec 3) (w64 ret : BitVec 1) (cmp : BitVec 7)
    (stl : Stall), s.quiet f = true →
    let x := s.wave f.wave
    let k := if w64 = 1 then 2 else 1
    let act := s.live f.wave f.split
    let dests := if ret = 1 then vRegs d k else []
    act ≠ 0 → vOk x d k = true → vOk x a 1 = true → (kind = 10 → vOk x cmp k = true) →
    let puts := fun (i : Instr) (path : Nat) (scratch : Bool) (pa : Nat → Nat) => x.counter path < 63 →
      Answers i s (fun t => ∃ o : Flight, PutFlight s t f o ∧ o.path = path ∧ o.scratch = scratch ∧ o.dests = dests ∧
        o.kind = .atom kind.toNat (4 * k) (ret = 1) ∧
        o.accs.map (fun c => (c.lane, c.pa, c.size, c.reg, leNat c.data)) = (Mask.lanes act).map (fun L =>
          (L, pa L, 4 * k, d.toNat, s.readVn f.wave k d L)) ∧
        (kind = 10 → o.accs.map (fun c => leNat c.cmp) = (Mask.lanes act).map (fun L => s.readVn f.wave k cmp L)))
    (∀ pa : Nat → Nat, (∀ L, L < 64 → act.getLsbD L = true →
        checkVa s (s.space f.wave) .readWrite (4 * k) (Dword.ofWords (s.readS f.wave (2 * m.toNat))
          (s.readS f.wave (2 * m.toNat + 1)) + (s.readV f.wave a.toNat L).setWidth 64) = .ok (pa L)) →
      puts (.atomg d a m kind scope w64 ret cmp stl) (if ret = 1 then 0 else 1) false pa) ∧
    (let scr := fun L => (s.readV f.wave a.toNat L + (if m = 15 then 0 else s.readS f.wave m.toNat)).toNat
     (∀ L, L < 64 → act.getLsbD L = true → scr L % (4 * k) = 0 ∧ scr L + 4 * k ≤ x.csr.scrsize.toNat) →
      puts (.atoms d a m kind scope w64 ret cmp stl) (if ret = 1 then 2 else 1) true scr)

/-- What loads, stores, atomics, PREF and CMAINT put on their path. -/
def Obligations.MemoryInstructionsIssue : Prop :=
  Claims.LaneMemoryInstructionsIssue ∧ Claims.ScalarMemoryInstructionsIssue ∧ Claims.AtomicsIssue

/-- R126, R129, R130, R131, R133, R135: LOAD_RETURN of a load of memory or scratch brings the bytes at each access's place,
little-endian and extended by its size, to the lane's register, or of SLD to the scalar registers; nothing else is written,
and the operation is complete. -/
def Claims.LoadsReturnWhatMemoryHolds : Prop :=
  (∀ (s : State) (w : Nat) (a : Flight), s.nums = [w, a.path, 0] → Alone s w a → a.kind = .load →
    let byte := fun p => if a.scratch then mapGet 0 (s.gang (s.wave w).gang).scratch p else s.readByte p
    (∀ c ∈ a.accs, c.lane < 64 ∧ c.size ∈ [1, 2, 4, 8]) →
    (∀ c ∈ a.accs, ∀ e ∈ a.accs, c ≠ e → c.lane ≠ e.lane ∨ c.reg + max 1 (c.size / 4) ≤ e.reg ∨
      e.reg + max 1 (e.size / 4) ≤ c.reg) →
    Answers .loadReturn s (fun t => Completed s t w a ∧ t = { s with waves := t.waves } ∧ (t.wave w).s = (s.wave w).s ∧
      (∀ c ∈ a.accs, 4 ≤ c.size → ∀ i, i < c.size / 4 → ∀ j, j < 4 →
        (t.vReg w (c.reg + i) c.lane).extractLsb' (8 * j) 8 = byte (c.pa + 4 * i + j)) ∧
      (∀ c ∈ a.accs, c.size = 2 → t.vReg w c.reg c.lane =
        if c.sgn then (byte (c.pa + 1) ++ byte c.pa).signExtend 32
        else (byte (c.pa + 1) ++ byte c.pa).setWidth 32) ∧
      (∀ c ∈ a.accs, c.size = 1 → t.vReg w c.reg c.lane =
        if c.sgn then (byte c.pa).signExtend 32 else (byte c.pa).setWidth 32) ∧
      ∀ r L, L < 64 → (∀ c ∈ a.accs, L ≠ c.lane ∨ r < c.reg ∨ c.reg + max 1 (c.size / 4) ≤ r) →
        t.vReg w r L = s.vReg w r L)) ∧
  (∀ (s : State) (w : Nat) (a : Flight), s.nums = [w, a.path, 0] → Alone s w a → a.kind = .sload → a.scratch = false →
    (∀ c ∈ a.accs, c.sgn = false ∧ c.size ∈ [1, 2, 4, 8]) →
    (∀ c ∈ a.accs, ∀ e ∈ a.accs, c ≠ e → c.reg + max 1 (c.size / 4) ≤ e.reg ∨ e.reg + max 1 (e.size / 4) ≤ c.reg) →
    Answers .loadReturn s (fun t => Completed s t w a ∧ t = { s with waves := t.waves } ∧ (t.wave w).v = (s.wave w).v ∧
      (∀ c ∈ a.accs, ∀ i, i < max 1 (c.size / 4) → ∀ j, j < 4 →
        (t.sReg w (c.reg + i)).extractLsb' (8 * j) 8 = if 4 * i + j < c.size then s.readByte (c.pa + 4 * i + j) else 0) ∧
      ∀ r, (∀ c ∈ a.accs, r < c.reg ∨ c.reg + max 1 (c.size / 4) ≤ r) → t.sReg w r = s.sReg w r))

/-- R126, R129, R133, R134, R140, R141: STORE_PERFORMED of a store leaves every byte of its accesses in memory, or in the gang's
scratch window, and every other byte as before; LDGS brings bytes of memory to the window; CMAINT's EVICT (1) and FLUSH (3)
discard the shared copies of their lines from the wave's cluster and from all, and change no byte. Each is then complete. -/
def Claims.StoresReachMemory : Prop :=
  (∀ (s : State) (w : Nat) (a : Flight), s.nums = [w] → Alone s w a → a.kind = .store → a.scratch = false → a.path = 1 →
    (∀ c ∈ a.accs, c.data.length = c.size) →
    (∀ c ∈ a.accs, ∀ e ∈ a.accs, c ≠ e → c.pa + c.size ≤ e.pa ∨ e.pa + e.size ≤ c.pa) →
    Answers .storePerformed s (fun t => Completed s t w a ∧ t = { s with waves := t.waves, mem := t.mem } ∧
      (t.wave w).v = (s.wave w).v ∧ (t.wave w).s = (s.wave w).s ∧
      (∀ c ∈ a.accs, ∀ i, i < c.size → t.readByte (c.pa + i) = c.data.getD i 0) ∧
      ∀ p, (∀ c ∈ a.accs, p < c.pa ∨ c.pa + c.size ≤ p) → t.readByte p = s.readByte p)) ∧
  (∀ (s : State) (w : Nat) (a : Flight), Alone s w a →
    (s.nums = [w] ∧ a.kind = .store ∧ a.scratch = true ∧ a.path = 1 ∨
      s.nums = [w, a.path, 0] ∧ a.kind = .gs ∧ a.scratch = false ∧ ∀ c ∈ a.accs, c.size % 4 = 0) →
    let g := (s.wave w).gang
    let to_ := fun (c : Acc) => if a.scratch then c.pa else c.target
    let byte := fun (c : Acc) (i : Nat) => if a.scratch then c.data.getD i 0 else s.readByte (c.pa + i)
    (a.scratch = true → ∀ c ∈ a.accs, c.data.length = c.size) →
    (∀ c ∈ a.accs, ∀ e ∈ a.accs, c ≠ e → to_ c + c.size ≤ to_ e ∨ to_ e + e.size ≤ to_ c) →
    Answers (if a.scratch then .storePerformed else .loadReturn) s (fun t =>
      Completed s t w a ∧ t = { s with waves := t.waves, gangs := t.gangs } ∧
      (t.wave w).v = (s.wave w).v ∧ (t.wave w).s = (s.wave w).s ∧ (∀ k, k ≠ g → t.gang k = s.gang k) ∧
      t.gang g = { s.gang g with scratch := (t.gang g).scratch } ∧
      (∀ c ∈ a.accs, ∀ i, i < c.size → mapGet 0 (t.gang g).scratch (to_ c + i) = byte c i) ∧
      ∀ p, (∀ c ∈ a.accs, p < to_ c ∨ to_ c + c.size ≤ p) →
        mapGet 0 (t.gang g).scratch p = mapGet 0 (s.gang g).scratch p)) ∧
  (∀ (s : State) (w op : Nat) (a : Flight), s.nums = [w] → (s.wave w).flight = [a] → (s.wave w).hops = [] →
    (s.wave w).ra = none → a.lanesLeft = 0 → s.badScratch = [] → a.kind = .maint op → op ∈ [0, 1, 3] → a.scratch = false →
    a.path = 1 → (∀ c ∈ a.accs, c.fixed = false ∧ s.lineOwned (c.pa / 128) = false) → a.accs.Nodup →
    Answers .storePerformed s (fun t => Completed s t w a ∧ t = { s with waves := t.waves, clusters := t.clusters } ∧
      (t.wave w).v = (s.wave w).v ∧ (t.wave w).s = (s.wave w).s ∧
      ∀ k, t.cluster k = { s.cluster k with copies := (t.cluster k).copies } ∧
        ∀ l, mapGet [] (t.cluster k).copies l =
          if (op = 1 ∧ k = (s.wave w).cluster ∨ op = 3) ∧ ∃ c ∈ a.accs, c.pa / 128 = l then []
          else mapGet [] (s.cluster k).copies l))

/-- R137: an atomic on one word, of memory or scratch: its lanes act in ascending order, each reads what the one before left and
receives it where values return, and the word holds what the last one left. -/
def Claims.AtomicsReadModifyWrite : Prop :=
  (∀ (s : State) (w kind n pa : Nat) (ret : Bool) (a : Flight), Alone s w a → a.kind = .atom kind n ret →
    n ∈ [4, 8] → (∀ c ∈ a.accs, c.pa = pa ∧ c.size = n ∧ c.lane < 64) →
    (a.accs.map Acc.lane).Nodup →
    let g := (s.wave w).gang
    let byte := fun (t : State) p => if a.scratch then mapGet 0 (t.gang g).scratch p else t.readByte p
    let word := fun (t : State) => leNat ((List.range n).map (fun i => byte t (pa + i)))
    let run := fun (cs : List Acc) => cs.foldl (fun old c =>
      atomVal kind n old (leNat c.data) (leNat c.cmp) % 2 ^ (8 * n)) (word s)
    let acts := fun (t : State) => Completed s t w a ∧ t = { s with waves := t.waves, mem := t.mem, gangs := t.gangs } ∧
      (t.wave w).s = (s.wave w).s ∧ (a.accs ≠ [] → word t = run a.accs) ∧
      (if a.scratch then t.mem = s.mem else t.gangs = s.gangs) ∧
      ∀ p, p < pa ∨ pa + n ≤ p → byte t p = byte s p
    (ret = true → s.nums = [w, a.path, 0] → Answers .loadReturn s (fun t => acts t ∧
      (∀ i c, a.accs[i]? = some c → ∀ j, j < n / 4 →
        t.vReg w (c.reg + j) c.lane = BitVec.ofNat 32 (run (a.accs.take i) / 2 ^ (32 * j))) ∧
      ∀ r L, L < 64 → (∀ c ∈ a.accs, L ≠ c.lane ∨ r < c.reg ∨ c.reg + n / 4 ≤ r) → t.vReg w r L = s.vReg w r L)) ∧
    (ret = false → a.path = 1 → s.nums = [w] → Answers .storePerformed s (fun t => acts t ∧
      (t.wave w).v = (s.wave w).v))) ∧
  (∀ (kind n old v c : Nat), n ∈ [4, 8] → old < 2 ^ (8 * n) → v < 2 ^ (8 * n) → c < 2 ^ (8 * n) →
    let w := 8 * n
    let val := fun (x : Nat) => if 2 ^ (w - 1) ≤ x then (x : Int) - 2 ^ w else (x : Int)
    (kind = 0 → atomVal kind n old v c = (old + v) % 2 ^ w) ∧
    (kind = 1 → ((atomVal kind n old v c : Nat) : Int) = ((old : Int) - v) % 2 ^ w) ∧
    (kind = 2 → atomVal kind n old v c = if val old ≤ val v then old else v) ∧
    (kind = 3 → atomVal kind n old v c = if val v ≤ val old then old else v) ∧
    (kind = 4 → atomVal kind n old v c = min old v) ∧ (kind = 5 → atomVal kind n old v c = max old v) ∧
    (kind = 6 → ∀ i, (atomVal kind n old v c).testBit i = (old.testBit i && v.testBit i)) ∧
    (kind = 7 → ∀ i, (atomVal kind n old v c).testBit i = (old.testBit i || v.testBit i)) ∧
    (kind = 8 → ∀ i, (atomVal kind n old v c).testBit i = (old.testBit i ^^ v.testBit i)) ∧
    (kind = 9 → atomVal kind n old v c = v) ∧ (kind = 10 → atomVal kind n old v c = if old = c then v else old) ∧
    (kind = 14 → atomVal kind n old v c = if v ≤ old then 0 else old + 1))

/-- R137: the atomics of F32. FADD is the sum rounded to nearest, denormals kept, an overflow an infinity; FMIN and FMAX are the
lesser and the greater, −0 below +0, a NaN giving the other operand. -/
def Claims.FloatAtomics : Prop :=
  ∀ (old v c : Nat), old < 2 ^ 32 → v < 2 ^ 32 →
    let u := imgUnits 8 23
    let key := imgKey 8 23
    let nan := imgNan 8 23
    (imgFinite 8 23 old → imgFinite 8 23 v → u old + u v ≠ 0 → ∃ fl, RoundsWith 8 23 0 false 1 (u old + u v)
      (atomVal 11 4 old v c, fl)) ∧
    (imgFinite 8 23 old → imgFinite 8 23 v → u old + u v = 0 →
      atomVal 11 4 old v c = if old = 2 ^ 31 ∧ v = 2 ^ 31 then 2 ^ 31 else 0) ∧
    (nan old ∨ nan v → atomVal 11 4 old v c = 0x7FC00000) ∧
    (¬ nan old → ¬ nan v → atomVal 12 4 old v c = (if key old ≤ key v then old else v) ∧
      atomVal 13 4 old v c = (if key v ≤ key old then old else v)) ∧
    (∀ kind ∈ [12, 13], (nan old → ¬ nan v → atomVal kind 4 old v c = v) ∧ (¬ nan old → nan v → atomVal kind 4 old v c = old) ∧
      (nan old → nan v → atomVal kind 4 old v c = 0x7FC00000))

/-- R132, R141: an operation that meets an uncorrectable sector writes nothing and counts as complete, and its trap is to
come, with TRAPARG the sector's first address and the path; and a discarded shared copy of a line is gone. -/
def Claims.UncorrectableOperationsAndSharedCopies : Prop :=
  (∀ (s : State) (w place va : Nat) (a : Flight) (path : Nat), s.nums = [w, path, place] →
    (s.wave w).onPath path place = some a → s.flightBad w a = some va → (s.wave w).ra = none →
    Answers .memUncorr s (fun t => t = { s with waves := t.waves } ∧ (∀ v, v ≠ w → t.wave v = s.wave v) ∧
      (t.wave w).v = (s.wave w).v ∧ (t.wave w).s = (s.wave w).s ∧ (t.wave w).splits = (s.wave w).splits ∧
      (t.wave w).uncs = (s.wave w).uncs ++
        [{ path, regs := a.dests, cause := 8, arg := BitVec.ofNat 64 (va % 2 ^ 55 + 2 ^ 61 * path),
           later := ((s.wave w).flight.filter (fun b => b.path = path && decide (a.seq < b.seq))).length }] ∧
      ∀ b ∈ (t.wave w).flight, b.seq = a.seq → b.accs = [])) ∧
  (∀ (s : State) (c line : Nat), s.nums = [c, line] → Answers .sharedCopyDiscard s (fun t =>
    t = { s with clusters := t.clusters } ∧ (∀ k, k ≠ c → t.cluster k = s.cluster k) ∧
    t.cluster c = { s.cluster c with copies := (t.cluster c).copies } ∧
    ∀ l, mapGet [] (t.cluster c).copies l = if l = line then [] else mapGet [] (s.cluster c).copies l))

/-- What performing loads, stores and atomics does to registers and memory. -/
def Obligations.OperationsArePerformed : Prop :=
  Claims.LoadsReturnWhatMemoryHolds ∧
  Claims.StoresReachMemory ∧
  Claims.AtomicsReadModifyWrite ∧
  Claims.FloatAtomics ∧
  Claims.UncorrectableOperationsAndSharedCopies

/-- R128: the order in which the lanes of a global access are checked. The lowest lane that fails the first item that any
lane fails gives the trap: PROT of an address that is not canonical, MISALIGN, then a page that does not translate, then
PROT of a page that does not permit the access; TRAPARG is that lane's address. -/
def Obligations.LaneAddressesAreCheckedInOrder : Prop :=
  ∀ (s : State) (f : Focus) (d a : Code) (z : BitVec 3) (stl : Stall) (L : Nat), s.quiet f = true → z.toNat < 7 →
    let x := s.wave f.wave
    let n := [1, 1, 2, 2, 4, 8, 16].getD z.toNat 16
    let act := s.active f.wave f.split
    let va := fun L => Dword.ofWords (s.readV f.wave a.toNat L) (s.readV f.wave (a.toNat + 1) L)
    let every := fun (p : Nat → Prop) => ∀ j, j < 64 → act.getLsbD j = true → p j
    let lowest := fun (p : Nat → Prop) => ¬ p L ∧ ∀ j, j < L → act.getLsbD j = true → p j
    let good := fun j => canonical (va j) = true
    let even := fun j => (va j).toNat % n = 0
    let there := fun (j : Nat) => ∃ pa e, translate s (s.space f.wave) (va j) = .ok pa e
    let may := fun (acc : Access) (j : Nat) => ∀ pa e, translate s (s.space f.wave) (va j) = .ok pa e →
      permitted s (s.space f.wave) acc pa e = true
    vOk x d (max 1 (n / 4)) = true → vOk x a 2 = true → L < 64 → act.getLsbD L = true → x.counter 0 < 63 →
    let i := Instr.ldga d a z stl
    (lowest good → Traps i s f 7 f.pc (va L)) ∧
    (every good → lowest even → Traps i s f 5 f.pc (va L)) ∧
    (every good → every even → lowest there → x.csr.wavectl.getLsbD 1 = true →
      s.hasMerge (sectionOf x.cluster) x.csr.asid (pageOf (va L)) = false → s.mergeFull (sectionOf x.cluster) = false →
      Answers i s (fun t => t.mem = s.mem ∧ (t.wave f.wave).flight = x.flight ∧
        ((t.wave f.wave).split f.split) = { x.split f.split with
          wait := .merge x.csr.asid (pageOf (va L)) (va L) } ∧
        t.merges = s.merges ++ [{ sec := sectionOf x.cluster, asid := x.csr.asid, page := pageOf (va L) }] ∧
        ∃ r, t.faults = s.faults ++ [r] ∧ r.va = va L ∧ r.asid = x.csr.asid ∧ r.access = 1)) ∧
    (every good → every even → every there → lowest (may .read) → Traps i s f 7 f.pc (va L))

/-- R280, R284, R48: taking a trap. TRAP, BRK and an unassigned encoding enter the wave's handler with their cause: SWTRAP
(0x11) with the next instruction's address and the operand, BRK (0x10) and ILLEGAL (0x01) with their own address. -/
def Claims.TrapEntersTheHandler : Prop :=
  ∀ (s : State) (f : Focus) (a : Code) (stl : Stall) (lit : Option Word) (u : Word), s.calm f = true → f.split < 4 →
    (s.wave f.wave).splits.length = 5 → (s.wave f.wave).csr.handler = false → (s.wave f.wave).csr.trapvec ≠ 0 →
    s.nlBusy f.wave = false →
    (srcOk false a = true → Answers (.trap a stl lit) s (fun t =>
      Entered s t f 0x11 f.next ((s.readSrc f.wave f.split lit a).setWidth 64))) ∧
    Answers (.brk stl) s (fun t => Entered s t f 0x10 f.pc 0) ∧
    Answers (.unassignedEncoding u) s (fun t => Entered s t f 0x01 f.pc 0)

/-- R283: a trap in handler mode kills the wave with a record of KIND 5, a trap while TRAPVEC is 0 kills it without one, and
so does HALT; FIRMWARE_KILL kills a wave that is there, with a record. -/
def Claims.WavesDie : Prop :=
  (∀ (s : State) (f : Focus) (stl : Stall), s.calm f = true →
    ((s.wave f.wave).csr.handler = true → Answers (.brk stl) s (fun t => Dead t f.wave ∧ t.mem = s.mem ∧
      ∃ r, t.faults = s.faults ++ [r] ∧ r.kind = 5 ∧ r.cause = 0x10 ∧ r.launchid = (s.wave f.wave).csr.launchid)) ∧
    ((s.wave f.wave).csr.handler = false → (s.wave f.wave).csr.trapvec = 0 →
      Answers (.brk stl) s (fun t => Dead t f.wave ∧ t.mem = s.mem ∧ t.faults = s.faults)) ∧
    (s.mayPriv f = true → Answers (.halt stl) s (fun t => Dead t f.wave ∧ t.mem = s.mem ∧ t.faults = s.faults))) ∧
  (∀ (s : State) (w : Nat), s.nums = [w] → (s.wave w).died = false →
    ((s.wave w).life = .parked ∨ (s.wave w).life = .resident ∧ (s.wave w).ended = false) →
    Answers .firmwareKill s (fun t => Dead t w ∧ t.mem = s.mem ∧
      ∃ r, t.faults = s.faults ++ [r] ∧ r.kind = 5 ∧ r.launchid = (s.wave w).csr.launchid))

/-- R281: RTE with a sound split table restores s88 to s95 and MODE and leaves handler mode; the split that raised the trap
goes on at TRAPPC. With an unsound one the wave dies, and outside handler mode RTE is ILLEGAL. -/
def Claims.ReturnFromTrap : Prop :=
  ∀ (s : State) (f : Focus) (stl : Stall), s.calm f = true → (s.wave f.wave).splits.length = 5 →
    let x := s.wave f.wave
    (x.csr.handler = true → f.split = 4 → s.tableOk f.wave = true → x.nextPend = none → (∃ k, k < 4 ∧ (x.split k).state ≠ 0) →
      Answers (.rte stl) s (fun t =>
        t = { s with waves := t.waves, ports := t.ports, lastIssue := t.lastIssue } ∧
        (∀ w, w ≠ f.wave → t.wave w = s.wave w) ∧ (t.wave f.wave).v = x.v ∧ (t.wave f.wave).p = x.p ∧
        (t.wave f.wave).mode = x.csr.tsavemode ∧ (t.wave f.wave).csr = { x.csr with handler := false } ∧
        (∀ n, t.sReg f.wave n = if 88 ≤ n ∧ n < 96 then x.csr.tsave.getD (n - 88) 0 else s.sReg f.wave n) ∧
        (t.wave f.wave).preempt = (x.preempt || x.preemptLater) ∧
        ∀ k, k < 4 → ((t.wave f.wave).split k).pc = (if k = x.csr.trapsplit then x.csr.trappc else (x.split k).pc) ∧
          ((t.wave f.wave).split k).exec = (x.split k).exec ∧ ((t.wave f.wave).split k).own = (x.split k).own ∧
          ((t.wave f.wave).split k).state = (if (x.split k).state = 4 then 1 else (x.split k).state) ∧
          ((t.wave f.wave).split k).depth = (x.split k).depth)) ∧
    (x.csr.handler = true → s.tableOk f.wave = false → Answers (.rte stl) s (fun t => Dead t f.wave ∧ t.mem = s.mem)) ∧
    (x.csr.handler = false → x.csr.priv = true → Traps (.rte stl) s f 0x01 f.pc 0)

/-- Taking a trap, dying, and returning from a trap. -/
def Obligations.TrapsAndDeaths : Prop :=
  Claims.TrapEntersTheHandler ∧ Claims.WavesDie ∧ Claims.ReturnFromTrap

/-- R279, R49: outside handler mode and without PRIVCTL.PRIV, a privileged instruction traps with PRIV (0x03) before its
operands are looked at; TRAPARG is the CSR's number for a privileged CSR, and 0 otherwise. -/
def Obligations.PrivilegedInstructionsTrap : Prop :=
  ∀ (s : State) (f : Focus) (d a b : Code) (stl : Stall) (lit : Option Word) (asid : BitVec 16) (m : BitVec 2)
    (n : BitVec 14) (hi : BitVec 1), s.calm f = true → (s.wave f.wave).csr.handler = false →
    (s.wave f.wave).csr.priv = false →
    (∀ i ∈ [Instr.halt stl, .rte stl, .park stl, .tlbinvPage a asid stl lit, .tlbinvAsidall a asid stl lit,
      .tlbinvAll a asid stl lit, .tlbinvResolve a asid stl lit, .tlbinvRefuse a asid stl lit,
      .sramcfg d a m stl lit, .splitrd a b stl lit, .splitwr a b stl lit, .dstkrd a b stl lit, .dstkwr a b stl lit,
      .clmemb a b stl lit, .clrestore a b stl lit, .cmaint a b 3 stl lit, .smcVersion d a b stl lit, .smcAttest d a b stl lit,
      .smcBlockworld d a b stl lit, .smcRegionworld d a b stl lit, .smcFramecfg d a b stl lit, .smcPower d a b stl lit],
      Traps i s f 3 f.pc 0) ∧
    (0x100 ≤ n.toNat → n.toNat ≤ 0x10C ∨ n.toNat ∈ [0x110, 0x111, 0x120, 0x121, 0x130, 0x131, 0x132, 0x140, 0x141, 0x142, 0x143,
        0x144, 0x145, 0x146, 0x147, 0x148, 0x150, 0x151] →
      Traps (.csrr d n stl) s f 3 f.pc (BitVec.ofNat 64 n.toNat) ∧
      Traps (.csrw d n stl lit) s f 3 f.pc (BitVec.ofNat 64 n.toNat)) ∧
    Traps (.framedeadlineWrite d hi stl lit) s f 3 f.pc (BitVec.ofNat 64 (0x150 + hi.toNat))

/-- R285: CSRR writes the whole CSR to its destination. A read of CYCLE's low half latches the high half, which CSR 0x001
reads. A number that the map does not have traps with ILLEGAL. -/
def Claims.CsrReads : Prop :=
  ∀ (s : State) (f : Focus) (d : Code) (n : BitVec 14) (stl : Stall), s.calm f = true → dstOk d = true →
    let x := s.wave f.wave
    (csrKnown n.toNat = false → Traps (.csrr d n stl) s f 0x01 f.pc 0) ∧
    (∀ v, (n.toNat, v) ∈ [(0x001, x.csr.cycleLatch), (0x004, x.csr.launchid), (0x008, x.csr.wst.extractLsb' 0 32),
        (0x009, x.csr.wst.extractLsb' 32 32), (0x00A, x.csr.fetchtab.extractLsb' 0 32), (0x00B, x.csr.fetchtab.extractLsb' 32 32),
        (0x00C, x.csr.codebase.extractLsb' 0 32), (0x00D, x.csr.codebase.extractLsb' 32 32), (0x010, x.csr.scrbase), (0x011, x.csr.scrsize), (0x020, x.csr.wavectl),
        (0x021, x.csr.fpstat)] → dstBad d v = false →
      Answers (.csrr d n stl) s (fun t => PutScalar s t f d v)) ∧
    (s.mayPriv f = true → ∀ v, (n.toNat, v) ∈ [(0x100, BitVec.ofNat 32 x.csr.trapcause),
        (0x101, x.csr.trappc.extractLsb' 0 32), (0x102, x.csr.trappc.extractLsb' 32 32),
        (0x103, x.csr.traparg.extractLsb' 0 32), (0x104, x.csr.traparg.extractLsb' 32 32),
        (0x105, BitVec.ofNat 32 (x.csr.trapsplit % 8 + (if x.nextPend.isSome then 8 else 0))),
        (0x106, x.csr.trapvec.extractLsb' 0 32), (0x107, x.csr.trapvec.extractLsb' 32 32),
        (0x108, x.csr.savearea.extractLsb' 0 32), (0x109, x.csr.savearea.extractLsb' 32 32), (0x10A, x.csr.savesize),
        (0x10B, BitVec.ofNat 32 ((if x.csr.handler then 2 else 0) + (if x.csr.priv then 1 else 0))),
        (0x10C, BitVec.ofNat 32 (x.csr.raPages % 32 * 256 + x.csr.raInsns % 128)),
        (0x110, BitVec.ofNat 32 x.csr.prio), (0x111, BitVec.ofNat 32 x.csr.world),
        (0x130, x.csr.ttbase.extractLsb' 0 32), (0x131, x.csr.ttbase.extractLsb' 32 32),
        (0x132, BitVec.ofNat 32 x.csr.asid), (0x140, x.csr.tsave.getD 0 0), (0x143, x.csr.tsave.getD 3 0),
        (0x147, x.csr.tsave.getD 7 0), (0x148, x.csr.tsavemode), (0x150, s.framedeadline.extractLsb' 0 32),
        (0x151, s.framedeadline.extractLsb' 32 32)] → dstBad d v = false →
      Answers (.csrr d n stl) s (fun t => PutScalar s t f d v)) ∧
    (s.mayPriv f = true → ∀ (h : Nat) (v : Word), h < 2 → n.toNat = 0x120 + h →
      let banks := (s.cluster x.cluster).banks
      (∀ b ∈ banks, b < 4) → (∀ j, j < 16 → v.toNat / 4 ^ j % 4 = banks.getD (16 * h + j) 0) → dstBad d v = false →
      Answers (.csrr d n stl) s (fun t => PutScalar s t f d v)) ∧
    (∀ i ∈ [Instr.csrr d 0 stl, .cycleLatchRead d stl], d.toNat < 96 → Answers i s (fun t =>
      t.readsS f.wave d.toNat (s.clk + 1) (BitVec.ofNat 32 s.clk) ∧
      (t.wave f.wave).csr = { x.csr with cycleLatch := BitVec.ofNat 32 (s.clk / 2 ^ 32) } ∧
      t = { s with waves := t.waves, ports := t.ports, lastIssue := t.lastIssue } ∧
      (∀ w, w ≠ f.wave → t.wave w = s.wave w) ∧ SameV s t f.wave ∧ SameS s t f.wave [d.toNat] ∧
      SameP s t f.wave [] ∧ ((t.wave f.wave).split f.split).pc = f.next))

/-- R285, R68, R343: CSRW. A read-write CSR then reads the value written, FPSTAT loses the flags written as 1, a read-only
CSR keeps its value, and every other CSR, register and byte of memory is as before; a 1 in a bit that must be 0 is
ILLEGAL. That no further value is refused or masked is the model's reading (log 24). -/
def Claims.CsrWrites : Prop :=
  ∀ (s : State) (f : Focus) (d : Code) (n : BitVec 14) (hi : BitVec 1) (stl : Stall) (lit : Option Word),
    s.calm f = true → srcOk false d = true → (s.wave f.wave).csr.tsave.length = 8 →
    let v := s.readSrc f.wave f.split lit d
    let rw := [0x008, 0x009, 0x00A, 0x00B, 0x020, 0x100, 0x101, 0x102, 0x103, 0x104, 0x106, 0x107, 0x108, 0x109, 0x10A,
      0x110, 0x140, 0x141, 0x142, 0x143, 0x144, 0x145, 0x146, 0x147, 0x148, 0x150, 0x151]
    let writes := fun (i : Instr) (k : Nat) (now : Word) => Answers i s (fun t =>
      t.readCsr f.wave k = now ∧ (∀ j, j ≠ k → csrKnown j = true → t.readCsr f.wave j = s.readCsr f.wave j) ∧
      t = { s with waves := t.waves, ports := t.ports, lastIssue := t.lastIssue, framedeadline := t.framedeadline } ∧
      (k ≠ 0x150 → k ≠ 0x151 → t.framedeadline = s.framedeadline) ∧
      (∀ w, w ≠ f.wave → t.wave w = s.wave w) ∧ (t.wave f.wave).v = (s.wave f.wave).v ∧
      (t.wave f.wave).s = (s.wave f.wave).s ∧ (t.wave f.wave).p = (s.wave f.wave).p ∧
      (t.wave f.wave).mode = (s.wave f.wave).mode ∧ ((t.wave f.wave).split f.split).pc = f.next)
    (csrKnown n.toNat = false → Traps (.csrw d n stl lit) s f 0x01 f.pc 0) ∧
    ((n.toNat < 0x100 ∨ s.mayPriv f = true) → csrKnown n.toNat = true → v &&& csrZero n.toNat ≠ 0 →
      Traps (.csrw d n stl lit) s f 0x01 f.pc 0) ∧
    ((n.toNat < 0x100 ∨ s.mayPriv f = true) → csrKnown n.toNat = true → v &&& csrZero n.toNat = 0 →
      (n.toNat ∈ rw → writes (.csrw d n stl lit) n.toNat v) ∧
      (n.toNat ∉ rw → n.toNat ∉ [0x021, 0x105] → writes (.csrw d n stl lit) n.toNat (s.readCsr f.wave n.toNat))) ∧
    (v.toNat < 64 → writes (.fpstatWrite d stl lit) 0x021 ((s.wave f.wave).csr.fpstat &&& ~~~ v) ∧
      writes (.csrw d 0x021 stl lit) 0x021 ((s.wave f.wave).csr.fpstat &&& ~~~ v)) ∧
    (s.mayPriv f = true → writes (.framedeadlineWrite d hi stl lit) (0x150 + hi.toNat) v)

/-- CSRR reads a CSR whole, CSRW writes what the CSR lets it. -/
def Obligations.CsrsAreReadAndWritten : Prop :=
  Claims.CsrReads ∧ Claims.CsrWrites

/-- R293: CNTRD writes the eight path counters, counter i in bits 6i + 5 to 6i. -/
def Obligations.CountersAreRead : Prop :=
  ∀ (s : State) (f : Focus) (d : Code) (stl : Stall), s.calm f = true → pairDstOk d = true →
    (∀ i, i < 8 → (s.wave f.wave).counter i < 64) → ∀ v : Dword, v.toNat < 2 ^ 48 →
    (∀ i, i < 8 → v.toNat / 2 ^ (6 * i) % 64 = (s.wave f.wave).counter i) →
    Answers (.cntrd d stl) s (fun t => PutPair s t f d v)

/-- R298, R391: TLBINV. PAGE, RESOLVE and REFUSE remove the entries that translate the address in the address space, ASIDALL
the space's entries that are not global, and ALL every entry; RESOLVE and REFUSE also remove the page's merge entries, and
no split waits on them any more; a split that REFUSE answers takes XLATE (0x06) at its instruction, with the faulting address,
here where it is the lowest of the only wave that waits. -/
def Claims.TranslationsAreInvalidated : Prop :=
  ∀ (s : State) (f : Focus) (a : Code) (asid : BitVec 16) (stl : Stall) (lit : Option Word), s.calm f = true →
    s.mayPriv f = true → pairSrcOk false a = true →
    let va := s.readPair f.wave f.split lit a
    let page := pageOf va
    let left := fun (t : State) (gone : TlbEntry → Prop) => ∀ u e,
      e ∈ mapGet [] t.tlbs u ↔ e ∈ mapGet [] s.tlbs u ∧ ¬ gone e
    let covers := fun (e : TlbEntry) => (e.pte.getLsbD 8 = true ∨ e.asid = asid.toNat) ∧ e.page ≤ page ∧ page < e.page + e.units
    let quiet := fun (t : State) => t.mem = s.mem ∧ t.merges = s.merges ∧ t.faults = s.faults ∧
      ∀ w k, ((t.wave w).split k).wait = (if w = f.wave ∧ k = f.split then .none else ((s.wave w).split k).wait)
    let answers := fun (t : State) => t.mem = s.mem ∧
      (∀ m, m ∈ t.merges ↔ m ∈ s.merges ∧ ¬ (m.asid = asid.toNat ∧ m.page = page))
    s.TablesWf →
    Answers (.tlbinvPage a asid stl lit) s (fun t => left t covers ∧ quiet t) ∧
    Answers (.tlbinvAsidall a asid stl lit) s (fun t =>
      left t (fun e => e.asid = asid.toNat ∧ e.pte.getLsbD 8 = false) ∧ quiet t) ∧
    Answers (.tlbinvAll a asid stl lit) s (fun t => left t (fun _ => True) ∧ quiet t) ∧
    Answers (.tlbinvResolve a asid stl lit) s (fun t => left t covers ∧ answers t) ∧
    Answers (.tlbinvRefuse a asid stl lit) s (fun t => left t covers ∧ answers t) ∧
    ((∃ m ∈ s.merges, m.asid = asid.toNat ∧ m.page = page) → ∀ i ∈ [Instr.tlbinvResolve a asid stl lit, .tlbinvRefuse a asid stl lit],
      Answers i s (fun t => ∀ w k x, ((t.wave w).split k).wait ≠ .merge asid.toNat page x)) ∧
    (∀ w k v, (∃ m ∈ s.merges, m.asid = asid.toNat ∧ m.page = page) → k < 4 →
      ((s.wave w).split k).wait = .merge asid.toNat page v →
      (∀ u j x, u ≠ w ∨ j < k ∨ j = 4 → ((s.wave u).split j).wait ≠ .merge asid.toNat page x) →
      (s.wave w).life = .resident → (s.wave w).died = false → (s.wave w).csr.handler = false → (s.wave w).csr.trapvec ≠ 0 →
      (s.wave w).ra = none → (s.wave w).nextPend = none → s.nlBusy w = false →
      Answers (.tlbinvRefuse a asid stl lit) s (fun t => (t.wave w).csr.handler = true ∧ (t.wave w).csr.trapcause = 0x06 ∧
        (t.wave w).csr.trapsplit = k ∧ (t.wave w).csr.trappc = ((s.wave w).split k).pc ∧ (t.wave w).csr.traparg = v))

/-- R297: the 192 bytes of a fault record that goes to firmware. -/
def Claims.FaultRecordsHaveTheirLayout : Prop :=
  ∀ r : FaultRec, r.kind < 256 → r.pages.length ≤ 16 → r.req < 256 → r.access < 256 → r.asid < 65536 → r.cluster < 256 →
    r.world < 256 → r.cause < 2 ^ 32 → r.scope < 256 → (∀ p ∈ r.pages, p < 2 ^ 39) →
    let n := fun (o k : Nat) => leNat ((r.bytes.drop o).take k)
    r.bytes.length = 192 ∧ n 0 1 = r.kind ∧ n 1 1 = r.pages.length ∧ n 2 1 = r.req ∧ n 3 1 = r.access ∧ n 4 2 = r.asid ∧
    n 6 1 = r.cluster ∧ n 7 1 = r.world ∧ n 8 4 = r.launchid.toNat ∧ n 12 4 = r.cause ∧ n 16 8 = r.va.toNat ∧
    n 24 1 = r.scope ∧ (∀ i, i < 39 → (r.bytes.getD (25 + i) 1) = 0) ∧
    ∀ i, i < 16 → n (64 + 8 * i) 8 = if i < r.pages.length then 2 ^ 16 * r.pages.getD i 0 else 0

/-- R302: SRAMCFG switches a bank of its cluster and answers 0, or answers 1 while the bank's mode is in use and 2 where no
CACHE bank would be left; a bank number above 31 is ILLEGAL. A CACHE bank that is to switch loses its lines, and one found in
use stays closed to fills until SRAMCFG succeeds on it or names its own mode. What keeps a bank in use where its contents' place is the
device's matter is a free value (log 21). -/
def Claims.BankModesSwitch : Prop :=
  ∀ (s : State) (f : Focus) (d a : Code) (m : BitVec 2) (stl : Stall) (lit : Option Word), s.calm f = true →
    s.mayPriv f = true → dstOk d = true → srcOk false a = true →
    let c := (s.wave f.wave).cluster
    let u := s.sweep
    let b := (u.readSrc f.wave f.split lit a).toNat
    let now := (u.cluster c).banks.getD b 0
    let cl := u.cluster c
    let opened := cl.closed.filter (fun k => k ≠ b)
    let banks := fun (i : Instr) (n : Word) (bs closed : List Nat) (drops : Bool) => Answers i s (fun t =>
      (d.toNat < 96 → t.readsS f.wave d.toNat (s.clk + 1) n) ∧ t.mem = s.mem ∧
      t.cluster c = { cl with banks := bs, closed := closed, copies := (t.cluster c).copies } ∧
      (∀ l, mapGet [] (t.cluster c).copies l = if drops ∧ cl.lineBank l = b then [] else mapGet [] cl.copies l) ∧
      (∀ k, k ≠ c → t.cluster k = s.cluster k))
    let i := Instr.sramcfg d a m stl lit
    (31 < b → Traps i s f 0x01 f.pc 0) ∧
    (b < 32 → now = m.toNat → banks i 0 cl.banks opened false) ∧
    (b < 32 → now ≠ m.toNat → now = 0 → ((u.cluster c).banks.filter (fun k => k = 0)).length = 1 →
      banks i 2 cl.banks cl.closed false) ∧
    (b < 32 → now ≠ m.toNat → ¬ (now = 0 ∧ ((u.cluster c).banks.filter (fun k => k = 0)).length = 1) →
      (u.bankBusy c now = true → banks i 1 cl.banks (if now = 0 then b :: opened else cl.closed) (now = 0)) ∧
      (u.bankBusy c now = false → banks i 0 (cl.banks.set b m.toNat) opened (now = 0)))

/-- TLBINV's operations, the layout of fault records, and SRAMCFG's switch of a bank. -/
def Obligations.TranslationsAndBanks : Prop :=
  Claims.TranslationsAreInvalidated ∧ Claims.FaultRecordsHaveTheirLayout ∧ Claims.BankModesSwitch

/-- R291: SPLITRD, DSTKRD and CLMEMB put a store of the split's record, of its 8 core entries or of the membership slot on
ST, in the layouts of R86, R89 and R169. -/
def Claims.WaveStateIsSaved : Prop :=
  ∀ (s : State) (f : Focus) (a b : Code) (stl : Stall) (lit : Option Word) (pa : Nat), s.calm f = true →
    s.mayPriv f = true → pairSrcOk false a = true → srcOk false b = true → litOnce [a, b] = true →
    (s.wave f.wave).counter 1 < 63 →
    let va := s.readPair f.wave f.split lit a
    let i := (s.readSrc f.wave f.split lit b).toNat
    let sp := (s.wave f.wave).split i
    let m := mapGet Memb.empty (s.wave f.wave).memb i
    let stores := fun (op : Instr) (n : Nat) (bs : List Byte) =>
      (∀ j, j < n / 16 → checkVa s (s.space f.wave) .write 16 (va + BitVec.ofNat 64 (16 * j)) = .ok (pa + 16 * j)) →
      Answers op s (fun t => ∃ o : Flight, PutFlight s t f o ∧ o.path = 1 ∧ o.kind = .store ∧ o.scratch = false ∧
        o.accs.map (fun c => (c.pa, c.size)) = (List.range (n / 8)).map (fun j => (pa + 8 * j, 8)) ∧
        o.accs.flatMap Acc.data = bs)
    (i < 4 → stores (.splitrd a b stl lit) 32 (leBytes 8 sp.pc.toNat ++ leBytes 8 sp.own.toNat ++ leBytes 8 sp.exec.toNat ++
      leBytes 1 sp.state ++ leBytes 1 sp.depth ++ leBytes 2 0 ++
      leBytes 4 (if sp.state = 3 ∧ (s.wave f.wave).csr.handler = false then sp.wakeAt - s.clk else sp.wake))) ∧
    (i < 4 → stores (.dstkrd a b stl lit) 128 ((List.range 8).flatMap (fun j =>
      let e := mapGet Entry.zero sp.stack (sp.depth - min sp.depth 8 + j)
      if j < sp.depth then leBytes 8 e.mask.toNat ++ leBytes 8 e.word.toNat else List.replicate 16 0))) ∧
    (i < 8 → stores (.clmemb a b stl lit) 64 (leBytes 8 m.handle.toNat ++ leBytes 8 m.mask.toNat ++
      leBytes 8 m.arrived.toNat ++ leBytes 8 m.pending.toNat ++ leBytes 8 m.early.toNat ++ leBytes 8 m.waiting.toNat ++
      leBytes 4 m.phase.toNat ++ List.replicate 12 0)) ∧
    (4 ≤ i → Traps (.splitrd a b stl lit) s f 0x01 f.pc (BitVec.ofNat 64 i) ∧
      Traps (.dstkrd a b stl lit) s f 0x01 f.pc (BitVec.ofNat 64 i)) ∧
    (8 ≤ i → Traps (.clmemb a b stl lit) s f 0x01 f.pc (BitVec.ofNat 64 i))

/-- R291, R292: SPLITWR, DSTKWR and CLRESTORE load what the save area holds: a sound split record, the entries in the core,
and a membership of a live clause, whose phase it then has, with the phases completed since applied to its masks (R163), and
whose parked count falls; an image whose handle is NULL, of type 0 whatever its payload (R157), empties the slot, one that is not
sound or more than two phases behind is ILLEGAL, and one of another type or of no live clause is CLAUSE, subcode 2. -/
def Claims.WaveStateIsRestored : Prop :=
  ∀ (s : State) (f : Focus) (a b : Code) (stl : Stall) (lit : Option Word) (pa : Nat), s.calm f = true →
    s.mayPriv f = true → pairSrcOk false a = true → srcOk false b = true → litOnce [a, b] = true → Plain s f.wave →
    (s.wave f.wave).splits.length = 5 →
    let x := s.wave f.wave
    let va := s.readPair f.wave f.split lit a
    let i := (s.readSrc f.wave f.split lit b).toNat
    let sp := x.split i
    let there := fun (n : Nat) => ∀ j, j < n / 16 →
      checkVa s (s.space f.wave) .read 16 (va + BitVec.ofNat 64 (16 * j)) = .ok (pa + 16 * j)
    let num := fun (o n : Nat) => leNat (s.readBytes (pa + o) n)
    let ends := fun (t : State) => (∀ w, w ≠ f.wave → t.wave w = s.wave w) ∧ t.mem = s.mem ∧ (t.wave f.wave).v = x.v ∧
      (t.wave f.wave).s = x.s ∧ (t.wave f.wave).p = x.p ∧ (t.wave f.wave).csr = x.csr ∧
      (f.split ≠ i → ((t.wave f.wave).split f.split).pc = f.next)
    (i < 4 → there 32 → f.split ≠ i →
      let sound := num 0x18 1 ≤ 4 ∧ num 0x19 1 ≤ 32 ∧ num 0x1A 2 = 0 ∧ canonical (BitVec.ofNat 64 (num 0 8)) = true ∧
        num 0 8 % 4 = 0
      (sound → Answers (.splitwr a b stl lit) s (fun t => ends t ∧ (t.wave f.wave).split i = { sp with
        pc := BitVec.ofNat 64 (num 0 8), own := BitVec.ofNat 64 (num 8 8), exec := BitVec.ofNat 64 (num 0x10 8),
        state := num 0x18 1, depth := num 0x19 1, wake := num 0x1C 4, wakeAt := s.clk + num 0x1C 4 })) ∧
      (¬ sound → Traps (.splitwr a b stl lit) s f 0x01 f.pc 0)) ∧
    (i < 4 → there 128 →
      let c := min sp.depth 8
      let e := fun j : Nat => ({ mask := BitVec.ofNat 64 (num (16 * j) 8), word := BitVec.ofNat 64 (num (16 * j + 8) 8) } : Entry)
      let sound := ∀ j, j < c → (e j).kind ≠ 0 ∧ (e j).word.getLsbD 63 = false ∧ (e j).word.getLsbD 55 = false
      (sound → Answers (.dstkwr a b stl lit) s (fun t => ends t ∧ ((t.wave f.wave).split i).depth = sp.depth ∧
        ∀ j, mapGet Entry.zero ((t.wave f.wave).split i).stack j =
          if sp.depth - c ≤ j ∧ j < sp.depth then e (j - (sp.depth - c)) else mapGet Entry.zero sp.stack j)) ∧
      (¬ sound → Traps (.dstkwr a b stl lit) s f 0x01 f.pc 0)) ∧
    (i < 8 → there 64 →
      let h : Dword := BitVec.ofNat 64 (num 0 8)
      let c := s.clause (handleEntry h)
      (handleType h = 0 → Answers (.clrestore a b stl lit) s (fun t => ends t ∧ t.clauses = s.clauses ∧
        ∀ j, mapGet Memb.empty (t.wave f.wave).memb j = if j = i then Memb.empty else mapGet Memb.empty x.memb j)) ∧
      (handleType h = 1 → s.clauseLive h x.csr.asid x.csr.world = true →
        let d := (c.phase - BitVec.ofNat 32 (num 0x30 4)).toNat
        (d ≤ 2 → Answers (.clrestore a b stl lit) s (fun t => ends t ∧
          t.clause (handleEntry h) = { c with parked := c.parked - 1 } ∧
          (∀ k, k ≠ handleEntry h → t.clause k = s.clause k) ∧
          ∀ j, mapGet Memb.empty (t.wave f.wave).memb j = if j = i then
            { handle := h, mask := BitVec.ofNat 64 (num 8 8),
              arrived := if d = 0 then BitVec.ofNat 64 (num 0x10 8) else if d = 1 then BitVec.ofNat 64 (num 0x20 8) else 0,
              pending := if d = 0 then BitVec.ofNat 64 (num 0x18 8) else 0,
              early := if d = 0 then BitVec.ofNat 64 (num 0x20 8) else 0,
              waiting := BitVec.ofNat 64 (num 0x28 8), phase := c.phase }
            else mapGet Memb.empty x.memb j)) ∧
        (2 < d → Traps (.clrestore a b stl lit) s f 0x01 f.pc 0)) ∧
      (handleType h ≠ 0 → handleType h ≠ 1 ∨ s.clauseLive h x.csr.asid x.csr.world = false →
        Traps (.clrestore a b stl lit) s f 0x0B f.pc 2))

/-- R287, R290, R168: PARK, in a handler entered with PREEMPT, writes the 192 bytes of HEADER and TOKENS to the save area, on one
page or on two, and gives up the wave's slot and registers; each of its live clauses counts it in PARKED. Elsewhere PARK is ILLEGAL.
That the wave keeps its memberships and arrivals as the homes have them is the model's (log 26). -/
def Claims.ParkSavesTheWave : Prop :=
  ∀ (s : State) (f : Focus) (stl : Stall) (pa qa : Nat), s.calm f = true → s.mayPriv f = true →
    let x := s.wave f.wave
    let m := min 192 (65536 - x.csr.savearea.toNat % 65536)
    let place := fun i => if i < m then pa + i else qa + (i - m)
    (x.csr.handler = true → x.csr.trapcause = 0x12 → x.counter 1 = 0 → Plain s f.wave →
      checkVa s (s.space f.wave) .write 64 x.csr.savearea = .ok pa →
      (m < 192 → checkVa s (s.space f.wave) .write 1 (x.csr.savearea + BitVec.ofNat 64 m) = .ok qa) → Answers (.park stl) s (fun t =>
        let y := t.wave f.wave
        let num := fun (o n : Nat) => leNat ((List.range n).map (fun i => t.readByte (place (o + i))))
        y.life = .parked ∧ y.blocks = x.blocks ∧ y.gang = x.gang ∧ y.idx = x.idx ∧ y.v = [] ∧ y.s = [] ∧
        y.memb = x.memb ∧ y.gbars = x.gbars ∧ y.locked = x.locked ∧
        y.csr.savearea = x.csr.savearea ∧ y.csr.trapvec = x.csr.trapvec ∧ y.csr.asid = x.csr.asid ∧
        (∀ w, w ≠ f.wave → t.wave w = s.wave w) ∧
        num 0 4 = 0x4B524150 ∧ num 4 1 = x.blocks % 256 ∧ num 8 8 = x.age % 2 ^ 64 ∧ num 16 8 = s.clk % 2 ^ 64 ∧
        (∀ k, k < 8 → num (64 + 16 * k) 8 = (mapGet Token.idle x.k k).failmask.toNat) ∧
        (∀ p, (∀ i, i < 192 → p ≠ place i) → t.readByte p = s.readByte p) ∧
        ∀ e, t.clause e = { s.clause e with parked := (s.clause e).parked + ((List.range 8).filter (fun j =>
          let h := (mapGet Memb.empty x.memb j).handle
          s.clauseOf f.wave h && handleEntry h = e)).length })) ∧
    ((x.csr.handler = false ∨ x.csr.trapcause ≠ 0x12) → Traps (.park stl) s f 0x01 f.pc 0)

/-- The instructions that save, restore and park a wave's state. -/
def Obligations.WaveStateIsSavedAndRestored : Prop :=
  Claims.WaveStateIsSaved ∧ Claims.WaveStateIsRestored ∧ Claims.ParkSavesTheWave

/-- R155, R160, R161, R165, R166, R170: the clause instructions send one operation to the clause's home with what they
captured, and those with an answer hold their split. The checks of a handle and of membership come first: subcodes 1, 2, 5
and, for a join that would need a ninth slot, 3 of CLAUSE. -/
def Obligations.ClauseInstructionsAreSent : Prop :=
  ∀ (s : State) (f : Focus) (d a b : Code) (kind ty : BitVec 2) (op : BitVec 4) (st : BitVec 7) (stl : Stall)
    (lit : Option Word), s.quiet f = true →
    let x := s.wave f.wave
    let act := s.active f.wave f.split
    let h := s.readH f.wave a.toNat
    let arr := x.arriving h act
    let sent := fun (i : Instr) (o : HomeOp) => Answers i s (fun t => PutHop s t f o)
    let sound := handleType h = 1 ∧ h.extractLsb' 32 28 = 0
    let n := clauseRegs ty
    let bits := (Mask.lanes act).map (fun L => if (s.readPred f.wave f.split b).getLsbD L then 1 else 0)
    let words := (Mask.lanes act).map (fun L => s.readVn f.wave n b L)
    let lanes := fun (i : Instr) (member : Bool) (ok : Bool) (o : HomeOp) => ok = true →
      (act = 0 → Answers i s (fun t => Goes s t f f.next)) ∧
      (act ≠ 0 → handleType h ≠ 1 → Traps i s f 0x0B f.pc 1) ∧
      (act ≠ 0 → handleType h = 1 → h.extractLsb' 32 28 ≠ 0 → Traps i s f 0x0B f.pc 2) ∧
      (act ≠ 0 → sound → member = true → act &&& ~~~ (x.members h) ≠ 0 → Traps i s f 0x0B f.pc 5) ∧
      (act ≠ 0 → sound → (member = true → act &&& ~~~ (x.members h) = 0) → (o.holding = false → x.hopsFull = false) →
        sent i o)
    (hOk d = true → srcOk false a = true → b.toNat < 96 → sent (.clopen d a b stl lit)
      (hopOf f stl (.clopen d a b stl lit) 0 0 0
        [(s.readSrc f.wave f.split lit a).toNat, min (s.readS f.wave b.toNat).toNat 524288] true)) ∧
    (dstOk d = true → hOk a = true → act ≠ 0 → sound → x.hops = [] →
      let used := fun j => (mapGet Memb.empty x.memb j).handle
      ((∃ j, j < 8 ∧ (used j = h ∨ used j = 0)) → sent (.cljoin d a stl) (hopOf f stl (.cljoin d a stl) h act 0 [] true)) ∧
      ((∀ j, j < 8 → used j ≠ h ∧ used j ≠ 0) →
        Traps (.cljoin d a stl) s f 0x0B f.pc 3)) ∧
    lanes (.clleave a stl) false (hOk a) (hopOf f stl (.clleave a stl) h act 0 [] false) ∧
    lanes (.clarrive a stl) true (hOk a) (hopOf f stl (.clarrive a stl) h act 0 [] false) ∧
    lanes (.clwait d a stl) true (dstOk d && hOk a) { hopOf f stl (.clwait d a stl) h act 0 [] true with arr } ∧
    lanes (.clbar d a stl) true (dstOk d && hOk a) { hopOf f stl (.clbar d a stl) h act 0 [] true with arr } ∧
    lanes (.clvote d a b kind st stl) true (dstOk d && hOk a && predSrcOk b && stOk st)
      { hopOf f stl (.clvote d a b kind st stl) h act 0 bits true with arr } ∧
    lanes (.clred d a b op ty st stl) true (vOk x d n && hOk a && vOk x b n && stOk st)
      { hopOf f stl (.clred d a b op ty st stl) h act 0 words true with arr } ∧
    (hOk a = true → sound → sent (.clclose a stl) (hopOf f stl (.clclose a stl) h 0 0 [] true)) ∧
    (dstOk d = true → hOk a = true → srcOk false b = true → sound →
      let sel := (s.readSrc f.wave f.split lit b).toNat
      (sel ≤ 6 → sent (.clinfo d a b stl lit) (hopOf f stl (.clinfo d a b stl lit) h 0 0 [sel] true)) ∧
      (6 < sel → Traps (.clinfo d a b stl lit) s f 0x01 f.pc 0))

/-- R155, R156, R171, R172, R178, R181, R148: bindings, locks, queues, rings and FENCE.H send one operation to the home of
their object, whose address is checked as of a load and a store. -/
def Obligations.ObjectInstructionsAreSent : Prop :=
  ∀ (s : State) (f : Focus) (d a b : Code) (index : BitVec 4) (scope : BitVec 3) (clear : BitVec 1) (stl : Stall)
    (lit : Option Word) (pa : Nat), s.quiet f = true →
    let x := s.wave f.wave
    let act := s.active f.wave f.split
    let h := s.readH f.wave a.toNat
    let B := s.readPair f.wave f.split lit b
    let sent := fun (i : Instr) (o : HomeOp) => Answers i s (fun t => PutHop s t f o)
    let object := fun (h : Dword) (ty size : Nat) => handleType h = ty ∧
      checkVa s (s.space f.wave) .readWrite size (handleAddr h) = .ok pa ∧ (size = 1 → (handleAddr h).toNat % 128 = 0)
    (hOk d = true → pairSrcOk false a = true → srcOk false b = true → litOnce [a, b] = true →
      let g := s.readH f.wave d.toNat
      let base := s.readPair f.wave f.split lit a
      let len := (s.readSrc f.wave f.split lit b).toNat
      let i := Instr.bind d a b index scope clear stl lit
      (object g 2 1 ∨ object g 3 1 ∨ object g 4 8 ∨ handleType g = 1 ∧ g.extractLsb' 32 28 = 0 ∧ pa = 0) →
      (clear = 1 ∨ base.toNat % 128 = 0 ∧ len % 128 = 0 ∧ 128 ≤ len → sent i (hopOf f stl i g 0 pa [base.toNat, len] true)) ∧
      (clear = 0 → ¬ (base.toNat % 128 = 0 ∧ len % 128 = 0 ∧ 128 ≤ len) → Traps i s f 0x05 f.pc base)) ∧
    (hOk a = true → pairSrcOk false b = true → object h 4 8 →
      (pairDstOk d = true → sent (.acq d a b stl lit) (hopOf f stl (.acq d a b stl lit) h 0 pa [B.toNat] true)) ∧
      (x.hopsFull = false → sent (.rel a b stl lit) (hopOf f stl (.rel a b stl lit) h 0 pa [B.toNat] false))) ∧
    (hOk a = true → handleType h ≠ 4 → pairSrcOk false b = true → Traps (.rel a b stl lit) s f 0x0B f.pc 1) ∧
    (hOk a = true → object h 3 1 →
      let q := s.queueHead pa
      let r := 2 ^ q.elog / 4
      q.sub = 0 →
      (d.toNat < 8 → act ≠ 0 → vOk x b r = true → sent (.qenq d a b stl)
        (hopOf f stl (.qenq d a b stl) h act pa (q.elog :: (Mask.lanes act).map (fun L => s.readVn f.wave r b L)) true)) ∧
      (b.toNat < 8 → act ≠ 0 → vOk x d r = true → q.watched = false → sent (.qpop d a b stl)
        (hopOf f stl (.qpop d a b stl) h act pa [q.elog] true)) ∧
      (b.toNat < 8 → act ≠ 0 → q.watched = true → Traps (.qpop d a b stl) s f 0x0D f.pc 3) ∧
      (dstOk d = true → b.toNat % r = 0 → b.toNat + r ≤ 96 → sent (.qenqu d a b stl)
        (hopOf f stl (.qenqu d a b stl) h 0 pa
          [q.elog, packElems 32 ((List.range r).map (fun i => (s.readS f.wave (b.toNat + i)).toNat))] true))) ∧
    (hOk a = true → object h 2 1 →
      let r := s.ringHead pa
      r.ok = true →
      (pairDstOk d = true → sent (.rares d a stl) (hopOf f stl (.rares d a stl) h 0 pa [] true)) ∧
      (dstOk d = true → pairSrcOk false b = true →
        (r.rel ≤ B.toNat → B.toNat < r.resv →
          sent (.rawait d a b stl lit) (hopOf f stl (.rawait d a b stl lit) h 0 pa [B.toNat] true)) ∧
        (B.toNat < r.rel ∨ r.resv ≤ B.toNat → Traps (.rawait d a b stl lit) s f 0x0C f.pc 3)) ∧
      (pairSrcOk false b = true →
        (r.rel ≤ B.toNat → B.toNat ≤ r.fill →
          sent (.rarel a b stl lit) (hopOf f stl (.rarel a b stl lit) h 0 pa [B.toNat] true)) ∧
        (B.toNat < r.rel ∨ r.fill < B.toNat → Traps (.rarel a b stl lit) s f 0x0C f.pc 4))) ∧
    sent (.fenceH scope stl) (hopOf f stl (.fenceH scope stl) 0 0 0 [] true)

/-- R147, R157, R174, R175, R249: what needs no home. HMAKE and HREAD move handles; WAITC and NWAIT go on once what they
wait for is there; FENCE.L orders later accesses behind earlier ones; and the gang barriers count arrivals, complete when
every wave of the gang has arrived, from the next clk on, and hold GBAR and GWAIT until then. That GARRIVE's arrival goes to
the barrier in a turn of its own, when the wave's earlier accesses are performed, is the model's (log 52), and so is that a held
GBAR knows its own arrival by its split, its barrier and its address (log 64). -/
def Obligations.LocalSynchronisation : Prop :=
  ∀ (s : State) (f : Focus) (d a b : Code) (p : BitVec 3) (ty n : BitVec 4) (stl : Stall) (lit : Option Word),
    s.calm f = true →
    let x := s.wave f.wave
    let same := fun (t : State) => t = { s with waves := t.waves, ports := t.ports, lastIssue := t.lastIssue } ∧
      (∀ w, w ≠ f.wave → t.wave w = s.wave w) ∧ ((t.wave f.wave).split f.split).pc = f.next
    (hOk d = true → pairSrcOk false a = true → Answers (.hmake d a ty stl lit) s (fun t => same t ∧
      t.wave f.wave = { x with
        h := (t.wave f.wave).h, splits := (t.wave f.wave).splits, readySince := (t.wave f.wave).readySince, starving := (t.wave f.wave).starving } ∧
      ∀ j, t.readH f.wave j =
        if j = d.toNat then ty ++ (s.readPair f.wave f.split lit a).extractLsb' 0 60 else s.readH f.wave j)) ∧
    (pairDstOk d = true → hOk a = true → Answers (.hread d a stl) s (fun t =>
      PutPair s t f d (s.readH f.wave a.toNat))) ∧
    (srcOk false b = true →
      (x.counter p.toNat ≤ min (s.readSrc f.wave f.split lit b).toNat 63 →
        Answers (.waitc p b stl lit) s (fun t => Goes s t f f.next)) ∧
      (min (s.readSrc f.wave f.split lit b).toNat 63 < x.counter p.toNat →
        exec (.waitc p b stl lit) s = .next (s.held f))) ∧
    (kOk a = true → Answers (.nwait a stl) s (fun t => Goes s t f f.next)) ∧
    Answers (.fenceL stl) s (fun t => same t ∧ t.wave f.wave = { x with
      fenceSeq := x.seq, splits := (t.wave f.wave).splits, readySince := (t.wave f.wave).readySince, starving := (t.wave f.wave).starving }) ∧
    (let g := s.gang x.gang
     let bar := g.barAt n.toNat s.clk
     let mine := s.gangArrivals f.wave n.toNat
     (mine = 0 → Answers (.gwait n stl) s (fun t => Goes s t f f.next)) ∧
     (mine ≠ 0 → exec (.gwait n stl) s = .next (s.held f)) ∧
     (mine < 2 → x.hopsFull = false → Answers (.garrive n stl) s (fun t =>
       PutHop s t f (hopOf f stl (.garrive n stl) 0 0 0 [] false))) ∧
     (2 ≤ mine ∨ x.hopsFull = true → exec (.garrive n stl) s = .next (s.held f)) ∧
     (∀ done, x.keptArrival f n.toNat = some done →
       (done < bar.phase → Answers (.gbar n stl) s (fun t => same t ∧ t.wave f.wave = { x with
         gbars := x.gbars.filter (fun b => !(b.1 = f.split && b.2.1 = n.toNat && b.2.2.2 = f.pc)),
         splits := (t.wave f.wave).splits, readySince := (t.wave f.wave).readySince, starving := (t.wave f.wave).starving })) ∧
       (bar.phase ≤ done → exec (.gbar n stl) s = .next (s.held f))) ∧
     (x.keptArrival f n.toNat = none → (x.garrives n.toNat ≠ 0 ∨ 2 ≤ mine ∨ x.accessesDone x.seq = false) →
       exec (.gbar n stl) s = .next (s.held f)) ∧
     (g.arrivals n.toNat x.idx s.clk = 0 → x.idx ∈ g.expected →
       let last := ∀ i, i ∈ g.expected → i ≠ x.idx → 1 ≤ mapGet 0 bar.arr i
       let arrived := fun (t : State) => (∀ k, k ≠ x.gang → t.gang k = s.gang k) ∧
         (∀ m, m ≠ n.toNat → mapGet Bar.zero (t.gang x.gang).bars m = mapGet Bar.zero g.bars m) ∧
         (∀ w, w ≠ f.wave → t.wave w = s.wave w) ∧ t.mem = s.mem ∧
         ((t.gang x.gang).barAt n.toNat s.clk).phase = bar.phase ∧
         let after := (t.gang x.gang).barAt n.toNat (s.clk + 1)
         (last → after.phase = bar.phase + 1 ∧ ∀ i, i ∈ g.expected →
           mapGet 0 after.arr i = if i = x.idx then 0 else mapGet 0 bar.arr i - 1) ∧
         (¬ last → after.phase = bar.phase ∧ ∀ i,
           mapGet 0 after.arr i = if i = x.idx then 1 else mapGet 0 bar.arr i)
       (x.keptArrival f n.toNat = none → x.garrives n.toNat = 0 → x.accessesDone x.seq = true →
         ∃ t, exec (.gbar n stl) s = .next (t.held f) ∧ arrived t ∧
           t.wave f.wave = { x with gbars := (f.split, n.toNat, bar.phase, f.pc) :: x.gbars }) ∧
       ∀ j h, x.hops[j]? = some h → h.op = .garrive n stl → x.ended = false →
         (x.accessesDone h.seq = false → s.gangArrive f.wave j = s) ∧
         (x.accessesDone h.seq = true → arrived (s.gangArrive f.wave j) ∧
           (s.gangArrive f.wave j).wave f.wave = { x with hops := x.hops.filter (fun q => q.seq ≠ h.seq) })))

/-- R159 to R165, R170: what a clause operation does at its clause's home: an open finds the key's entry or makes one, a
join counts lanes in the next phase, an arrival counts in the phase, the last one completes it and releases the waiters, and
an operation on an entry that is gone is refused with CLAUSE 2. -/
def Claims.ClauseOperationsActAtHome : Prop :=
  ∀ (s : State) (w : Nat) (h : HomeOp) (d a b : Code) (stl : Stall) (lit : Option Word), AtHome s w h →
    let x := s.wave w
    let e := handleEntry h.hnd
    let c := s.clause e
    let live := s.clauseLive h.hnd x.csr.asid x.csr.world = true
    let answers := fun (P : State → Prop) => Answers .clauseHomeOp s (fun t => t.mem = s.mem ∧ P t)
    let only := fun (t : State) (e : Nat) (c : Clause) => t.clause e = c ∧ ∀ k, k ≠ e → t.clause k = s.clause k
    (h.op = .clopen d a b stl lit → d.toNat < 16 → b.toNat < 96 →
      let key : Word := BitVec.ofNat 32 (h.val 0)
      let lo := 64 * keySlice key
      let own := fun (k : Nat) => (s.clause k).live = true ∧ (s.clause k).key = key ∧ (s.clause k).asid = x.csr.asid ∧
        (s.clause k).world = x.csr.world
      let gives := fun (hd : Dword) (v : Word) (P : State → Prop) => answers (fun t => Answered s t w h ∧
        t.readH w d.toNat = hd ∧ t.readsS w b.toNat (s.clk + 1) v ∧ P t)
      (∀ k, lo ≤ k → k < lo + 64 → own k → (∀ j, lo ≤ j → j < k → ¬ own j) → (s.clause k).refs < 2 ^ 32 - 1 →
        gives (clauseHandle k (s.clause k).gen) 0 (fun t => only t k { s.clause k with refs := (s.clause k).refs + 1 })) ∧
      (∀ k, lo ≤ k → k < lo + 64 → (∀ j, lo ≤ j → j < lo + 64 → ¬ own j) → (s.clause k).live = false →
        (∀ j, lo ≤ j → j < k → (s.clause j).live = true) →
        gives (clauseHandle k (s.clause k).gen) 2 (fun t => only t k { Clause.empty with
          live := true, key, asid := x.csr.asid, world := x.csr.world, gen := (s.clause k).gen, refs := 1,
          quorum := max (h.val 1) 1 })) ∧
      ((∀ j, lo ≤ j → j < lo + 64 → ¬ own j ∧ (s.clause j).live = true) →
        gives 0 1 (fun t => t.clauses = s.clauses))) ∧
    (h.op = .cljoin d a stl → d.toNat < 96 → live → h.act ≠ 0 → c.exp0 ≠ 0 → c.arr0 ≠ c.exp0 → h.hnd ≠ 0 →
      (∀ j, j < 8 → (mapGet Memb.empty x.memb j).handle ≠ h.hnd) → ∀ j, j < 8 →
      (mapGet Memb.empty x.memb j).handle = 0 → mapGet Memb.empty x.memb j = Memb.empty →
      (∀ i, i < j → (mapGet Memb.empty x.memb i).handle ≠ 0) →
      answers (fun t => Answered s t w h ∧ t.readsS w d.toNat (s.clk + 1) (c.phase + 1) ∧
        only t e { c with
          exp1 := c.exp1 + Mask.count h.act, joiners := c.joiners + Mask.count h.act, members := c.members + Mask.count h.act } ∧
        ∀ i, mapGet Memb.empty (t.wave w).memb i = if i = j then { Memb.empty with
          handle := h.hnd, mask := h.act, pending := h.act, phase := c.phase } else mapGet Memb.empty x.memb i)) ∧
    (∀ j, j < 8 → live → h.hnd = clauseHandle e c.gen → x.findMemb h.hnd = some j → x.life = .resident → c.refs ≠ 0 →
      c.exp0 ≠ 0 → c.op0 = none → c.arr1 < c.exp1 → h.arr ≠ 0 → h.arr = h.act →
      let m := mapGet Memb.empty x.memb j
      h.act &&& ~~~ m.mask = 0 → h.act &&& (m.arrived ||| m.pending) = 0 → m.early = 0 →
      let n := Mask.count h.act
      let done := fun (t : State) => (t.clause e).phase = c.phase + 1 ∧ (t.clause e).exp0 = c.exp1 ∧
        (t.clause e).arr0 = c.arr1 ∧ (t.clause e).exp1 = c.members ∧ (t.clause e).arr1 = 0 ∧
        (∀ k, k ≠ e → t.clause k = s.clause k) ∧
        (mapGet Memb.empty (t.wave w).memb j).arrived = 0 ∧ (mapGet Memb.empty (t.wave w).memb j).phase = m.phase + 1
      (h.op = .clarrive a stl → h.holding = false → c.arr0 + n ≠ c.exp0 → answers (fun t => (t.wave w).hops = [] ∧
        only t e { c with arr0 := c.arr0 + n } ∧
        mapGet Memb.empty (t.wave w).memb j = { m with arrived := m.arrived ||| h.act } ∧
        (t.wave w).splits = x.splits)) ∧
      (h.op = .clarrive a stl → h.holding = false → c.arr0 + n = c.exp0 → answers (fun t => (t.wave w).hops = [] ∧
        done t ∧ (t.wave w).splits = x.splits)) ∧
      (h.op = .clbar d a stl → d.toNat < 96 → h.holding = true → c.arr0 + n ≠ c.exp0 → answers (fun t =>
        (t.wave w).hops = [{ h with arrived := some 0, reached := true, binds := h.binds.or (some (s.bindingsNow h)) }] ∧ only t e { c with arr0 := c.arr0 + n } ∧
        (t.wave w).splits = x.splits)) ∧
      (h.op = .clbar d a stl → d.toNat < 96 → h.holding = true → c.arr0 + n = c.exp0 → answers (fun t =>
        (t.wave w).hops = [] ∧ done t ∧ ((t.wave w).split h.split).pc = BitVec.ofNat 64 (h.vals.getD 0 0) ∧
        t.readsS w d.toNat (s.clk + 1) (phaseStatus c.faulted c.phase)))) ∧
    (h.op = .clinfo d a b stl lit → d.toNat < 96 → live → h.val 0 < 5 → answers (fun t => Answered s t w h ∧
      t.clauses = s.clauses ∧ t.readsS w d.toNat (s.clk + 1) (BitVec.ofNat 32
        ([c.phase.toNat, c.exp0, c.arr0, c.exp1, c.refs].getD (h.val 0) 0)))) ∧
    (h.op = .clclose a stl → live → 2 ≤ c.refs → answers (fun t => Answered s t w h ∧
      only t e { c with refs := c.refs - 1 })) ∧
    ((∃ o ∈ [Instr.cljoin d a stl, .clwait d a stl, .clbar d a stl, .clclose a stl, .clinfo d a b stl lit], h.op = o) →
      ¬ live → x.csr.handler = false → x.csr.trapvec ≠ 0 → s.nlBusy w = false → h.split < 4 → h.holding = true →
      answers (fun t => (t.wave w).hops = [] ∧
        Entered s t { wave := w, split := h.split, pc := (x.split h.split).pc, next := 0 } 0x0B (x.split h.split).pc 2))

/-- R164 to R166, R168: the arrival that is the last of a phase releases those that wait for it: a CLBAR, CLWAIT, CLVOTE or CLRED of
another wave whose lanes have no arrival in the next phase goes on, with the status of the completed phase, and a vote or
reduction with LAST, the result of that phase. -/
def Claims.PhasesReleaseTheirWaiters : Prop :=
  ∀ (s : State) (w v : Nat) (h g : HomeOp) (d a b : Code) (kind ty : BitVec 2) (op : BitVec 4) (st : BitVec 7) (stl stl' : Stall) (i j : Nat),
    v ≠ w → s.nums = [w, 0] → (s.wave w).hops = [h] → (s.wave v).hops = [g] → (∀ u, u ≠ w → u ≠ v → (s.wave u).hops = []) →
    (s.wave w).flight = [] → (s.wave w).ra = none → (s.wave v).ra = none → (s.wave w).life = .resident → (s.wave v).life = .resident →
    (s.wave v).splits.length = 5 → g.split < 5 → (s.cluster (s.wave v).cluster).copies = [] →
    let x := s.wave w
    let y := s.wave v
    let e := handleEntry h.hnd
    let c := s.clause e
    let m := mapGet Memb.empty x.memb i
    let q := mapGet Memb.empty y.memb j
    h.op = .clarrive a stl → h.holding = false → h.reached = false → h.hnd = clauseHandle e c.gen → g.hnd = h.hnd →
    s.clauseLive h.hnd x.csr.asid x.csr.world = true → y.csr.asid = x.csr.asid → y.csr.world = x.csr.world →
    x.findMemb h.hnd = some i → y.findMemb h.hnd = some j → h.arr = h.act → h.act ≠ 0 → h.act &&& ~~~ m.mask = 0 →
    h.act &&& (m.arrived ||| m.pending) = 0 → m.early = 0 → c.arr0 + Mask.count h.act = c.exp0 → c.arr1 < c.exp1 → c.refs ≠ 0 →
    g.holding = true → g.arrived.isSome = true → q.early &&& g.act = 0 →
    let last := clauseResult c.op0 c.data0
    let freed := fun (P : State → Prop) => Answers .clauseHomeOp s (fun t => t.mem = s.mem ∧ (t.wave w).hops = [] ∧
      (t.wave v).hops = [] ∧ ((t.wave v).split g.split).pc = BitVec.ofNat 64 (g.vals.getD 0 0) ∧ ((t.wave v).split g.split).wait = .none ∧
      (t.clause e).phase = c.phase + 1 ∧ (t.clause e).last = last ∧ P t)
    (d.toNat < 96 → (g.op = .clbar d b stl' ∨ g.op = .clwait d b stl') →
      freed (fun t => t.readsS v d.toNat (s.clk + 1) (phaseStatus c.faulted c.phase))) ∧
    (d.toNat < 96 → st.toNat < 96 → d.toNat ≠ st.toNat → g.op = .clvote d a b kind st stl' →
      freed (fun t => t.readsS v d.toNat (s.clk + 1) (last.extractLsb' 0 32) ∧
        t.readsS v st.toNat (s.clk + 1) (phaseStatus c.faulted c.phase))) ∧
    (st.toNat < 96 → ty.toNat < 2 → g.op = .clred d a b op ty st stl' →
      freed (fun t => t.readsS v st.toNat (s.clk + 1) (phaseStatus c.faulted c.phase) ∧
        ∀ L, L < 64 → g.act.getLsbD L = true → t.readsV v d.toNat L (s.clk + 1) (last.extractLsb' 0 32)))

/-- R161, R163 to R166: at the home, lanes that join a clause whose phase has no members complete it once they reach the quorum; a
leave takes its lanes out of the counts, and may be the last that a phase waits for; a CLWAIT whose lanes have nothing to wait
for is answered at once, and another stays; a vote or reduction that arrives carries its operation and its values, and one of
another operation is CLAUSE, subcode 6; the close of the last reference frees an entry without members. -/
def Claims.ClausesCountTheirLanes : Prop :=
  ∀ (s : State) (w : Nat) (h : HomeOp) (d a b : Code) (kind ty : BitVec 2) (op : BitVec 4) (st : BitVec 7) (stl : Stall), AtHome s w h →
    let x := s.wave w
    let e := handleEntry h.hnd
    let c := s.clause e
    let answers := fun (P : State → Prop) => Answers .clauseHomeOp s (fun t => t.mem = s.mem ∧ P t)
    let only := fun (t : State) (c : Clause) => t.clause e = c ∧ ∀ k, k ≠ e → t.clause k = s.clause k
    let traps := fun (arg : Dword) => x.csr.handler = false → x.csr.trapvec ≠ 0 → s.nlBusy w = false → h.split < 4 →
      answers (fun t => (t.wave w).hops = [] ∧
        Entered s t { wave := w, split := h.split, pc := (x.split h.split).pc, next := 0 } 0x0B (x.split h.split).pc arg)
    s.clauseLive h.hnd x.csr.asid x.csr.world = true → h.hnd = clauseHandle e c.gen → x.life = .resident →
    (h.op = .cljoin d a stl → d.toNat < 96 → h.act ≠ 0 → c.exp0 = 0 → (∀ j, j < 8 → (mapGet Memb.empty x.memb j).handle ≠ h.hnd) →
      ∀ j, j < 8 → (mapGet Memb.empty x.memb j).handle = 0 → mapGet Memb.empty x.memb j = Memb.empty →
      (∀ i, i < j → (mapGet Memb.empty x.memb i).handle ≠ 0) →
      let n := Mask.count h.act
      let quorum := if c.phase = 0 then c.quorum else 1
      let slot := fun (t : State) => mapGet Memb.empty (t.wave w).memb j
      (c.joiners + n < quorum → answers (fun t => Answered s t w h ∧ t.readsS w d.toNat (s.clk + 1) (c.phase + 1) ∧
        only t { c with exp1 := c.exp1 + n, joiners := c.joiners + n, members := c.members + n } ∧
        (slot t).pending = h.act ∧ (slot t).phase = c.phase)) ∧
      (quorum ≤ c.joiners + n → c.arr1 < c.exp1 + n → answers (fun t => (t.wave w).hops = [] ∧
        ((t.wave w).split h.split).pc = BitVec.ofNat 64 (h.vals.getD 0 0) ∧ ((t.wave w).split h.split).wait = .none ∧ t.readsS w d.toNat (s.clk + 1) (c.phase + 1) ∧ (t.clause e).phase = c.phase + 1 ∧ (t.clause e).exp0 = c.exp1 + n ∧
        (t.clause e).arr0 = c.arr1 ∧ (t.clause e).joiners = 0 ∧ (t.clause e).members = c.members + n ∧
        (∀ k, k ≠ e → t.clause k = s.clause k) ∧ (slot t).mask = h.act ∧ (slot t).pending = 0 ∧ (slot t).phase = c.phase + 1))) ∧
    (∀ j, x.findMemb h.hnd = some j →
      let m := mapGet Memb.empty x.memb j
      let n := Mask.count h.act
      (h.op = .clleave a stl → h.holding = false → h.val 0 = 0 →
        let k := fun (p : Mask) => Mask.count (h.act &&& m.mask &&& p)
        let (nd, na, nj, nae, nje) := (k (~~~ m.arrived &&& ~~~ m.pending), k (m.arrived &&& ~~~ m.early), k (m.pending &&& ~~~ m.early),
          k (m.arrived &&& m.early), k (m.pending &&& m.early))
        let c' := { c with
          exp0 := c.exp0 - nd, exp1 := c.exp1 - nd - na - nj, joiners := c.joiners - nj - nje, members := c.members - nd - na - nj - nae - nje }
        (c'.refs ≠ 0 ∨ c'.members ≠ 0) →
        (c'.exp0 = 0 ∨ c'.arr0 ≠ c'.exp0 → answers (fun t => (t.wave w).hops = [] ∧ only t c' ∧ (t.wave w).splits = x.splits ∧
          mapGet Memb.empty (t.wave w).memb j = if m.mask &&& ~~~ h.act = 0 ∧ m.waiting = 0 then Memb.empty else { m with
            mask := m.mask &&& ~~~ h.act, arrived := m.arrived &&& ~~~ h.act, pending := m.pending &&& ~~~ h.act,
            early := m.early &&& ~~~ h.act })) ∧
        (c'.exp0 ≠ 0 → c'.arr0 = c'.exp0 → ¬ (c'.exp1 ≠ 0 ∧ c'.arr1 = c'.exp1) → answers (fun t => (t.wave w).hops = [] ∧
          (t.clause e).phase = c.phase + 1 ∧ (t.clause e).exp0 = c'.exp1 ∧ (t.clause e).arr0 = c.arr1 ∧
          (t.clause e).members = c'.members ∧ ∀ k, k ≠ e → t.clause k = s.clause k))) ∧
      (h.op = .clwait d a stl → d.toNat < 96 → h.holding = true →
        (h.act &&& m.mask &&& (m.arrived ||| m.early) = 0 → m.waiting &&& h.act = 0 → answers (fun t => Answered s t w h ∧
          t.clauses = s.clauses ∧ t.readsS w d.toNat (s.clk + 1) (phaseStatus c.faulted (c.phase - 1)))) ∧
        (h.act &&& m.mask &&& m.arrived ≠ 0 → answers (fun t => t.clauses = s.clauses ∧ (t.wave w).splits = x.splits ∧
          (t.wave w).hops.map (fun q => (q.arrived.isSome, q.act, q.op)) = [(true, h.act, h.op)]))) ∧
      (h.act &&& ~~~ m.mask = 0 → h.act &&& (m.arrived ||| m.pending) = 0 → m.early = 0 → h.arr = h.act → h.act ≠ 0 →
        c.refs ≠ 0 → h.holding = true → (h.vals.drop 2).length = n → c.arr0 + n ≠ c.exp0 → c.exp0 ≠ 0 →
        ∀ o : Nat × Nat × Nat, (h.op = .clvote d a b kind st stl ∧ o = (1, kind.toNat, 0) ∨
          h.op = .clred d a b op ty st stl ∧ o = (2, op.toNat, ty.toNat)) →
        (c.op0 = none ∨ c.op0 = some o → answers (fun t => (t.wave w).hops.length = 1 ∧ (t.wave w).splits = x.splits ∧
          only t { c with arr0 := c.arr0 + n, op0 := some o, data0 := c.data0 ++ (h.vals.drop 2).map (BitVec.ofNat 64) } ∧
          mapGet Memb.empty (t.wave w).memb j = { m with arrived := m.arrived ||| h.act })) ∧
        (c.op0 ≠ none → c.op0 ≠ some o → traps 6))) ∧
    (h.op = .clclose a stl → h.holding = true →
      (c.refs = 1 → c.members = 0 → answers (fun t => Answered s t w h ∧ only t { Clause.empty with gen := (c.gen + 1) % 2 ^ 20 } ∧
        ∀ g, g ∈ t.bindings ↔ g ∈ s.bindings ∧ (g.isAddr = true ∨ g.obj ≠ e))) ∧
      (c.refs = 1 → c.members ≠ 0 → answers (fun t => Answered s t w h ∧ only t { c with refs := 0 })) ∧
      (c.refs = 0 → traps 4)) ∧
    (∀ sel, sel = 5 ∨ sel = 6 → (∃ lit, h.op = .clinfo d a b stl lit) → d.toNat < 96 → h.val 0 = sel → answers (fun t => Answered s t w h ∧
      only t { c with faulted := c.faulted && sel = 5 } ∧
      t.readsS w d.toNat (s.clk + 1) (if c.faulted then 0x80000000 else 0)))

/-- R166: the result of a phase over the values of its lanes: votes count the true ones, a sum wraps, and the bitwise operations take
all of them, in whatever order they have come. -/
def Claims.PhasesHaveAResult : Prop :=
  ∀ (v : Dword) (vs : List Dword) (ty : Nat), ty < 4 →
    let data := v :: vs
    let r := fun (op : Nat × Nat × Nat) => clauseResult (some op) data
    let n := (data.filter (fun x => x ≠ 0)).length
    let wd := if ty < 2 then 32 else 64
    let int := fun (x : Dword) => if ty % 2 = 0 then (if ty < 2 then (x.setWidth 32).toInt else x.toInt)
      else (if ty < 2 then ((x.setWidth 32).toNat : Int) else (x.toNat : Int))
    r (1, 0, 0) = (if n ≠ 0 then 1 else 0) ∧ r (1, 1, 0) = (if n = data.length then 1 else 0) ∧ (r (1, 2, 0)).toNat = n % 2 ^ 64 ∧
    (r (2, 0, ty)).toNat % 2 ^ wd = (data.map BitVec.toNat).sum % 2 ^ wd ∧
    (∀ i, i < 64 → (r (2, 3, ty)).getLsbD i = data.all (fun x => x.getLsbD i) ∧
      (r (2, 4, ty)).getLsbD i = data.any (fun x => x.getLsbD i) ∧
      (r (2, 5, ty)).getLsbD i = decide ((data.filter (fun x => x.getLsbD i)).length % 2 = 1)) ∧
    r (2, 1, ty) ∈ data ∧ (∀ x ∈ data, int (r (2, 1, ty)) ≤ int x) ∧ r (2, 2, ty) ∈ data ∧ ∀ x ∈ data, int x ≤ int (r (2, 2, ty))

/-- What clause operations do at their home. -/
def Obligations.ClauseOperationsActAtHome : Prop :=
  Claims.ClauseOperationsActAtHome ∧
  Claims.PhasesReleaseTheirWaiters ∧
  Claims.ClausesCountTheirLanes ∧
  Claims.PhasesHaveAResult

/-- R171, R172, R178, R181, R148: what bindings, locks, queues, rings and fences do at their homes. -/
def Claims.ObjectOperationsActAtHome : Prop :=
  ∀ (s : State) (w : Nat) (h : HomeOp) (d a b : Code) (index : BitVec 4) (scope : BitVec 3) (clear : BitVec 1) (stl : Stall)
    (lit : Option Word), AtHome s w h →
    let x := s.wave w
    let answers := fun (e : Instr) (P : State → Prop) => Answers e s P
    let waits := fun (e : Instr) => answers e (fun t => t = { s with waves := t.waves } ∧
      (∀ v, v ≠ w → t.wave v = s.wave v) ∧ t.wave w = { x with
        hops := [{ h with reached := true, binds := h.binds.or (some (s.bindingsNow h)) }] })
    let outside := fun (t : State) (as : List (Nat × Nat)) => ∀ p, (∀ e ∈ as, p < e.1 ∨ e.1 + e.2 ≤ p) →
      t.readByte p = s.readByte p
    let quietMem := fun (t : State) => t.mem = s.mem
    (h.op = .bind d a b index scope clear stl lit → 2 ≤ handleType h.hnd →
      let other := fun (g : Binding) => ¬ (g.isAddr = true ∧ g.obj = h.pa ∧ g.index = index.toNat ∧ g.world = x.csr.world)
      let mine := fun (g : Binding) => g.isAddr = true ∧ g.obj = h.pa ∧ g.index = index.toNat ∧
        g.base = BitVec.ofNat 64 (h.val 0) ∧ g.len = h.val 1 ∧ g.scope = scope.toNat ∧ g.asid = x.csr.asid ∧
        g.world = x.csr.world
      (clear = 1 → answers .bindHomeOp (fun t => Answered s t w h ∧ quietMem t ∧
        ∀ g, g ∈ t.bindings ↔ g ∈ s.bindings ∧ other g)) ∧
      (clear = 0 → (s.boundObjects h.slice).length < 512 → answers .bindHomeOp (fun t => Answered s t w h ∧ quietMem t ∧
        (∃ g ∈ t.bindings, mine g) ∧ ∀ g, ¬ mine g → (g ∈ t.bindings ↔ g ∈ s.bindings ∧ other g)))) ∧
    (h.op = .rel a b stl lit → answers .lockHomeOp (fun t => (t.wave w).hops = [] ∧ (t.wave w).splits = x.splits ∧
      t.readNat h.pa 8 = h.val 0 % 2 ^ 64 ∧ outside t [(h.pa, 8)])) ∧
    (h.op = .acq d a b stl lit → d.toNat < 95 →
      (s.readNat h.pa 8 < h.val 0 → waits .lockHomeOp) ∧
      (h.val 0 ≤ s.readNat h.pa 8 → answers .lockHomeOp (fun t => Answered s t w h ∧ quietMem t ∧
        t.readsS w d.toNat (s.clk + 1) (BitVec.ofNat 32 (s.readNat h.pa 8)) ∧
        t.readsS w (d.toNat + 1) (s.clk + 1) (BitVec.ofNat 32 (s.readNat h.pa 8 / 2 ^ 32))))) ∧
    (h.op = .qenqu d a b stl → d.toNat < 96 →
      let q := s.queueHead h.pa
      let n := 2 ^ q.elog
      q.sub = 0 → q.elog = h.val 0 →
      (q.room = 0 → answers .queueHomeOp (fun t => Answered s t w h ∧ quietMem t ∧ t.readsS w d.toNat (s.clk + 1) 1)) ∧
      (0 < q.room → ∀ pa, checkVa s (s.space w) .write n (q.slot q.tail) = .ok pa → (pa + n ≤ h.pa ∨ h.pa + 128 ≤ pa) →
        answers .queueHomeOp (fun t => Answered s t w h ∧ t.readsS w d.toNat (s.clk + 1) 0 ∧
          t.readNat pa n = h.val 1 % 2 ^ (8 * n) ∧ t.readNat (h.pa + 0x18) 8 = (q.tail + 1) % 2 ^ 64 ∧
          outside t [(pa, n), (h.pa + 0x18, 8)]))) ∧
    (let r := s.ringHead h.pa
     (h.op = .rares d a stl → d.toNat < 95 →
       (r.resv - r.rel = 2 ^ r.cnt → waits .ringHomeOp) ∧
       (r.resv - r.rel ≠ 2 ^ r.cnt → ∀ pa, checkVa s (s.space w) .write 4 (r.stat r.resv) = .ok pa →
         (pa + 4 ≤ h.pa ∨ h.pa + 128 ≤ pa) → answers .ringHomeOp (fun t => Answered s t w h ∧
           t.readsS w d.toNat (s.clk + 1) (BitVec.ofNat 32 r.resv) ∧
           t.readsS w (d.toNat + 1) (s.clk + 1) (BitVec.ofNat 32 (r.resv / 2 ^ 32)) ∧
           t.readNat (h.pa + 0x10) 8 = (r.resv + 1) % 2 ^ 64 ∧ t.readNat pa 4 = 0 ∧
           outside t [(h.pa + 0x10, 8), (pa, 4)]))) ∧
     (h.op = .rawait d a b stl lit → d.toNat < 96 →
       (r.fill ≤ h.val 0 → waits .ringHomeOp) ∧
       (h.val 0 < r.fill → ∀ pa, checkVa s (s.space w) .read 4 (r.stat (h.val 0)) = .ok pa →
         answers .ringHomeOp (fun t => Answered s t w h ∧ quietMem t ∧
           t.readsS w d.toNat (s.clk + 1) (BitVec.ofNat 32 (s.readNat pa 4))))) ∧
     (h.op = .rarel a b stl lit → answers .ringHomeOp (fun t => Answered s t w h ∧
       t.readNat (h.pa + 0x20) 8 = max r.rel (h.val 0) % 2 ^ 64 ∧ outside t [(h.pa + 0x20, 8)]))) ∧
    (h.op = .fenceH scope stl → x.life = .resident → h.vals.length = 2 → (∀ v, (s.wave v).flight = []) →
      (∀ c, (s.cluster c).copies = []) → Answers .fenceHReturn { s with nums := [w, h.split] } (fun t =>
        Answered s t w h ∧ quietMem t))

/-- R178, R266: QENQ, QENQU and QPOP at a queue's home move as many entries as there are lanes, room or stock, in ascending lane
order, and say in a predicate which lanes; a header that stands no longer as at issue moves nothing. LAUNCH, at a watched queue,
enters its record's address, answers 1 where the queue is full, and 2 where it is not a launch queue any more. -/
def Claims.QueuesMoveTheirEntries : Prop :=
  ∀ (s : State) (w : Nat) (h : HomeOp) (d a b : Code) (stl : Stall) (lit : Option Word) (place : Nat → Nat) (v : Mask), AtHome s w h →
    let q := s.queueHead h.pa
    let n := 2 ^ q.elog
    let outside := fun (t : State) (as : List (Nat × Nat)) => ∀ p, (∀ e ∈ as, p < e.1 ∨ e.1 + e.2 ≤ p) → t.readByte p = s.readByte p
    let rank := fun (L : Nat) => Mask.count (h.act &&& BitVec.ofNat 64 (2 ^ L - 1))
    let slots := fun (acc : Access) (i m : Nat) => (∀ k, k < m → checkVa s (s.space w) acc n (q.slot (i + k)) = .ok (place k) ∧
      (place k + n ≤ h.pa ∨ h.pa + 128 ≤ place k)) ∧ ∀ k l, k < l → l < m → place k + n ≤ place l ∨ place l + n ≤ place k
    let bits := fun (p : Code) (m : Nat) => ∀ L, L < 64 →
      v.getLsbD L = if h.act.getLsbD L then decide (rank L < m) else (s.pReg w p.toNat).getLsbD L
    let filled := fun (t : State) (m : Nat) (entry : Nat → Nat) => (∀ k, k < m → t.readNat (place k) n = entry k % 2 ^ (8 * n)) ∧
      t.readNat (h.pa + 0x18) 8 = (q.tail + m) % 2 ^ 64 ∧ outside t ((h.pa + 0x18, 8) :: (List.range m).map (fun k => (place k, n)))
    let answers := fun (P : State → Prop) => Answers .queueHomeOp s (fun t => (∀ u, u ≠ w → t.wave u = s.wave u) ∧
      (t.wave w).hops = [] ∧ ((t.wave w).split h.split).pc = BitVec.ofNat 64 (h.vals.getD 0 0) ∧
      ((t.wave w).split h.split).wait = .none ∧ P t)
    (h.op = .qenq d a b stl → d.toNat < 8 → q.sub = 0 → q.elog = h.val 0 →
      let m := min (Mask.count h.act) q.room
      Mask.count h.act + 3 ≤ h.vals.length → slots .write q.tail m → bits d m →
      answers (fun t => t.readsP w d.toNat (s.clk + 1) v ∧ filled t m (fun k => h.val (k + 1)))) ∧
    (h.op = .qpop d a b stl → b.toNat < 8 → q.sub = 0 → q.elog = h.val 0 → q.watched = false → d.toNat + n / 4 ≤ 128 →
      let m := min (Mask.count h.act) q.stock
      slots .read q.head m → bits b m →
      answers (fun t => t.readsP w b.toNat (s.clk + 1) v ∧
        (∀ L r, L < 64 → r < n / 4 → h.act.getLsbD L = true → rank L < m →
          t.readsV w (d.toNat + r) L (s.clk + 1) (BitVec.ofNat 32 (s.readNat (place (rank L) + 4 * r) 4))) ∧
        (∀ L r, h.act.getLsbD L = false ∨ m ≤ rank L ∨ r < d.toNat ∨ d.toNat + n / 4 ≤ r → L < 64 → t.vReg w r L = s.vReg w r L) ∧
        t.readNat (h.pa + 0x10) 8 = (q.head + m) % 2 ^ 64 ∧ outside t [(h.pa + 0x10, 8)])) ∧
    ((h.op = .qenq d a b stl ∧ d.toNat < 8 ∧ bits d 0 ∨ h.op = .qpop b a d stl ∧ d.toNat < 8 ∧ bits d 0) →
      (q.sub ≠ 0 ∨ q.elog ≠ h.val 0 ∨ h.op = .qpop b a d stl ∧ q.watched = true) → answers (fun t => t.readsP w d.toNat (s.clk + 1) v ∧ t.mem = s.mem)) ∧
    (h.op = .qenqu d a b stl → d.toNat < 96 → (q.sub ≠ 0 ∨ q.elog ≠ h.val 0) →
      answers (fun t => t.readsS w d.toNat (s.clk + 1) 2 ∧ t.mem = s.mem)) ∧
    (h.op = .launch d a b stl lit → d.toNat < 96 →
      (q.sub ≠ 0 ∨ q.watched = false → answers (fun t => t.readsS w d.toNat (s.clk + 1) 2 ∧ t.mem = s.mem)) ∧
      (q.sub = 0 → q.watched = true → q.room = 0 → answers (fun t => t.readsS w d.toNat (s.clk + 1) 1 ∧ t.mem = s.mem)) ∧
      (q.sub = 0 → q.watched = true → 0 < q.room → slots .write q.tail 1 →
        answers (fun t => t.readsS w d.toNat (s.clk + 1) 0 ∧ filled t 1 (fun _ => h.val 0))))

/-- What bindings, locks, queues, rings and fences do at their home. -/
def Obligations.ObjectOperationsActAtHome : Prop :=
  Claims.ObjectOperationsActAtHome ∧ Claims.QueuesMoveTheirEntries

/-- R261, R262, R266, R268: LAUNCH sends an entry to a launch queue; firmware writes a launch context; the distributor pops the
head of a queue into a free entry of the dependence table, reads and judges its record, and starts a task that nothing before it
keeps from starting. A clause that the record's DONE names expects one more reception (R276): that DONE is read for it as the entry
is popped is the model's (log 67). -/
def Obligations.LaunchesEnterTheTable : Prop :=
  (∀ (s : State) (f : Focus) (d a b : Code) (stl : Stall) (lit : Option Word) (pa : Nat), s.calm f = true →
    dstOk d = true → hOk a = true → pairSrcOk false b = true →
    let h := s.readH f.wave a.toNat
    let va := s.readPair f.wave f.split lit b
    let q := s.queueHead pa
    let i := Instr.launch d a b stl lit
    handleType h = 3 → (handleAddr h).toNat % 128 = 0 →
    checkVa s (s.space f.wave) .readWrite 1 (handleAddr h) = .ok pa → q.sub = 0 →
    (q.watched = false → Traps i s f 0x0D f.pc 5) ∧
    (q.watched = true → canonical va = false → Traps i s f 0x07 f.pc va) ∧
    (q.watched = true → canonical va = true → va.toNat % 128 ≠ 0 → Traps i s f 0x05 f.pc va) ∧
    (q.watched = true → canonical va = true → va.toNat % 128 = 0 → Answers i s (fun t =>
      PutHop s t f (hopOf f stl i h 0 pa [va.toNat] true)))) ∧
  (∀ (s : State) (i hd asid tt w pr tv sq sz : Nat), i < 256 → asid < 65536 → tt < 2 ^ 38 → tt % 65536 = 0 → w < 2 →
    pr < 2 → tv % 4 = 0 →
    (s.nums = [i, hd, asid, tt, w, pr, tv, sq, sz] → Answers .launchContextWrite s (fun t =>
      t = { s with ctxs := t.ctxs } ∧ ∀ k, t.ctx k = if k = i then some {
        header := BitVec.ofNat 64 hd, asid, ttbase := BitVec.ofNat 64 tt, world := w, priv := pr = 1,
        trapvec := BitVec.ofNat 64 tv, saveq := BitVec.ofNat 64 sq, savesize := BitVec.ofNat 32 sz } else s.ctx k)) ∧
    (s.nums = [i] → Answers .launchContextWrite s (fun t =>
      t = { s with ctxs := t.ctxs } ∧ ∀ k, t.ctx k = if k = i then none else s.ctx k))) ∧
  (∀ (s : State) (i t pa slot : Nat) (c : LaunchCtx) (q : QHead), s.poppable = [(i, c, pa, q)] → s.freeTask = some t →
    q.prio < 4 → touchSlot s c.space .read (2 ^ q.elog) (q.slot q.head) = .at slot →
    Answers .launchQueuePop s (fun u =>
      u = { s with
        mem := u.mem, badSectors := u.badSectors, tasks := u.tasks, clauses := u.clauses, admitted := s.admitted + 1,
        orders := s.orders + 1, lastPop := u.lastPop } ∧
      (∀ p, mapGet 0 u.lastPop p = if p = q.prio then i else mapGet 0 s.lastPop p) ∧
      u.readNat (pa + 0x10) 8 = (q.head + 1) % 2 ^ 64 ∧
      (∀ p, p < pa + 0x10 ∨ pa + 0x18 ≤ p → u.readByte p = s.readByte p) ∧
      (∀ k, k ≠ t → u.task k = s.task k) ∧
      let r : Dword := BitVec.ofNat 64 (s.readNat slot 8)
      let done := (u.task t).done
      u.task t = { Task.empty with
        state := .popped, ctx := i, record := r, qprio := q.prio, order := s.orders,
        launchid := BitVec.ofNat 32 (s.admitted % 2 ^ 24 * 256 + t), done0 := (u.task t).done0, counted := (u.task t).counted } ∧
      (canonical r = false ∨ r.toNat % 128 ≠ 0 → (u.task t).done0 = none) ∧
      (∀ bytes, canonical r = true → r.toNat % 128 = 0 → u.engRead c.space r 128 = .ok bytes →
        (u.task t).done0 = some (BitVec.ofNat 64 (fieldNat bytes 0x28 8))) ∧
      (handleType done = 1 → s.clauseLive done c.asid c.world = true → (u.task t).counted = true ∧
        let e := handleEntry done
        ∀ k, u.clause k = if k = e then { s.clause e with exp0 := (s.clause e).exp0 + 1 } else s.clause k) ∧
      (handleType done ≠ 1 → (u.task t).counted = false ∧ u.clauses = s.clauses))) ∧
  (∀ (s : State) (t pa : Nat) (c : LaunchCtx) (bytes : List Byte), s.nums = [t] →
    let k := s.task t
    k.state = .popped → k.wait = none → s.ctx k.ctx = some c → canonical k.record = true → k.record.toNat % 128 = 0 →
    s.engRead c.space k.record 128 = .ok bytes → ({ k with bytes }).recordOk c = true → c.saveq ≠ 0 →
    c.saveq.toNat % 128 = 0 → checkVa s c.space .readWrite 1 c.saveq = .ok pa → (s.queueHead pa).sub = 0 →
    handleType (({ k with bytes }).done) ≠ 1 →
    Answers .launchRecordRead s (fun u => u = { s with tasks := u.tasks } ∧ (∀ j, j ≠ t → u.task j = s.task j) ∧
      u.task t = { k with bytes, state := .ready })) ∧
  (∀ (s : State) (t : Nat), s.nums = [t] → (s.task t).state = .ready →
    (∀ e ∈ s.tasks, e.2.blocks (s.task t) = false) →
    Answers .taskStart s (fun u => u = { s with tasks := u.tasks } ∧ (∀ j, j ≠ t → u.task j = s.task j) ∧
      u.task t = { s.task t with state := .started }))

/-- R270 to R274: a started task's next gang is placed on a cluster that has what it needs, with its save areas popped, and
each of its waves starts in the start state: split 0 READY at ENTRY with all lanes, s0 and s1 = ARGS, s2 to s4 the gang's
place, every other register 0. -/
def Obligations.GangsArePlacedAndWavesStart : Prop :=
  (∀ (s v : State) (n pick run c rb : Nat) (seats : List (Nat × Nat)) (runs : List Nat) (x : LaunchCtx) (areas : List Dword),
    s.nums = [n, pick, run] →
    let u := s.sweep
    let k := u.task n
    (∀ e ∈ u.tasks, e.2.before k = true → u.homesFor e.2 = []) → pickHome k.lastCluster pick (u.homesFor k) = some (c, seats, runs) →
    u.ctx k.ctx = some x → choose runs run = some rb → u.popAreas x k.waves = some (areas, v) →
    Answers .gangPlace s (fun t =>
      let g := t.gang (u.orders + 1)
      let (gx, gy, gz) := k.coords k.nextGang
      g.live = true ∧ g.cluster = c ∧ g.task = n ∧ (g.x, g.y, g.z) = (gx, gy, gz) ∧
      g.gidx = gx + k.gx * (gy + k.gy * gz) ∧ g.seats = seats ∧ g.waves = seats.length ∧ g.vregs = k.vregs ∧
      g.areas = areas ∧ g.rb = rb ∧ g.accRows = k.field 0x24 2 ∧ g.scrKib = k.field 0x1E 2 ∧ g.ids = [] ∧ g.scratch = [] ∧
      (∀ j, j ≠ u.orders + 1 → t.gang j = u.gang j) ∧ t.waves = u.waves ∧ t.mem = v.mem ∧
      t.task n = { k with nextGang := k.nextGang + 1, lastCluster := some c } ∧ (∀ j, j ≠ n → t.task j = u.task j) ∧
      t.orders = u.orders + 1 ∧
      ∀ r, mapGet 0 (t.cluster c).acc r =
        if 128 * rb ≤ r ∧ r < 128 * (rb + k.field 0x24 2) then 0 else mapGet 0 (u.cluster c).acc r)) ∧
  (∀ (s : State) (n i : Nat) (x : LaunchCtx) (area : Dword) (r : List Dword), s.nums = [n, i] →
    let g := s.gang n
    let k := s.task g.task
    s.ctx k.ctx = some x → g.areas = area :: r → g.live = true → i = g.waves - g.areas.length →
    (s.cluster g.cluster).copies = [] →
    Answers .waveStart s (fun t =>
      let w := s.orders + 1
      let y := t.wave w
      t = { s with waves := t.waves, gangs := t.gangs, orders := w } ∧ (∀ v, v ≠ w → t.wave v = s.wave v) ∧
      (∀ j, j ≠ n → t.gang j = s.gang j) ∧ t.gang n = { g with areas := r, ids := (t.gang n).ids } ∧
      (∀ j, mapGet 0 (t.gang n).ids j = if j = i then w else mapGet 0 g.ids j) ∧
      y.life = .resident ∧ y.cluster = g.cluster ∧ (y.core, y.slot) = g.seats.getD i (0, 0) ∧ y.gang = n ∧ y.idx = i ∧
      y.blocks = g.vregs ∧ y.mode = 0 ∧ y.v = [] ∧ y.p = [] ∧ y.h = [] ∧ y.k = [] ∧
      (∀ j, mapGet 0 y.s j = BitVec.ofNat 32 ([k.field 8 8, k.field 8 8 / 2 ^ 32, g.x, g.y, g.z].getD j 0)) ∧
      (y.split 0).pc = k.entryVa ∧ (y.split 0).state = 1 ∧ (y.split 0).own = BitVec.allOnes 64 ∧
      (y.split 0).exec = BitVec.allOnes 64 ∧ (∀ j, 0 < j → j < 5 → y.split j = Split.free) ∧
      y.csr.trapvec = x.trapvec ∧ y.csr.savearea = area ∧ y.area = area ∧ y.csr.savesize = x.savesize ∧ y.csr.launchid = k.launchid ∧
      y.csr.priv = x.priv ∧ y.csr.handler = false ∧ y.csr.prio = k.prio ∧ y.csr.asid = x.asid ∧ y.csr.world = x.world ∧
      y.csr.ttbase = x.ttbase ∧ y.csr.fpstat = 0))

/-- R262, R275, R276: a wave that has ended and whose operations are settled gives its slot and save area back; a task whose
waves have all ended leaves the table, and posts its completion where its record names a queue: the record's address,
LAUNCHID and the status, 0 or 2 where a wave died; or one reception where it names a clause. -/
def Obligations.WavesAndTasksEnd : Prop :=
  (∀ (s v : State) (w : Nat) (c : LaunchCtx), s.nums = [w] →
    let x := s.wave w
    let g := s.gang x.gang
    x.finished = true → s.ctx (s.task g.task).ctx = some c → s.returnArea c x.area = (v, true) →
    g.released.length + 1 < g.waves →
    Answers .waveSlotRelease s (fun t => t.wave w = x.gone ∧ (∀ j, j ≠ w → t.wave j = s.wave j) ∧ t.mem = v.mem ∧
      (t.gang x.gang).released = g.released ++ [x.idx] ∧ t.tasks = s.tasks)) ∧
  (∀ (s : State) (t : Nat) (c : LaunchCtx), s.nums = [t] →
    let u := s.sweep
    let k := u.task t
    u.ctx k.ctx = some c →
    let gone := fun (v : State) => (∀ j, v.task j = if j = t then Task.empty else u.task j) ∧ v.waves = u.waves ∧
      v.gangs = u.gangs
    let posts := fun (i : Instr) (status : Nat) => (handleType k.done = 0 → Answers i s (fun v => gone v ∧ v.mem = u.mem)) ∧
      (handleType k.done = 1 → k.counted = true → u.clauseLive k.done c.asid c.world = true → (∀ w, (u.wave w).hops = []) →
        let e := handleEntry k.done
        let l := u.clause e
        l.refs ≠ 0 → l.exp0 ≠ 0 → l.arr0 + 1 ≠ l.exp0 → Answers i s (fun v => gone v ∧ v.mem = u.mem ∧
          ∀ j, v.clause j = if j = e then { l with arr0 := l.arr0 + 1 } else u.clause j)) ∧
      (handleType k.done = 3 → ∀ pa slot,
        let q := u.queueHead pa
        let n := 2 ^ q.elog
        (handleAddr k.done).toNat % 128 = 0 → checkVa u c.space .readWrite 1 (handleAddr k.done) = .ok pa →
        u.badAt pa 128 = false → q.sub = 0 → u.lineOwned (pa / 128) = false → 0 < q.room →
        touchSlot u c.space .write n (q.slot q.tail) = .at slot → u.badAt slot n = false → (slot + n ≤ pa ∨ pa + 128 ≤ slot) →
        Answers i s (fun v => gone v ∧ v.readNat slot 8 = k.record.toNat ∧ v.readNat (slot + 8) 4 = k.launchid.toNat ∧
          v.readNat (slot + 12) 4 = status % 2 ^ 32 ∧ v.readNat (pa + 0x18) 8 = (q.tail + 1) % 2 ^ 64 ∧
          ∀ p, (p < slot ∨ slot + n ≤ p) → (p < pa + 0x18 ∨ pa + 0x20 ≤ p) → v.readByte p = u.readByte p))
    (u.taskOver t = true → posts .taskRetire (if k.anyDied then 2 else 0)) ∧
    (∀ status, u = s → k.state = .posting status → k.wait = none → k.retryAt ≤ s.clk → posts .completionRetry status))

/-- R95, R299, R300: a wave with a ready split that has not issued for 512 clk is starving; a run-ahead that has reached a
limit ends; and its rollback, once its loads have returned, gives the wave back its registers, splits and counters of the
faulting instruction, with the counts of the run-ahead in RAPAGES and RAINSNS; a checkpoint with an uncorrectable error kills
the wave. -/
def Obligations.WavesStarveAndRollBack : Prop :=
  ∀ (s : State) (w : Nat), s.nums = [w] →
    let x := s.wave w
    let only := fun (t : State) => t = { s with waves := t.waves } ∧ ∀ v, v ≠ w → t.wave v = s.wave v
    (∀ k, k < 5 → x.canIssue k = true → (x.split k).held = false → max x.readySince (x.split k).readyClk + 512 ≤ s.clk →
      Answers .waveStarving s (fun t => only t ∧ t.wave w = { x with starving := true })) ∧
    (∀ r, x.ra = some r → 64 ≤ r.insns ∨ 16 ≤ r.pages.length ∨ x.preempt = true ∨ r.outcome ≠ 0 →
      Answers .runaheadEnd s (fun t => only t ∧ t.wave w = { x with ra := some { r with stopped := true } })) ∧
    (∀ r, x.ra = some r → r.stopped = true → (∀ a ∈ x.flight, a.seq < r.fromSeq) → x.badCheckpoint = false →
      r.created = [] → r.outcome < 2 → r.split < r.cp.splits.length → x.preempt = false → x.pend = none →
      (∀ k, (r.cp.splits.getD k Split.free).pend = none) → Answers .rollback s (fun t =>
        let y := t.wave w
        let sp := r.cp.splits.getD r.split Split.free
        only t ∧ y.v = r.cp.v ∧ y.s = r.cp.s ∧ y.p = r.cp.p ∧ y.h = r.cp.h ∧ y.mode = r.cp.mode ∧ y.ra = none ∧
        y.csr = { x.csr with fpstat := r.cp.fpstat, raPages := r.pages.length, raInsns := r.insns } ∧
        y.flight.map Flight.bare = x.flight.map Flight.bare ∧ y.counters = x.counters ∧
        (∀ k, k ≠ r.split → y.split k = r.cp.splits.getD k Split.free) ∧
        y.split r.split = { sp with
          next := max sp.next s.clk, wait := if r.outcome = 0 then .merge r.asid r.page r.va else sp.wait })) ∧
    (∀ r, x.ra = some r → r.stopped = false ∨ (∃ a ∈ x.flight, r.fromSeq ≤ a.seq ∧ a.finished = false) →
      exec .rollback s = .next s) ∧
    (∀ r, x.ra = some r → r.stopped = true → (∀ a ∈ x.flight, a.seq < r.fromSeq) → x.badCheckpoint = true →
      x.life = .resident → Answers .rollback s (fun t => Dead t w))

/-- R282, R286, R288, R289, R277: a request for pre-emption starts phase 1, or waits for RTE in a handler; once phase 1 has
drained, the wave takes PREEMPT; a gang whose waves are all parked, and whose space a gang of priority 0 needs, gives up its
window and rows; and a parked wave that is placed again enters its handler with RESUME, its splits FREE. A gang of priority 0
that fits no cluster pre-empts gangs of priorities 3, 2 and 1, the youngest first, as many as make room (R277); so does a parked wave
of priority 0 that finds no room. Which cluster's gangs `victims` names where several would park as few waves, and that no wave resumes
while that room is needed, are the model's choices (log 69). -/
def Obligations.WavesArePreemptedAndResumed : Prop :=
  (∀ (s : State) (w : Nat), s.nums = [w] →
    let x := s.wave w
    let only := fun (t : State) => t = { s with waves := t.waves } ∧ ∀ v, v ≠ w → t.wave v = s.wave v
    (x.life = .resident → x.died = false → x.ended = false → x.csr.handler = true →
      Answers .preemptRequest s (fun t => only t ∧ t.wave w = { x with preemptLater := true })) ∧
    (x.life = .resident → x.died = false → x.ended = false → x.csr.handler = false →
      Answers .preemptRequest s (fun t => t = { s with waves := t.waves, clusters := t.clusters, nl := t.nl } ∧
        (∀ v, v ≠ w → t.wave v = s.wave v) ∧ (x.ra ≠ none → t.wave w = { x with preempt := true }) ∧
        (x.ra = none → (∀ c ∈ s.nl, c.wave ≠ w) → x.hops = [] → t.wave w = { x with
          preempt := true, splits := x.splits.map (fun p => { p with wait := .none, claim := none, held := false }) }))) ∧
    (x.preempt = true → x.running = true → x.ended = false → s.drained w = true → x.csr.trapvec ≠ 0 →
      x.splits.length = 5 → (∀ k, k < 4 → (x.split k).pend = none) → Answers .preemptEntry s (fun t =>
        let y := t.wave w
        t = { s with waves := t.waves, nl := t.nl } ∧ (∀ v, v ≠ w → t.wave v = s.wave v) ∧ y.csr = { x.csr with
          trapcause := 0x12, trappc := 0, traparg := 0, trapsplit := 4, handler := true, tsave := y.csr.tsave,
          tsavemode := x.mode } ∧
        y.preempt = false ∧ y.mode = 0 ∧ y.v = x.v ∧ y.s = x.s ∧ y.p = x.p ∧ y.h = x.h ∧
        (y.split 4).pc = x.csr.trapvec ∧ (y.split 4).state = 1 ∧ (y.split 4).exec = BitVec.allOnes 64 ∧
        ∀ k, k < 4 → (y.split k).pc = (x.split k).pc ∧ (y.split k).exec = (x.split k).exec))) ∧
  (∀ (s : State) (g pa flag : Nat), s.nums = [g] →
    let y := s.gang g
    let w0 := s.wave (mapGet 0 y.ids 0)
    let n := 1024 * y.scrKib
    s.allParked g = true → y.evicted = false → w0.life = .parked → s.spaceNeeded g = true → s.windowBusy g = false →
    s.engPlaces (s.imgSpace g) .write (s.scrImg g) n = .ok [(pa, n)] →
    checkVa s (s.imgSpace g) .write 1 (w0.csr.savearea + 5) = .ok flag → (flag < pa ∨ pa + n ≤ flag) →
    Answers .gangEvict s (fun t => t.waves = s.waves ∧ (∀ j, j ≠ g → t.gang j = s.gang j) ∧
      t.gang g = { y with scratch := [], evicted := true } ∧ t.readBytes pa n = s.scrRead g 0 n ∧ t.readByte flag = 1 ∧
      ∀ p, (p < pa ∨ pa + n ≤ p) → p ≠ flag → t.readByte p = s.readByte p)) ∧
  (∀ (s : State) (c : Nat), mapWf Gang.none s.gangs = true →
    (∀ g, g ∈ s.lesserGangs c ↔ (s.gang g).live = true ∧ (s.gang g).cluster = c ∧ 1 ≤ (s.task (s.gang g).task).prio ∧
      (s.task (s.gang g).task).prio ≤ 3) ∧
    (s.lesserGangs c).Pairwise (fun a b =>
      let p := (s.task (s.gang a).task).prio
      let q := (s.task (s.gang b).task).prio
      q < p ∨ (p = q ∧ b < a))) ∧
  (∀ (s : State) (k : Task) (x : LaunchCtx) (c : Nat) (gs hs : List Nat), s.roomFor k x c gs [] = some hs →
    let left := fun (js : List Nat) => js.foldl (fun u g => u.modGang g (fun y => { y with live := false })) s
    hs <+: gs ∧ ((left hs).fits k x c).isSome = true ∧ ∀ js, js <+: hs → js ≠ [] → js ≠ hs → (left js).fits k x c = none) ∧
  (∀ (s : State) (n pick run : Nat) (x : LaunchCtx) (pa : Nat) (q : QHead) (slots : List Nat), s.nums = [n, pick, run] →
    let u := s.sweep
    let k := u.task n
    (∀ e ∈ u.tasks, e.2.before k = true → u.homesFor e.2 = []) → u.homesFor k = [] → u.ctx k.ctx = some x →
    u.saveHead x k.waves = some (pa, q, slots) →
    exec .gangPlace s = .next ((u.toPark (u.victims k)).foldl State.preemptWave u)) ∧
  (∀ (s : State) (w run : Nat), s.nums = [w, run] →
    let u := s.sweep
    let x := u.wave w
    x.life = .parked → u.canResume x = false →
    exec .waveResume s = .next ((u.toPark (u.resumeVictims x)).foldl State.preemptWave u) ∧
    (x.csr.prio ≠ 0 → exec .waveResume s = .next u)) ∧
  (∀ (s : State) (w run : Nat) (seat : Nat × Nat) (tokens : List Byte), s.nums = [w, run] →
    let u := s.sweep
    let x := u.wave w
    u.canResume x = true → u.spaceNeeded x.gang = false →
    (∀ e ∈ u.waves, e.2.cluster = x.cluster → u.canResume e.2 = true → u.resumeRank x ≤ u.resumeRank e.2) →
    (u.gang x.gang).evicted = false → u.resumeSeat x = some seat →
    u.engRead (u.space w) (x.csr.savearea + 0x40) 128 = .ok tokens → x.csr.handler = false → x.csr.trapvec ≠ 0 →
    u.nlBusy w = false →
    Answers .waveResume s (fun t =>
      let y := t.wave w
      y.life = .resident ∧ (y.core, y.slot) = seat ∧ y.csr.trapcause = 0x13 ∧ y.csr.handler = true ∧ y.mode = 0 ∧
      (y.split 4).pc = x.csr.trapvec ∧ (y.split 4).state = 1 ∧ (∀ k, k < 4 → (y.split k).state = 0) ∧
      (∀ v, v ≠ w → t.wave v = u.wave v) ∧ t.mem = u.mem ∧
      mapGet 0 (t.gang x.gang).quota seat.1 = mapGet 0 (u.gang x.gang).quota seat.1 + x.blocks))

/-- R303, R378, R379, R385, R389, R390: SMC's functions. The status goes to the destination; BLOCKWORLD, REGIONWORLD and
FRAMECFG are for the secure world (status 2 elsewhere), BLOCKWORLD refuses a block in use (3) and a bad argument is 1; a
function that has no number answers 0xFFFFFFFF. VERSION and ATTEST give the numbers and SHA-384 of the images in flash, and the
signatures of ATTEST cover the bytes before them; the functions of the named standards are opaque, and what POWER writes is free
(log 40). The order of the checks, and what a bad argument is, are the model's reading (log 47). -/
def Obligations.MonitorCalls : Prop :=
  ∀ (s : State) (f : Focus) (d a b : Code) (stl : Stall) (lit : Option Word), s.calm f = true → s.mayPriv f = true →
    d.toNat < 96 → srcOk false a = true → pairSrcOk false b = true → litOnce [a, b] = true →
    let fn := (s.readSrc f.wave f.split lit a).toNat
    let arg := s.readPair f.wave f.split lit b
    let secure := (s.wave f.wave).csr.world = 1
    let answers := fun (status : Word) (P : State → Prop) =>
      ∀ i ∈ [Instr.smcVersion d a b stl lit, .smcAttest d a b stl lit, .smcBlockworld d a b stl lit,
        .smcRegionworld d a b stl lit, .smcFramecfg d a b stl lit, .smcPower d a b stl lit],
      Answers i s (fun t => t.readsS f.wave d.toNat (s.clk + 1) status ∧ ((t.wave f.wave).split f.split).pc = f.next ∧ P t)
    let nothing := fun (t : State) => t.mem = s.mem ∧ t.clusters = s.clusters ∧ t.rasters = s.rasters ∧
      t.nlSecure = s.nlSecure ∧ t.portSecure = s.portSecure ∧ t.regionSecure = s.regionSecure ∧ t.framecfg = s.framecfg
    let buffer := fun (al n pa : Nat) => arg.toNat % al = 0 ∧
      s.engPlaces (s.space f.wave) .readWrite arg n = .ok [(pa, n)]
    let outside := fun (t : State) (pa n : Nat) => ∀ p, p < pa ∨ pa + n ≤ p → t.readByte p = s.readByte p
    (fn = 0 → ∀ pa, buffer 8 8 pa → answers 0 (fun t =>
      t.readNat pa 4 = imageSvn s.flashHeld.monitor ∧ t.readNat (pa + 4) 4 = 0 ∧ outside t pa 8)) ∧
    (fn = 0 → arg.toNat % 8 ≠ 0 → answers 1 nothing) ∧
    (fn = 1 → ∀ pa, buffer 64 3584 pa → answers 0 (fun t => t.readNat pa 4 = 0x54415645 ∧
      t.readNat (pa + 4) 4 = imageSvn s.flashHeld.runtime ∧
      t.readBytes (pa + 40) 48 = leBytes 48 (Config.sha384 (imageWhole s.flashHeld.monitor)).toNat ∧
      t.readBytes (pa + 88) 48 = leBytes 48 (Config.sha384 (imageWhole s.flashHeld.runtime)).toNat ∧
      (let digest := Config.sha384 (t.readBytes pa 160)
       t.readBytes (pa + 160) 64 = leBytes 64 (Config.identityEd digest).toNat ∧
       ∃ r, t.readBytes (pa + 224) 3309 = leBytes 3309 (Config.identityMl digest r).toNat) ∧
      t.readNat (pa + 3533) 51 = 0 ∧ t.readNat (pa + 140) 4 = 0 ∧
      t.readBytes (pa + 8) 32 = s.readBytes (pa + 8) 32 ∧ t.readNat (pa + 136) 4 = bitsNat s.regionSecure % 2 ^ 32 ∧
      t.readNat (pa + 144) 16 = bitsNat ((List.range 88).map s.blockSecure) % 2 ^ 128 ∧ outside t pa 3584)) ∧
    (fn = 5 → ∀ pa, buffer 1 64 pa → answers 0 (fun t => outside t pa 64)) ∧
    (fn ∈ [2, 3, 4] → ¬ secure → answers 2 nothing) ∧
    (fn = 2 → secure → 87 < arg.toNat % 256 → answers 1 nothing) ∧
    (fn = 2 → secure → arg.toNat % 256 ≤ 87 → s.blockBusy (arg.toNat % 256) = true → answers 3 nothing) ∧
    (fn = 2 → secure → arg.toNat % 256 ≤ 87 → s.blockBusy (arg.toNat % 256) = false →
      s.nlSecure.length = 8 → s.portSecure.length = 8 → answers 0 (fun t => t.mem = s.mem ∧
        ∀ k, k < 88 → t.blockSecure k = if k = arg.toNat % 256 then arg.getLsbD 8 else s.blockSecure k)) ∧
    (fn = 3 → secure → answers 0 (fun t => t.regionSecure = s.regionSecure.set (arg.toNat % 32) (arg.getLsbD 8) ∧
      ∀ p, t.readByte p = if p / 2 ^ 33 = arg.toNat % 32 then 0 else s.readByte p)) ∧
    (fn = 4 → secure → ∀ pa, buffer 64 64 pa → answers 0 (fun t => t.framecfg = some pa ∧ t.mem = s.mem)) ∧
    (5 < fn → answers 0xFFFFFFFF nothing)

/-- R375, R380, R387, R388, R237: the module resets into runtime firmware where both images in its flash are accepted, and stops
before an image that is not: by its header, the fused minimum of its SVN, or a signature of its header and body; a thermal limit
changes nothing that is counted in clk; a queue pair is bound; a frame that is not IPv6 is dropped; and a retired address space
keeps no pins. That the reset is one step, memory reading 0 after it, with the state of log 14, is the model's choice (logs 3, 14,
48). -/
def Claims.TheModuleIsSetUp : Prop :=
  (∀ s : State,
    let accepted := fun (keys : List Byte) (kind : Nat) (image : List Byte) =>
      let field := fun (o : Nat) => leNat ((image.drop o).take 4)
      let n := 64 + field 12
      let digest := Config.sha384 (image.take n)
      field 0 = 0x474D4957 ∧ field 4 = kind ∧ (∀ b ∈ (image.drop 16).take 48, b = 0) ∧ n + 64 + 3309 ≤ image.length ∧
      Config.minSvn kind ≤ field 8 ∧ Config.ed25519Valid keys digest ((image.drop n).take 64) = true ∧
      Config.mldsaValid keys digest ((image.drop (n + 64)).take 3309) = true
    let rom := Config.sha384 s.flashHeld.keys = Config.fusedKeys ∧ accepted s.flashHeld.keys 1 s.flashHeld.monitor
    let monitor := accepted (Config.imageKeys (imageWhole s.flashHeld.monitor)) 2 s.flashHeld.runtime
    Answers .moduleReset s (fun t =>
      t = { State.reset with
        boot := t.boot, flash := s.flash, reports := t.reports, turns := s.turns, alt := s.alt, free := s.free } ∧
      (¬ rom → t.boot = .halted ∧ t.reports = s.reports) ∧
      (rom → ¬ monitor → t.boot = .monitor ∧ t.reports = s.reports + 1) ∧
      (rom → monitor → t.boot = .runtime ∧ t.reports = s.reports))) ∧
  (∀ (s : State) (a : Nat), s.nums = [a] → Answers .thermalLimit s (fun t => t = { s with limited := a ≠ 0 })) ∧
  (∀ (s : State) (q p asid tt w : Nat), s.nums = [q, p, asid, tt, w] → q < 16384 → p < 8 → asid < 65536 → w < 2 →
    Answers .queuePairBind s (fun t => t = { s with qps := t.qps } ∧ ∀ k, t.qp k = if k = q then
      { bound := true, port := p, asid, ttbase := BitVec.ofNat 64 tt, world := w, error := false, window := [] }
      else s.qp k)) ∧
  (∀ s : State, Answers .frameDrop s (fun t => t = s)) ∧
  (∀ (s : State) (a : Nat), s.nums = [a] → Answers .addressSpaceRetire s (fun t => t = { s with clusters := t.clusters } ∧
    ∀ c, t.cluster c = { s.cluster c with sets := (s.cluster c).sets.map (fun y => if y.asid = a then { y with pins := 0 } else y) }))

/-- R153, R380 to R384: requests from outside act in the queue pair's space and are answered: a write, a read, and, applied
once and answered again alike, a compare and swap, a fetch and add, an enqueue and an arrival; an invalid request, and a NAK
received that is no sequence error (log 41), put the queue pair into the error state. A read's answer comes in packets of at
most 4,096 bytes. How a port translates, and what it drops, are the model's reading (log 50). -/
def Claims.RemoteRequestsAct : Prop :=
  ∀ (s : State) (n : Nat), s.qpUp n = true →
    let sent := fun (t : State) (kind : Nat) (v : Dword) (bs : List Byte) =>
      t.sent = s.sent ++ [{ qp := n, kind, value := v, bytes := bs }]
    let outside := fun (t : State) (as : List (Nat × Nat)) => ∀ p, (∀ e ∈ as, p < e.1 ∨ e.1 + e.2 ≤ p) →
      t.readByte p = s.readByte p
    (∀ va pa, s.nums = [n, va] → s.bytes.length ≤ 4096 →
      s.engPlaces (s.qpSpace n) .write (BitVec.ofNat 64 va) s.bytes.length = .ok [(pa, s.bytes.length)] →
      s.placesOwned [(pa, s.bytes.length)] = false → Answers .rdmaWrite s (fun t =>
        t = { s with mem := t.mem, badSectors := t.badSectors, sent := t.sent } ∧ sent t 0 0 [] ∧
        t.readBytes pa s.bytes.length = s.bytes ∧ outside t [(pa, s.bytes.length)])) ∧
    (∀ va len pa, s.nums = [n, va, len] → s.engPlaces (s.qpSpace n) .read (BitVec.ofNat 64 va) len = .ok [(pa, len)] →
      s.placesOwned [(pa, len)] = false → s.badAt pa len = false → Answers .rdmaReadRequest s (fun t =>
        t = { s with sent := t.sent } ∧ t.sent = s.sent ++ (List.range (max 1 ((len + 4095) / 4096))).map (fun i =>
          { qp := n, kind := 1, value := BitVec.ofNat 64 (4096 * i), bytes := ((s.readBytes pa len).drop (4096 * i)).take 4096 }))) ∧
    (∀ op, s.nums = [n, op] → bthAccepted op = false → Answers .invalidRequest s (fun t =>
      t = { s with qps := t.qps, sent := t.sent } ∧ sent t 3 0 [] ∧
      ∀ k, t.qp k = if k = n then { s.qp n with error := true } else s.qp k)) ∧
    (∀ op, s.nums = [n, op] → op ∈ [0x11, 0x12] → (s.bytes.getD 0 0).toNat ∈ [0x61, 0x62, 0x63] →
      Answers .rdmaResponse s (fun t => t = { s with qps := t.qps } ∧
        ∀ k, t.qp k = if k = n then { s.qp n with error := true } else s.qp k)) ∧
    (∀ seq, let w := (s.qp n).window
      let enters := fun (t : State) (v : Dword) => ∀ k, t.qp k = if k = n then
        { s.qp n with window := ((seq % 2 ^ 24, v, false) :: w).take 256 } else s.qp k
      (∀ (va : Dword) pa c x, replayOf w (seq % 2 ^ 24) = .fresh → va.toNat % 8 = 0 →
        checkVa s (s.qpSpace n) .readWrite 8 va = .ok pa → s.placesOwned [(pa, 8)] = false → s.badAt pa 8 = false →
        let old := s.readNat pa 8
        let acts := fun (i : Instr) (new : Nat) => Answers i s (fun t => enters t (BitVec.ofNat 64 old) ∧
          sent t 2 (BitVec.ofNat 64 old) [] ∧ t.readNat pa 8 = new % 2 ^ 64 ∧ outside t [(pa, 8)] ∧ t.waves = s.waves)
        (s.nums = [n, seq, va.toNat, c, x] → c < 2 ^ 64 → acts .compareSwap (if old = c then x else old)) ∧
        (s.nums = [n, seq, va.toNat, x] → acts .fetchAdd (old + x))) ∧
      (∀ (va : Dword) c x v, replayOf w (seq % 2 ^ 24) = .again v false → va.toNat % 8 = 0 →
        (s.nums = [n, seq, va.toNat, c, x] → Answers .compareSwap s (fun t => t = { s with sent := t.sent } ∧
          sent t 2 v [])) ∧
        (s.nums = [n, seq, va.toNat, x] → Answers .fetchAdd s (fun t => t = { s with sent := t.sent } ∧ sent t 2 v []))) ∧
      (∀ (va : Dword) (pa slot : Nat), replayOf w (seq % 2 ^ 24) = .fresh → s.nums = [n, seq, va.toNat] →
        va.toNat % 128 = 0 → checkVa s (s.qpSpace n) .readWrite 1 va = .ok pa → s.lineOwned (pa / 128) = false →
        let q := s.queueHead pa
        q.sub = 0 → s.bytes.length = 2 ^ q.elog →
        (q.room = 0 → Answers .remoteEnqueue s (fun t => enters t 1 ∧ sent t 2 1 [] ∧ t.mem = s.mem)) ∧
        (0 < q.room → touchSlot s (s.qpSpace n) .write (2 ^ q.elog) (q.slot q.tail) = .at slot →
          (slot + 2 ^ q.elog ≤ pa ∨ pa + 128 ≤ slot) → Answers .remoteEnqueue s (fun t => enters t 0 ∧ sent t 2 0 [] ∧
            t.readBytes slot (2 ^ q.elog) = s.bytes ∧ t.readNat (pa + 0x18) 8 = (q.tail + 1) % 2 ^ 64 ∧
            outside t [(slot, 2 ^ q.elog), (pa + 0x18, 8)]))) ∧
      (∀ (h : Dword) (count flags : Nat), replayOf w (seq % 2 ^ 24) = .fresh → s.nums = [n, seq, h.toNat, count, flags] →
        let e := handleEntry h
        let c := s.clause e
        handleType h = 1 → s.clauseLive h (s.qp n).asid (s.qp n).world = true → 1 ≤ count → count ≤ 524288 →
        let answer := BitVec.ofNat 64 c.phase.toNat
        (flags = 1 → Answers .remoteArrive s (fun t => enters t answer ∧ sent t 2 answer [] ∧ t.waves = s.waves ∧
          ∀ k, t.clause k = if k = e then { c with exp0 := c.exp0 + count } else s.clause k)) ∧
        (flags = 0 → c.exp0 < c.arr0 + count → Answers .remoteArrive s (fun t =>
          enters t (BitVec.ofNat 64 (2 ^ 63 + 3)) ∧ t.clauses = s.clauses ∧ t.waves = s.waves)) ∧
        (flags = 0 → c.arr0 + count < c.exp0 → c.refs ≠ 0 → (∀ v, (s.wave v).hops = []) →
          Answers .remoteArrive s (fun t => enters t answer ∧ sent t 2 answer [] ∧ t.waves = s.waves ∧
            ∀ k, t.clause k = if k = e then { c with arr0 := c.arr0 + count } else s.clause k))))

/-- R343, R380, R385, R386: at its deadline the device delivers a new frame, the buffer's bytes in packets of at most 4,096 and
then the frame's number, or says again which it sent last and counts the miss; SENT takes the number that the display target
acknowledges. The space a frame is read in is the model's reading (log 50). -/
def Claims.FramesAreDelivered : Prop :=
  ∀ (s : State) (pa : Nat), s.framecfg = some pa →
    let n := fun (o k : Nat) => s.readNat (pa + o) k
    let conn := n 0 4
    let done := n 0x20 8
    let due := max s.clk s.framedeadline.toNat
    let buf := BitVec.ofNat 64 (n (if done % 2 = 0 then 8 else 0x10) 8)
    (s.framedeadline ≠ 0 → n 0x28 8 < done → s.qpUp conn = true → ∀ bs, s.engRead (s.qpSpace conn) buf (n 4 4) = .ok bs →
      Answers .frameDeadline s (fun t => t = { s with
        clk := due, framedeadline := 0, sent := t.sent, frameOut := s.frameOut ++ [(pa, BitVec.ofNat 64 done)] } ∧
        t.sent = s.sent ++ (List.range (max 1 ((bs.length + 4095) / 4096))).map (fun i =>
          { qp := conn, kind := 6, value := BitVec.ofNat 64 (n 0x18 8 + 4096 * i), bytes := (bs.drop (4096 * i)).take 4096 }) ++
          [{ qp := conn, kind := 7, value := BitVec.ofNat 64 done, bytes := [] }])) ∧
    (s.framedeadline ≠ 0 → done ≤ n 0x28 8 → s.qpUp conn = true → Answers .frameDeadline s (fun t =>
      t.clk = due ∧ t.framedeadline = 0 ∧ t.waves = s.waves ∧ t.readNat (pa + 0x30) 4 = (n 0x30 4 + 1) % 2 ^ 32 ∧
      (∀ p, p < pa + 0x30 ∨ pa + 0x34 ≤ p → t.readByte p = s.readByte p) ∧
      t.sent = s.sent ++ [{ qp := conn, kind := 7, value := BitVec.ofNat 64 (n 0x28 8) ||| (1#64 <<< 63), bytes := [] }])) ∧
    (∀ (k : Dword) (rec' : Nat) (a b : List (Nat × Dword)), s.nums = [k.toNat] → s.frameOut = a ++ (rec', k) :: b →
      (∀ e ∈ a, e.2 ≠ k) → Answers .frameAck s (fun t => t.frameOut = a ++ b ∧ t.waves = s.waves ∧
        t.readNat (rec' + 0x28) 8 = k.toNat ∧ ∀ p, p < rec' + 0x28 ∨ rec' + 0x30 ≤ p → t.readByte p = s.readByte p)) ∧
    (∀ k, s.nums = [k] → (∀ e ∈ s.frameOut, e.2.toNat ≠ k) → exec .frameAck s = .next s)

/-- Module reset, queue pairs, remote requests, and the delivery of frames. -/
def Obligations.TheModuleAndItsLinks : Prop :=
  Claims.TheModuleIsSetUp ∧ Claims.RemoteRequestsAct ∧ Claims.FramesAreDelivered

/-- R186 to R190, R193, R199: CPY, CPYMC, PACK and UNPACK check the ring's slot and their operands and hand the copy engine
one command with what they captured; CPYMC goes to its clause's home and holds its split, and holds at issue while receptions
of the clause are outstanding. -/
def Obligations.CopyCommandsAreSent : Prop :=
  ∀ (s : State) (f : Focus) (d a b : Code) (hring srcn dstn : BitVec 4) (size : BitVec 2) (sscr dscr tr : BitVec 1)
    (len : BitVec 12) (pitch : BitVec 10) (stl : Stall) (lit : Option Word) (pa : Nat), s.quiet f = true →
    let x := s.wave f.wave
    let sent := fun (i : Instr) (c : CopyCmd) => Answers i s (fun t => PutCopy s t f c)
    let slot := (s.readPair f.wave f.split lit b).toNat
    let ring := s.readH f.wave hring.toNat
    let r := s.ringHead pa
    let reserved := handleType ring = 2 ∧ (handleAddr ring).toNat % 128 = 0 ∧
      checkVa s (s.space f.wave) .readWrite 1 (handleAddr ring) = .ok pa ∧ r.ok = true ∧ r.rel ≤ slot ∧ slot < r.resv
    (vOk x d 1 = true → vOk x a 1 = true → pairSrcOk false b = true → reserved →
      let i := Instr.cpy d a b hring srcn dstn size sscr dscr stl lit
      let act := s.live f.wave f.split
      let src := s.cpyAddr f.wave sscr srcn a
      let dst := s.cpyAddr f.wave dscr dstn d
      let sz := 4 * 2 ^ size.toNat
      let sound := fun (scr : BitVec 1) (p : Nat → Nat) => ∀ L, L < 64 → act.getLsbD L = true →
        p L % sz = 0 ∧ (scr = 0 → canonical (BitVec.ofNat 64 (p L)) = true) ∧ (scr = 1 → p L + sz ≤ x.csr.scrsize.toNat)
      sound sscr src → sound dscr dst → x.counter 6 < 63 →
      sent i { copyCmd f.wave s i with
        act, src := (Mask.lanes act).map src, dst := (Mask.lanes act).map dst, ring := BitVec.ofNat 64 pa, slot,
        counted := act ≠ 0 }) ∧
    (srcOk false d = true → hOk a = true → pairSrcOk false b = true → litOnce [d, b] = true →
      let i := Instr.cpymc d a b len stl lit
      let h := s.readH f.wave a.toNat
      let c := s.clause (handleEntry h)
      let off := (s.readSrc f.wave f.split lit d).toNat
      (handleType h ≠ 1 → Traps i s f 0x0B f.pc 1) ∧
      (handleType h = 1 → s.clauseLive h x.csr.asid x.csr.world = false → Traps i s f 0x0B f.pc 2) ∧
      (handleType h = 1 → s.clauseLive h x.csr.asid x.csr.world = true →
        (c.eng0 ≠ 0 → exec i s = .next (s.held f)) ∧
        (c.eng0 = 0 → off % 64 ≠ 0 → Traps i s f 0x05 f.pc (BitVec.ofNat 64 off)) ∧
        (c.eng0 = 0 → off % 64 = 0 → off + 64 * (len.toNat + 1) ≤ x.csr.scrsize.toNat → x.counter 6 < 63 →
          Answers i s (fun t => PutHop s t f
            (hopOf f stl i h 0 0 [off, (s.readPair f.wave f.split lit b).toNat] true))))) ∧
    (srcOk false d = true → pairSrcOk false a = true → pairSrcOk false b = true → litOnce [d, a, b] = true → reserved →
      let t0 := (s.readSrc f.wave f.split lit d).toNat
      let base := s.readPair f.wave f.split lit a
      let tile : Dword := if sscr = 1 then base &&& 0xFFFFFFFF else base
      let v : TileView := { sp := x.engSpace, gang := x.gang, limit := x.csr.scrsize.toNat, scr := sscr = 1, base, pages := [] }
      (sscr = 1 ∨ canonical base = true) →
      (t0 % 64 ≠ 0 → Traps (.pack d a b hring sscr pitch stl lit) s f 0x05 f.pc (BitVec.ofNat 64 t0)) ∧
      (t0 % 64 = 0 → tile.toNat % 64 ≠ 0 → Traps (.unpack d a b hring sscr tr pitch stl lit) s f 0x05 f.pc tile) ∧
      (t0 % 64 = 0 → tile.toNat % 64 = 0 → x.counter 6 < 63 →
        let cmd := fun (i : Instr) => { copyCmd f.wave s i with ring := BitVec.ofNat 64 pa, slot, base := base.toNat, off := t0 }
        (denseBad s v false t0 pitch.toNat = false → sent (.pack d a b hring sscr pitch stl lit)
          (cmd (.pack d a b hring sscr pitch stl lit))) ∧
        (denseBad s v (tr = 1) t0 pitch.toNat = false → sent (.unpack d a b hring sscr tr pitch stl lit)
          (cmd (.unpack d a b hring sscr tr pitch stl lit)))))

/-- R150, R180, R186, R193: a CPYMC at its clause's home counts its receptions and gives the engine its command; the copy engine
accepts a command, which lowers CPY, reads a tile's header and owns its destination lines; and a CPYMC's bytes reach every gang
of its grid on a target cluster, with one reception counted. -/
def Claims.CopyCommandsRun : Prop :=
  (∀ (s : State) (w : Nat) (h : HomeOp) (d a b : Code) (len : BitVec 12) (stl : Stall) (lit : Option Word), AtHome s w h →
    h.op = .cpymc d a b len stl lit → s.clauseLive h.hnd (s.wave w).csr.asid (s.wave w).csr.world = true →
    handleType h.hnd = 1 →
    let e := handleEntry h.hnd
    let c := s.clause e
    let mask : Mask := BitVec.ofNat 64 (h.val 1)
    (c.eng0 = 0 → mask = 0 → Answers .clauseHomeOp s (fun t => Answered s t w h ∧ t.clauses = s.clauses ∧
      t.clusters = s.clusters)) ∧
    (c.eng0 ≠ 0 → Answers .clauseHomeOp s (fun t => t.clauses = s.clauses ∧ t.clusters = s.clusters ∧
      (t.wave w).hops = [{ h with reached := true, binds := h.binds.or (some (s.bindingsNow h)) }])) ∧
    (c.eng0 = 0 → mask ≠ 0 → (s.wave w).counter 6 < 63 → Answers .clauseHomeOp s (fun t => Answered s t w h ∧
      t.mem = s.mem ∧ (t.wave w).counter 6 = (s.wave w).counter 6 + 1 ∧
      (∀ k, t.clause k = if k = e then { c with exp0 := c.exp0 + Mask.count mask, eng0 := Mask.count mask }
        else s.clause k) ∧
      ∀ k, t.cluster k = if k = (s.wave w).cluster then { s.cluster k with
        copyCmds := (s.cluster k).copyCmds ++
          [{ copyCmd w s h.op with seq := h.seq, off := h.val 0, hnd := h.hnd, left := Mask.lanes mask }] } else s.cluster k))) ∧
  (∀ (s : State) (n k : Nat) (c : CopyCmd), s.nums = [n, k] →
    let cl := s.cluster n
    let head := c.head s n
    let pages := s.pagesAt (c.space n) (c.dests head)
    let lines := c.owns head pages
    cl.acceptable k = some c → c.heldBy s n head = false → c.headOwned s n = false → (∀ l ∈ lines, s.ownedElsewhere n l = false) →
    Answers .engineCommandAccept s (fun t => t = { s with waves := t.waves, clusters := t.clusters } ∧
      (∀ j, j ≠ n → t.cluster j = s.cluster j) ∧
      t.cluster n = { cl with
        copyCmds := (cl.copyCmds.eraseIdx k).filter (fun b => b.accepted) ++
          [{ c with accepted := true, data := head, lines, pages, cut := c.headErr s n }] ++
          (cl.copyCmds.eraseIdx k).filter (fun b => !b.accepted),
        copies := (t.cluster n).copies } ∧
      (∀ l, mapGet [] (t.cluster n).copies l = if l ∈ lines then [] else mapGet [] cl.copies l) ∧
      (∀ w, w ≠ c.wave → t.wave w = s.wave w) ∧
      t.wave c.wave = { s.wave c.wave with counters := (t.wave c.wave).counters, cpys := (t.wave c.wave).cpys } ∧
      (c.counted = false → t.waves = s.waves) ∧
      ∀ first r, (s.wave c.wave).cpys = (first, false) :: r → (∀ e ∈ r, e.1 ≠ first ∧ e.2 = false) → c.counted = true →
        (c.seq = first → (t.wave c.wave).cpys = r ∧ ∀ p, (t.wave c.wave).counter p =
          (s.wave c.wave).counter p - (if p = 6 then 1 else 0)) ∧
        (c.seq ≠ first → ∀ p, (t.wave c.wave).counter p = (s.wave c.wave).counter p))) ∧
  (∀ (s : State) (n k tgt : Nat) (c : CopyCmd), s.nums = [n, k, tgt] → (s.cluster n).copyCmds[k]? = some c →
    c.accepted = true → tgt ∈ c.left → s.copyBlocked n k { c with left := [tgt] } = false →
    let gangs := s.gridOn (s.gang c.gang).task tgt
    let e := handleEntry c.hnd
    let y := s.clause e
    y.live = true → y.gen = handleGen c.hnd → y.arr0 + 1 ≠ y.exp0 → y.exp0 ≠ 0 → y.refs ≠ 0 → (∀ v, (s.wave v).hops = []) →
    Answers .cpymcReception s (fun t => t.waves = s.waves ∧ t.mem = s.mem ∧
      (∀ g ∈ gangs, t.scrRead g c.off c.data.length = c.data ∧ ∀ o, o < c.off ∨ c.off + c.data.length ≤ o →
        mapGet 0 (t.gang g).scratch o = mapGet 0 (s.gang g).scratch o) ∧
      (∀ g, g ∉ gangs → t.gang g = s.gang g) ∧
      (∀ j, t.clause j = if j = e then { y with arr0 := y.arr0 + 1, eng0 := y.eng0 - 1 } else s.clause j) ∧
      (t.cluster n).copyCmds = if c.left = [tgt] then (s.cluster n).copyCmds.eraseIdx k
        else (s.cluster n).copyCmds.set k { c with left := c.left.erase tgt }))

/-- R180, R189, R191: a CPY moves the bytes of every lane below the lowest that meets a fault, into scratch or into the pages
found at acceptance, and none above; its slot ends with the units moved and the fault's cause, and a page that does not
translate is reported. -/
def Claims.CopiesMoveTheirLanes : Prop :=
  ∀ (s : State) (n k q m : Nat) (c : CopyCmd) (d a b : Code) (hring srcn dstn : BitVec 4) (size : BitVec 2)
    (sscr dscr : BitVec 1) (stl : Stall) (lit : Option Word) (bs : Nat → List Byte) (pa : Nat → Nat)
    (e : Option (EngErr × Access)), s.nums = [n, k] → (s.cluster n).copyCmds[k]? = some c →
    c.op = .cpy d a b hring srcn dstn size sscr dscr stl lit → c.accepted = true → s.copyBlocked n k c = false →
    c.sourceOwned s n = false → c.src.length = c.dst.length → s.badSectors = [] →
    let sz := 4 * 2 ^ size.toNat
    let ring := c.ring.toNat
    let sp := c.space n
    let dst := fun i => c.dst.getD i 0
    let apart := fun (a b la lb : Nat) => a + la ≤ b ∨ b + lb ≤ a
    let got := fun i => if sscr = 1 then s.scrSource c.gang (c.src.getD i 0) sz
      else s.engRead sp (BitVec.ofNat 64 (c.src.getD i 0)) sz
    let dest := fun i => pagePlaces c.pages (BitVec.ofNat 64 (dst i)) sz
    (∀ i, i < m → got i = .ok (bs i) ∧ (bs i).length = sz ∧ (dscr = 0 → dest i = .ok [(pa i, sz)])) →
    (m = c.src.length ∧ e = none ∨ m < c.src.length ∧ ((∃ x, got m = .error x ∧ e = some (x, .read)) ∨
      dscr = 0 ∧ ∃ y x, got m = .ok y ∧ dest m = .error x ∧ e = some (x, .write))) →
    (∀ x ∈ e, s.faultWaits n c.asid x.1 = false) →
    (∀ i j, i < j → j < m → if dscr = 1 then apart (dst i) (dst j) sz sz else apart (pa i) (pa j) sz sz) →
    (dscr = 0 → ∀ i, i < m → apart (pa i) q sz 4 ∧ apart (pa i) ring sz 128) → apart q ring 4 128 →
    (∀ mem, (dscr = 1 → mem = s.mem) → touchSlot { s with mem } sp .write 4 ((s.ringHead ring).stat c.slot) = .at q) →
    Answers .copySlotEnd s (fun t => t.waves = s.waves ∧ (∀ g, g ≠ c.gang → t.gang g = s.gang g) ∧
      (t.cluster n).copyCmds = (s.cluster n).copyCmds.eraseIdx k ∧
      (if dscr = 1 then
        (∀ i, i < m → t.scrRead c.gang (dst i) sz = bs i) ∧
        ∀ o, (∀ i, i < m → apart o (dst i) 1 sz) → mapGet 0 (t.gang c.gang).scratch o = mapGet 0 (s.gang c.gang).scratch o
      else t.gangs = s.gangs ∧ ∀ i, i < m → t.readBytes (pa i) sz = bs i) ∧
      t.readNat q 4 = 2 ^ 31 + (match e with
        | some x => 2 ^ 30 + x.1.cause % 64 * 2 ^ 24
        | none => 0) + sz * m % 2 ^ 24 ∧
      (∀ p, (dscr = 0 → ∀ i, i < m → apart p (pa i) 1 sz) → apart p q 1 4 → apart p ring 1 128 → t.readByte p = s.readByte p) ∧
      t.faults = match e with
        | some (x, acc) =>
          if x.cause = causeXlate ∧ s.hasMerge (sectionOf n) c.asid (pageOf x.va) = false then
            s.faults ++ [engineRec (if x.bad then 3 else 2) 1 acc c.asid n (if c.world = 1 then 1 else 0) c.launchid x.va] else s.faults
        | none => s.faults)

/-- R195, R196, R198: which headers of a compressed tile are valid, and where an element of a tile stands: by its group's mask
among its group's values, or by its block's bitmap in the block's main slot or overflow entry. -/
def Claims.TileElementsAreFound : Prop :=
  ∀ (bs : List Byte) (bad : EngErr) (at' : Nat → Nat → List Byte) (r c : Nat),
    let t := tileHead bs
    let n := fieldNat bs
    let nm := n 0 1 = 1 ∨ n 0 1 = 2
    let eb := if n 1 1 ∈ [0, 1, 4] then 4 else if n 1 1 ∈ [6, 7, 8, 9] then 2 else 1
    let m := if n 0 1 = 1 then 4 else if n 0 1 = 2 then 8 else 64
    (t.ok = true ↔ (nm ∨ n 0 1 = 3) ∧ n 1 1 ∈ [0, 1, 4, 6, 7, 8, 9, 10, 11, 12, 13] ∧ 1 ≤ n 4 2 ∧ n 4 2 ≤ 128 ∧
      n 8 4 % 64 = 0 ∧ n 12 4 % 64 = 0 ∧ n 16 4 % 64 = 0 ∧ n 20 4 % 16 = 0 ∧ (∀ x ∈ bs.drop 32, x = 0) ∧
      (nm → n 2 1 = 0 ∧ n 4 2 % m = 0 ∧ n 6 2 % m = 0 ∧ n 6 2 ≤ 128 ∧ n 16 4 = 0) ∧
      (n 0 1 = 3 → 1 ≤ n 2 1 ∧ n 2 1 ≤ 64 ∧ 4 ≤ n 2 1 * eb ∧ (n 6 2 = 64 ∨ n 6 2 = 128))) ∧
    (t.ok = true → (∀ o k, (at' o k).length = k) →
      let q := r * (n 6 2 / m) + c / m
      let mask := if n 0 1 = 1 then leNat (at' (n 12 4 + q / 2) 1) / 16 ^ (q % 2) % 16
        else if n 0 1 = 2 then leNat (at' (n 12 4 + q) 1) else leNat (at' (n 12 4 + 8 * q) 8)
      let rank := fun (j : Nat) => ((List.range j).filter (fun i => mask.testBit i)).length
      let elem := fun (o : Nat) => if mask.testBit (c % m) then leNat (at' (o + rank (c % m) * eb) eb) else 0
      let get := tileElem t bad (fun o k => .ok (at' o k)) r c
      (nm → get = if m / 2 < rank m then .error bad else .ok (elem (n 8 4 + q * (m / 2) * eb))) ∧
      (n 0 1 = 3 → rank 64 ≤ n 2 1 → get = .ok (elem (n 8 4 + q * n 2 1 * eb))) ∧
      (n 0 1 = 3 → n 2 1 < rank 64 →
        let o := leNat (at' (n 8 4 + q * n 2 1 * eb) 4)
        get = if n 20 4 < o + (rank 64 * eb + 15) / 16 * 16 then .error bad else .ok (elem (n 16 4 + o))))

/-- R180, R191, R201: UNPACK ends with ENGFAULT for an invalid header; otherwise it writes dense row after row, transposed
with TR, up to the first row of which an element cannot be had, and its slot ends with the rows written. -/
def Claims.TilesAreUnpacked : Prop :=
  ∀ (s : State) (n k q m : Nat) (c : CopyCmd) (d a b : Code) (hring : BitVec 4) (scr tr : BitVec 1) (pitch : BitVec 10)
    (stl : Stall) (lit : Option Word) (x : Nat → Nat → Nat) (e : Option EngErr), s.nums = [n, k] →
    (s.cluster n).copyCmds[k]? = some c → c.op = .unpack d a b hring scr tr pitch stl lit → c.accepted = true →
    s.copyBlocked n k c = false → c.sourceOwned s n = false →
    let t0 := tileHead c.data
    let ring := c.ring.toNat
    let rows := if tr = 1 then t0.cols else t0.rows
    let cols := if tr = 1 then t0.rows else t0.cols
    let elem := fun i j => tileElem t0 engFaultErr ((c.view s n).read s) (if tr = 1 then j else i) (if tr = 1 then i else j)
    let row := fun i => c.off + 16 * pitch.toNat * i
    let ends := fun (cause : Option Nat) (units : Nat) (P : State → Prop) => Answers .copySlotEnd s (fun t =>
      t.waves = s.waves ∧ (∀ g, g ≠ c.gang → t.gang g = s.gang g) ∧ P t ∧
      (t.cluster n).copyCmds = (s.cluster n).copyCmds.eraseIdx k ∧
      t.readNat q 4 = 2 ^ 31 + (match cause with
        | some x => 2 ^ 30 + x % 64 * 2 ^ 24
        | none => 0) + units ∧
      ∀ p, (p < q ∨ q + 4 ≤ p) → (p < ring ∨ ring + 128 ≤ p) → t.readByte p = s.readByte p)
    touchSlot s (c.space n) .write 4 ((s.ringHead ring).stat c.slot) = .at q → (q + 4 ≤ ring ∨ ring + 128 ≤ q) →
    (∀ y, c.cut = some y → s.faultWaits n c.asid y = false → ends (some y.cause) 0 (fun t => t.gangs = s.gangs)) ∧
    (c.cut = none → t0.ok = false → ends (some 0x14) 0 (fun t => t.gangs = s.gangs)) ∧
    (c.cut = none → t0.ok = true → (∀ i j, i < m → j < cols → elem i j = .ok (x i j)) →
      (m = rows ∧ e = none ∨ m < rows ∧ ∃ j y, j < cols ∧ (∀ i, i < j → elem m i = .ok (x m i)) ∧
        elem m j = .error y ∧ e = some y) → (∀ y ∈ e, s.faultWaits n c.asid y = false) →
      cols * t0.eb ≤ 16 * pitch.toNat → (∀ i, i < m → row i + cols * t0.eb ≤ (c.view s n).limit) →
      ends (e.map EngErr.cause) m (fun t =>
        (∀ i j, i < m → j < cols → t.scrRead c.gang (row i + j * t0.eb) t0.eb = leBytes t0.eb (x i j)) ∧
        ∀ o, (∀ i, i < m → o < row i ∨ row i + cols * t0.eb ≤ o) →
          mapGet 0 (t.gang c.gang).scratch o = mapGet 0 (s.gang c.gang).scratch o))

/-- R196, R197, R198: what PACK keeps of M rows of an N:M tile, unless a group or a column of a block keeps too many; and of a
block of a bitmap tile, whose elements go to the overflow area where they are too many for the main slot. -/
def Claims.RowsArePacked : Prop :=
  ∀ (bs : List Byte) (r : Nat) (rows : List (List Nat)) (p : PackAt),
    let t := tileHead bs
    let m := t.m
    let el := fun (i c : Nat) => (rows.getD i []).getD c 0
    let kept := fun (e : Nat) => e ≠ 0 ∧ ((tyFmt t.etype).isSome = true → e % 2 ^ (8 * t.eb) ≠ 2 ^ (8 * t.eb - 1))
    t.ok = true → (∀ i c, el i c < 2 ^ (8 * t.eb)) → (∀ i, i < (if t.format = 3 then 1 else m) → (rows.getD i []).length = t.cols) →
    ∀ nz : Nat → Nat → Bool, (∀ i c, nz i c = true ↔ kept (el i c)) →
    let group := fun (i g : Nat) => (List.range m).filter (fun j => nz i (m * g + j))
    let data := fun (i g : Nat) => (group i g).flatMap (fun j => leBytes t.eb (el i (m * g + j)))
    let pad := fun (k : Nat) (xs : List Byte) => xs ++ List.replicate (k - xs.length) 0
    let mask := fun (i g : Nat) => ((group i g).map (fun j => 2 ^ j)).sum
    (t.format ≠ 3 →
      (packNM t r rows = none ↔ (∃ i g, i < m ∧ g < t.cols / m ∧ m / 2 < (group i g).length) ∨
        ∃ c, c < t.cols ∧ m / 2 < ((List.range m).filter (fun i => nz i c)).length) ∧
      ∀ ps, packNM t r rows = some ps → ps.length = m * (t.cols / m) + 1 ∧
        (∀ i g, i < m → g < t.cols / m →
          (t.valOff + ((r + i) * (t.cols / m) + g) * (m / 2) * t.eb, pad (m / 2 * t.eb) (data i g)) ∈ ps) ∧
        ∃ o ms, (o, ms) ∈ ps ∧ (t.format = 2 → o = t.metaOff + r * (t.cols / m) ∧
            ∀ i g, i < m → g < t.cols / m → ms[i * (t.cols / m) + g]? = some (BitVec.ofNat 8 (mask i g))) ∧
          (t.format = 1 → o = t.metaOff + r * (t.cols / m) / 2 ∧ ∀ i g, i < m → g < t.cols / m →
            ((ms.getD ((i * (t.cols / m) + g) / 2) 0).toNat / 16 ^ ((i * (t.cols / m) + g) % 2)) % 16 = mask i g)) ∧
    (t.format = 3 →
      let block := fun (g : Nat) (p : PackAt) =>
        let q := r * (t.cols / 64) + g
        let size := (data 0 g).length
        let entry := (size + 15) / 16 * 16
        let main := fun (xs : List Byte) => (t.valOff + q * t.dmax * t.eb, pad (t.dmax * t.eb) xs)
        let bits := (t.metaOff + 8 * q, leBytes 8 (mask 0 g))
        if (group 0 g).length ≤ t.dmax then some ([main (data 0 g), bits], p)
        else if t.ovfCap < p.used + entry then none
        else some ([main (leBytes 4 p.used), bits, (t.ovfOff + p.used, pad entry (data 0 g))],
          ({ used := p.used + entry, novf := p.novf + 1 } : PackAt))
      packBitmap t r (rows.getD 0 []) p = if t.cols = 64 then block 0 p
        else (block 0 p).bind (fun x => (block 1 x.2).map (fun y => (x.1 ++ y.1, y.2))))

/-- R180, R200: PACK writes STATUS 1 and nothing else of a tile whose header is invalid; otherwise it packs its row-blocks in turn,
up to one that breaks a bound, writes OVFUSED, NOVF and STATUS, and its slot ends with the rows packed. A tile in global memory
lies in the pages found at acceptance. -/
def Claims.TilesArePacked : Prop :=
  ∀ (s : State) (n k q m pa : Nat) (c : CopyCmd) (d a b : Code) (hring : BitVec 4) (scr : BitVec 1) (pitch : BitVec 10)
    (stl : Stall) (lit : Option Word) (ps : Nat → List (Nat × List Byte)) (u : Nat → PackAt), s.nums = [n, k] →
    (s.cluster n).copyCmds[k]? = some c → c.op = .pack d a b hring scr pitch stl lit → c.accepted = true →
    s.copyBlocked n k c = false → c.sourceOwned s n = false → c.cut = none →
    let t0 := tileHead c.data
    let ring := c.ring.toNat
    let v := c.view s n
    let base := if scr = 1 then c.base % 2 ^ 32 else pa
    let apart := fun (a b la lb : Nat) => a + la ≤ b ∨ b + lb ≤ a
    let holds := fun (t : State) (o : Nat) (bs : List Byte) =>
      if scr = 1 then t.scrRead c.gang (base + o) bs.length = bs else t.readBytes (base + o) bs.length = bs
    let fits := fun (o l : Nat) => if scr = 1 then base + o + l ≤ v.limit else l = 0 ∨
      pagePlaces c.pages (BitVec.ofNat 64 c.base + BitVec.ofNat 64 o) l = .ok [(pa + o, l)] ∧
      apart (pa + o) q l 4 ∧ apart (pa + o) ring l 128
    let ends := fun (cause : Option Nat) (units : Nat) (written : List (Nat × Nat)) (P : State → Prop) =>
      Answers .copySlotEnd s (fun t => t.waves = s.waves ∧ (∀ g, g ≠ c.gang → t.gang g = s.gang g) ∧ P t ∧
        (t.cluster n).copyCmds = (s.cluster n).copyCmds.eraseIdx k ∧
        t.readNat q 4 = 2 ^ 31 + (if cause.isSome then 2 ^ 30 + 0x14 * 2 ^ 24 else 0) + units ∧
        (scr = 0 → t.gangs = s.gangs) ∧
        (∀ o, scr = 1 → (∀ w ∈ written, apart o (base + w.1) 1 w.2) →
          mapGet 0 (t.gang c.gang).scratch o = mapGet 0 (s.gang c.gang).scratch o) ∧
        ∀ p, (scr = 0 → ∀ w ∈ written, apart p (base + w.1) 1 w.2) → apart p q 1 4 → apart p ring 1 128 →
          t.readByte p = s.readByte p)
    (∀ mem, (scr = 1 → mem = s.mem) → touchSlot { s with mem } (c.space n) .write 4 ((s.ringHead ring).stat c.slot) = .at q) → apart q ring 4 128 →
    fits 3 1 → (t0.ok = false → ends (some 0x14) 0 [(3, 1)] (fun t => holds t 3 [1])) ∧
    (t0.ok = true → fits 0x18 4 → fits 0x1C 4 →
      let step := if t0.format = 3 then 1 else t0.m
      let row := fun i => denseRow t0 (s.asRead.scrRead c.gang (c.off + 16 * pitch.toNat * i) (t0.cols * t0.eb))
      let pack := fun b => if t0.format = 3 then packBitmap t0 b (row b) (u b)
        else (packNM t0 (step * b) ((List.range step).map (fun i => row (step * b + i)))).map (fun x => (x, u b))
      let all := (List.range m).flatMap ps
      (∀ i, i < t0.rows → s.asRead.scrBad c.gang (c.off + 16 * pitch.toNat * i) (t0.cols * t0.eb) = none ∧
        c.off + 16 * pitch.toNat * i + t0.cols * t0.eb ≤ v.limit) →
      u 0 = { used := 0, novf := 0 } → (∀ b, b < m → pack b = some (ps b, u (b + 1))) →
      (∀ w ∈ all, fits w.1 w.2.length ∧ 64 ≤ w.1) → all.Pairwise (fun w y => apart w.1 y.1 w.2.length y.2.length) →
      ∀ stop : Bool, (if stop then step * m < t0.rows ∧ pack m = none else step * m = t0.rows) →
      ends (if stop then some 0x14 else none) (step * m)
        ([(3, 1), (0x18, 4), (0x1C, 4)] ++ all.map (fun w => (w.1, w.2.length))) (fun t =>
          (∀ w ∈ all, holds t w.1 w.2) ∧ holds t 3 [if stop then (if t0.format = 3 then 3 else 2) else 0] ∧
          holds t 0x18 (leBytes 4 (u m).used) ∧ holds t 0x1C (leBytes 4 (u m).novf)))

/-- What the copy engine does with a command. -/
def Obligations.CopyCommandsRun : Prop :=
  Claims.CopyCommandsRun ∧
  Claims.CopiesMoveTheirLanes ∧
  Claims.TileElementsAreFound ∧
  Claims.TilesAreUnpacked ∧
  Claims.RowsArePacked ∧
  Claims.TilesArePacked

/-- R204 to R218: MALLOC and MFREE reserve and free the gang's window, and the other matrix instructions check, in this order,
rows (ACCBOUND; not of none), shapes and formats (ENGFAULT 16 to 19), and the scratch operand, and MDRAIN's parameter block after
it (MISALIGN, SCRATCH), and hand the matrix engine one command, which is accepted at once. That TRAPARG [55:40] of MALLOC's
ACCBOUND is 0 is log 80. -/
def Obligations.MatrixCommandsAreSent : Prop :=
  ∀ (s : State) (f : Focus) (d a b : Code) (w raw bias icell ini : BitVec 1) (fmt : BitVec 4) (sr act ofmt : BitVec 3)
    (scl : BitVec 2) (mmax nc : BitVec 7) (pitch : BitVec 10) (stl : Stall) (lit : Option Word), s.calm f = true →
    let x := s.wave f.wave
    let g := s.gang x.gang
    let mx := s.gangMx x.gang
    let src := fun (c : Code) => (s.readSrc f.wave f.split lit c).toNat
    let rows := (s.accWindow f.wave).2 - (s.accWindow f.wave).1
    let sent := fun (i : Instr) (vals : List Nat) => x.counter 5 < 63 → Answers i s (fun t => PutMx s t f i vals)
    let limit := x.csr.scrsize.toNat
    let inScratch := fun (o n bytes : Nat) => o % 16 = 0 ∧
      (n ≠ 0 → bytes ≠ 0 → o + 16 * pitch.toNat * (n - 1) + bytes ≤ limit)
    let inRows := fun (row m : Nat) => m = 0 ∨ row + m ≤ rows
    let fault := fun (i : Instr) (n : Nat) => Traps i s f 0x14 f.pc (BitVec.ofNat 64 n)
    let bound := fun (i : Instr) (row m : Nat) => ¬ inRows row m →
      Traps i s f 0x09 f.pc (BitVec.ofNat 64 (3 + 2 ^ 8 * (row % 2 ^ 32) + 2 ^ 40 * (m % 2 ^ 16)))
    let outside := fun (i : Instr) (o n bytes : Nat) => (o % 16 ≠ 0 → Traps i s f 0x05 f.pc (BitVec.ofNat 64 o)) ∧
      (o % 16 = 0 → ¬ inScratch o n bytes →
        Traps i s f 0x15 f.pc (BitVec.ofNat 64 (o + 16 * pitch.toNat * (n - 1) + bytes - 1)))
    (∀ k, (List.range 8).map (fun j => mxRowBytes j k) = [2 * k, 2 * k, k, k, k, 64 + k / 32, 4 * k, 4 * k]) ∧
    let window := fun (t : State) (m : GangMx) => t = { s with
        waves := t.waves, mx := t.mx, ports := t.ports, lastIssue := t.lastIssue } ∧
      (∀ v, v ≠ f.wave → t.wave v = s.wave v) ∧ ((t.wave f.wave).split f.split).pc = f.next ∧
      ∀ k, t.gangMx k = if k = x.gang then m else s.gangMx k
    (srcOk false a = true →
      let n := src a
      let total := if w = 1 then n * g.waves else n
      (n = 0 ∨ 768 < n ∨ g.accRows < total → Traps (.malloc a w stl lit) s f 0x09 f.pc (BitVec.ofNat 64 (1 + 2 ^ 8 * n))) ∧
      (0 < n → n ≤ 768 → total ≤ g.accRows →
        (mx.window ≠ none → Traps (.malloc a w stl lit) s f 0x09 f.pc (BitVec.ofNat 64 (2 + 2 ^ 8 * n))) ∧
        (mx.window = none → Answers (.malloc a w stl lit) s (fun t =>
          window t { mx with window := some (n, w = 1) })))) ∧
    (mx.cmds = [] → Answers (.mfree stl) s (fun t => window t { mx with window := none })) ∧
    (mx.cmds ≠ [] → Answers (.mfree stl) s (fun t => PutHop s t f (hopOf f stl (.mfree stl) 0 0 0 [mx.accepted] true))) ∧
    sent (.mswap stl) [] ∧
    (srcOk false d = true → srcOk false a = true → srcOk false b = true → litOnce [d, a, b] = true →
      (let i := Instr.mloadw d a b fmt pitch stl lit
       let bytes := mxRowBytes fmt.toNat (src a)
       let shape := src a ≤ 128 ∧ src b ≤ 128 ∧ (fmt = 5 → src a % 32 = 0)
       (¬ shape → fault i 16) ∧ (shape → outside i (src d) (src b) bytes) ∧
       (shape → inScratch (src d) (src b) bytes → sent i [src d, src a, src b])) ∧
      (let i := Instr.mstream d a b fmt sr ini mmax pitch stl lit
       let plane := mx.planes.1
       let bytes := mxRowBytes fmt.toNat plane.k
       let shape := inRows (src d) (src b) ∧ src b ≤ (if mmax = 0 then 128 else mmax.toNat)
       let formats := (plane.loaded = true → fmt.toNat = plane.fmt ∨ fmt ∈ [2, 3] ∧ plane.fmt ∈ [2, 3]) ∧
         (sr ∈ [1, 2, 3] → fmt ∈ [0, 1, 6]) ∧ (sr = 4 ↔ fmt = 7)
       bound i (src d) (src b) ∧ (inRows (src d) (src b) → ¬ shape → fault i 17) ∧ (shape → ¬ formats → fault i 18) ∧
       (shape → formats → outside i (src a) (src b) bytes) ∧
       (shape → formats → inScratch (src a) (src b) bytes → sent i [src a, src d, src b])) ∧
      (let i := Instr.mfill d a b pitch nc stl lit
       let bytes := 4 * (if nc = 0 then 128 else nc.toNat)
       let shape := inRows (src a) (src b) ∧ src b ≤ 128
       bound i (src a) (src b) ∧ (inRows (src a) (src b) → ¬ shape → fault i 17) ∧
       (shape → outside i (src d) (src b) bytes) ∧
       (shape → inScratch (src d) (src b) bytes → sent i [src d, src a, src b]))) ∧
    (pairSrcOk false d = true → srcOk false a = true → srcOk false b = true → litOnce [a, b, d] = true →
      let p := s.readPair f.wave f.split lit d
      let o := (Dword.lo p).toNat
      let e := (Dword.hi p).toNat
      let i := Instr.mdrain d a b raw act ofmt scl bias pitch nc icell stl lit
      let bytes := (if nc = 0 then 128 else nc.toNat) *
        (if raw = 1 ∨ ofmt ∈ [0, 5] then 4 else if ofmt ∈ [1, 2] then 2 else 1)
      let shape := inRows (src a) (src b) ∧ src b ≤ 128
      let form := ofmt ∈ [5, 6] → icell = 1 ∧ scl = 0 ∧ bias = 0 ∧ act.toNat ≤ 1
      let parts := if raw = 1 ∨ ofmt ∈ [5, 6] then [] else (if scl ≠ 0 then [512] else []) ++
        (if bias = 1 then [0x400] else []) ++ (if act = 3 then [0x408] else []) ++ (if act = 2 then [0x409] else [])
      bound i (src a) (src b) ∧ (inRows (src a) (src b) → ¬ shape → fault i 17) ∧ (shape → ¬ form → fault i 19) ∧
      (shape → form → outside i o (src b) bytes) ∧
      (shape → form → inScratch o (src b) bytes →
        (parts ≠ [] → e % 16 ≠ 0 → Traps i s f 0x05 f.pc (BitVec.ofNat 64 e)) ∧
        (e % 16 = 0 → ∀ k, k < parts.length → (∀ j, j < k → e + parts.getD j 0 ≤ limit) → limit < e + parts.getD k 0 →
          Traps i s f 0x15 f.pc (BitVec.ofNat 64 (e + parts.getD k 0 - 1))) ∧
        ((parts = [] ∨ e % 16 = 0 ∧ ∀ n ∈ parts, e + n ≤ limit) → sent i [o, e, src a, src b]))) ∧
    (srcOk false a = true → srcOk false b = true → litOnce [a, b] = true → bound (.mzero a b stl lit) (src a) (src b) ∧
      (inRows (src a) (src b) → sent (.mzero a b stl lit) [src a, src b]))

/-- R206, R212 to R220: the gang's oldest matrix command takes effect, leaves the engine and lowers MX: MLOADW fills the
shadow plane from scratch, MSWAP exchanges the planes, MSTREAM multiplies activation rows into cells, MZERO clears them, and
MDRAIN writes rows of cells to scratch. Cells of other rows, and of columns beyond the plane's or NC, keep their values. Scratch
is as the command reads it (log 56). -/
def Claims.MatrixCommandsTakeEffect : Prop :=
  ∀ (s : State) (g : Nat) (c : MxCmd) (r : List MxCmd) (d a b : Code) (ini raw bias icell : BitVec 1) (fmt : BitVec 4)
    (sr act ofmt : BitVec 3) (scl : BitVec 2) (mmax nc : BitVec 7) (pitch : BitVec 10) (stl : Stall) (lit : Option Word),
    s.nums = [g] →
    let m := s.gangMx g
    let cl := (s.gang g).cluster
    let cell := fun (u : State) (row col : Nat) => mapGet 0 (u.cluster cl).acc (128 * row + col)
    let scr := s.asRead.scrRead g
    let rows := fun (o n len : Nat) => (List.range n).map (fun i => scr (o + 16 * pitch.toNat * i) len)
    m.cmds = c :: r → (∀ e ∈ r, e.order ≠ c.order) → s.mxHeld g c = false → (∀ v, (s.wave v).hops = []) →
    s.badScratch = [] → s.badAcc = [] →
    let done := fun (t : State) => t = { s with mx := t.mx, clusters := t.clusters, gangs := t.gangs, waves := t.waves } ∧
      (t.gangMx g).cmds = r ∧ (∀ k, k ≠ g → t.gangMx k = s.gangMx k ∧ t.gang k = s.gang k) ∧
      (∀ k, k ≠ cl → t.cluster k = s.cluster k) ∧ (∀ v, v ≠ c.wave → t.wave v = s.wave v) ∧
      t.wave c.wave = { s.wave c.wave with counters := (t.wave c.wave).counters } ∧
      ∀ p, (t.wave c.wave).counter p = (s.wave c.wave).counter p - (if p = 5 then 1 else 0)
    let v := fun i => c.vals.getD i 0
    let sameCells := fun (t : State) (lo hi n : Nat) => ∀ row col, col < 128 → row < lo ∨ hi ≤ row ∨ n ≤ col →
      cell t row col = cell s row col
    let effect := fun (P : State → Prop) => Answers .matrixCommandComplete s (fun t => done t ∧ P t)
    (c.op = .mloadw d a b fmt pitch stl lit → effect (fun t => t.clusters = s.clusters ∧ (t.gangMx g).active = m.active ∧
      (t.gangMx g).shadow = {
        loaded := true, stale := false, src := v 0, pitch := pitch.toNat, fmt := fmt.toNat, k := v 1, n := v 2, rows := rows (v 0) (v 2) (mxRowBytes fmt.toNat (v 1)) })) ∧
    (c.op = .mswap stl → m.shadow.stale = true → m.shadow.loaded = true → effect (fun t => t.clusters = s.clusters ∧
      (t.gangMx g).shadow = m.active ∧ (t.gangMx g).active = { m.shadow with
        stale := false, rows := (List.range m.shadow.n).map (fun i =>
          scr (m.shadow.src + 16 * m.shadow.pitch * i) (mxRowBytes m.shadow.fmt m.shadow.k)) })) ∧
    (c.op = .mswap stl → m.shadow.stale = false → effect (fun t => t.clusters = s.clusters ∧
      (t.gangMx g).active = m.shadow ∧ (t.gangMx g).shadow = m.active)) ∧
    (c.op = .mzero a b stl lit → effect (fun t => sameCells t (c.accbase + v 0) (c.accbase + v 0 + v 1) 128 ∧
      ∀ row col, col < 128 → c.accbase + v 0 ≤ row → row < c.accbase + v 0 + v 1 → cell t row col = 0)) ∧
    (c.op = .mstream d a b fmt sr ini mmax pitch stl lit → c.granted = true → m.active.rows.length ≤ 128 →
      effect (fun t => sameCells t (c.accbase + v 1) (c.accbase + v 1 + v 2) m.active.rows.length ∧
        ∀ i j, i < v 2 → j < m.active.rows.length → cell t (c.accbase + v 1 + i) j = BitVec.ofNat 32
          (mxDot sr.toNat (if ini = 1 then mxIdentity sr.toNat else (cell s (c.accbase + v 1 + i) j).toNat) fmt.toNat
            m.active.fmt m.active.k (scr (v 0 + 16 * pitch.toNat * i) (mxRowBytes fmt.toNat m.active.k))
            (m.active.rows.getD j [])))) ∧
    (c.op = .mfill d a b pitch nc stl lit → effect (fun t => sameCells t (c.accbase + v 1) (c.accbase + v 1 + v 2) (if nc = 0 then 128 else nc.toNat) ∧
      ∀ i j, i < v 2 → j < (if nc = 0 then 128 else nc.toNat) → cell t (c.accbase + v 1 + i) j =
        BitVec.ofNat 32 (leNat (scr (v 0 + 16 * pitch.toNat * i + 4 * j) 4)))) ∧
    (c.op = .mdrain d a b raw act ofmt scl bias pitch nc icell stl lit →
      let n := if nc = 0 then 128 else nc.toNat
      let eb := if raw = 1 then 4 else ofmtBytes ofmt.toNat
      let at' := fun (o n : Nat) => leNat (scr (v 1 + o) n)
      let form : DrainForm := {
        raw := raw = 1, ofmt := ofmt.toNat, scl := scl.toNat, bias := bias = 1, icell := icell = 1,
        epi := { act := act.toNat, leakk := at' 0x408 1 % 32, lo := at' 0x400 4, hi := at' 0x404 4 },
        scale := fun i => at' (4 * i) 4, biasv := fun c => at' (0x200 + 4 * c) 4 }
      n * eb ≤ 16 * pitch.toNat → effect (fun t => t.clusters = s.clusters ∧
        (∀ i j, i < v 3 → j < n → t.scrRead g (v 0 + 16 * pitch.toNat * i + j * eb) eb =
          leBytes eb (form.cell i j (cell s (c.accbase + v 2 + i) j).toNat)) ∧
        ∀ o, (∀ i, i < v 3 → o < v 0 + 16 * pitch.toNat * i ∨ v 0 + 16 * pitch.toNat * i + n * eb ≤ o) →
          mapGet 0 (t.gang g).scratch o = mapGet 0 (s.gang g).scratch o))

/-- R73 to R75: a cell takes its K-groups in order: of each, the exact sum of its products is rounded once to F32 by RNE, times
both scales for MXFP4, and added to the cell with a second rounding; INT8 adds exactly modulo 2^32; and the semirings put their
two operations in their place, one product after another: or-and ANDs 32 bits and ORs them to the cell. -/
def Claims.CellsAreExactSums : Prop :=
  (∀ (acc fa fw g w n : Nat) (rows rows' : List Byte), (g, w) ∈ [(1, 2), (4, 1), (1, 4)] →
    fa ∈ (if w = 2 then [0, 1] else if w = 1 then [2, 3] else [6]) → fw ∈ (if w = 2 then [fa] else if w = 1 then [2, 3] else [6]) →
    mxDot 0 acc fa fw (g + n) rows rows' =
      mxDot 0 (mxDot 0 acc fa fw g rows rows') fa fw n (rows.drop (g * w)) (rows'.drop (g * w))) ∧
  (∀ (acc fa fw ea ma eb mb n w : Nat) (row row' : List Byte), 0 < n →
    (fa, fw, ea, ma, eb, mb, w) ∈ [(0, 0, 8, 7, 8, 7, 2), (1, 1, 5, 10, 5, 10, 2), (6, 6, 8, 23, 8, 23, 4), (2, 2, 4, 3, 4, 3, 1),
      (2, 3, 4, 3, 5, 2, 1), (3, 2, 5, 2, 4, 3, 1), (3, 3, 5, 2, 5, 2, 1)] → n ≤ (if w = 1 then 4 else 1) →
    let elem := fun (r : List Byte) (i : Nat) => fieldNat r (w * i) w
    let finite := fun (e m x : Nat) => if e = 4 then x % 128 ≠ 127 else imgFinite e m x
    (∀ i, i < n → finite ea ma (elem row i) ∧ finite eb mb (elem row' i)) →
    let k := unitExp ea ma + unitExp eb mb
    let X := ((List.range n).map (fun i => imgUnits ea ma (elem row i) * imgUnits eb mb (elem row' i))).sum * 2 ^ (149 - k)
    X ≠ 0 → ∃ t fl, RoundsWith 8 23 0 false (2 ^ (k - 149)) X (t, fl) ∧
      mxDot 0 acc fa fw n row row' = (addElem envRNE 4 acc t 0).1) ∧
  (∀ (acc n sa sb : Nat) (row row' : List Byte), 0 < n → n ≤ 32 → fieldNat row 64 1 = sa → fieldNat row' 64 1 = sb → sa < 255 →
    sb < 255 →
    let half := fun (r : List Byte) (i : Nat) =>
      let x := fieldNat r (i / 2) 1 / 16 ^ (i % 2) % 16
      let m : Int := [0, 1, 2, 3, 4, 6, 8, 12].getD (x % 8) 0
      if 8 ≤ x then -m else m
    let X := ((List.range n).map (fun i => half row i * half row' i)).sum * 2 ^ (sa + sb - 107)
    X ≠ 0 → ∃ t fl, RoundsWith 8 23 0 false (2 ^ (107 - (sa + sb))) X (t, fl) ∧
      mxDot 0 acc 5 5 n row row' = (addElem envRNE 4 acc t 0).1) ∧
  (∀ (acc n : Nat) (row row' : List Byte), acc < 2 ^ 32 →
    let val := fun (r : List Byte) (i : Nat) =>
      let x := fieldNat r i 1
      if 128 ≤ x then (x : Int) - 256 else x
    mxDot 0 acc 4 4 n row row' =
      ((((acc : Int) + ((List.range n).map (fun i => val row i * val row' i)).sum) % 2 ^ 32).toNat)) ∧
  (∀ (acc x y : Nat), x < 2 ^ 32 → y < 2 ^ 32 → acc < 2 ^ 32 →
    let cell := fun (sr : Nat) => mxDot sr acc 6 6 1 (leBytes 4 x) (leBytes 4 y)
    cell 1 = (pickElem false envRNE 4 acc (addElem envRNE 4 x y 0).1 0).1 ∧
    cell 2 = (pickElem true envRNE 4 acc (addElem envRNE 4 x y 0).1 0).1 ∧
    cell 3 = (pickElem true envRNE 4 acc (mulElem envRNE 4 x y 0).1 0).1 ∧
    mxDot 4 acc 7 7 1 (leBytes 4 x) (leBytes 4 y) = acc ||| (x &&& y)) ∧
  (∀ (sr acc fmt w n : Nat) (row row' : List Byte),
    (sr ∈ [1, 2, 3] ∧ (fmt, w) ∈ [(0, 2), (1, 2), (6, 4)] ∨ sr = 4 ∧ fmt = 7 ∧ w = 4) →
    mxDot sr acc fmt fmt (1 + n) row row' =
      mxDot sr (mxDot sr acc fmt fmt 1 row row') fmt fmt n (row.drop w) (row'.drop w)) ∧
  (∀ (sr acc fmt t : Nat) (row row' : List Byte), sr ∈ [1, 2, 3] → (fmt, t) ∈ [(0, 7), (1, 6)] →
    let wide := fun (r : List Byte) => leBytes 4 (cvtElem envRNE t 4 (fieldNat r 0 2)).1
    mxDot sr acc fmt fmt 1 row row' = mxDot sr acc 6 6 1 (wide row) (wide row'))

/-- R218: an element of MDRAIN, in the elements of the vector classes: raw; of I32 and I8, with ReLU; and of the float formats,
scaled, biased, put through ACT and converted as VCVT with SAT = 1, into F32 too (log 9). The functions of ACT 4 to 6 are those of
VUN. -/
def Claims.DrainsConvertCells : Prop :=
  ∀ (d : DrainForm) (i c x : Nat), x < 2 ^ 32 →
    let v : Int := if 2 ^ 31 ≤ x then (x : Int) - 2 ^ 32 else x
    let y := if d.epi.act = 1 then max 0 v else v
    (d.raw = true → d.cell i c x = x) ∧
    (d.raw = false → d.ofmt = 5 → d.cell i c x = (y % 2 ^ 32).toNat) ∧
    (d.raw = false → d.ofmt = 6 → d.cell i c x = ((max (-128) (min 127 y)) % 2 ^ 8).toNat) ∧
    (d.raw = false → ∀ t, (d.ofmt, t) ∈ [(0, 4), (1, 7), (2, 6), (3, 12), (4, 13)] →
      let x1 := if d.icell = true then (cvtElem envRNE 0 4 x).1 else x
      let x2 := if d.scl = 1 then (mulElem envRNE 4 x1 (d.scale i) 0).1 else if d.scl = 2 then (mulElem envRNE 4 x1 (d.scale c) 0).1
        else x1
      let x3 := if d.bias = true then (addElem envRNE 4 x2 (d.biasv c) 0).1 else x2
      let nan := imgNan 8 23 x3
      let key := imgKey 8 23 x3
      let out := fun (z : Nat) => d.cell i c x = (cvtElem { rm := 0, sat := true, ftz := false } 4 t z).1
      let unary := fun (fn z : Nat) => (vunElem fn envRNE 4 z 0 0).1
      x3 < 2 ^ 32 →
      (d.epi.act = 0 → ¬ nan → out x3) ∧
      (d.epi.act = 1 → ¬ nan → out (if 0 < key then x3 else 0)) ∧
      (d.epi.act = 2 → imgFinite 8 23 x3 → d.epi.leakk ≤ 100 → out (if -1 ≤ key then x3
        else (mulElem envRNE 4 x3 (2 ^ 23 * (127 - d.epi.leakk)) 0).1)) ∧
      (d.epi.act = 3 → out (pickElem false envRNE 4 (pickElem true envRNE 4 x3 d.epi.lo 0).1 d.epi.hi 0).1) ∧
      (d.epi.act = 4 → out (unary 3 (addElem envRNE 4 0x3F800000
        (unary 6 ((mulElem envRNE 4 x3 0x3FB8AA3B 0).1 ^^^ 2 ^ 31)) 0).1)) ∧
      (d.epi.act = 5 → out (unary 21 x3)) ∧ (d.epi.act = 6 → out (unary 8 (mulElem envRNE 4 x3 0x3EA2F983 0).1)) ∧
      (nan → d.epi.act ≤ 2 → out 0x7FC00000))

/-- What the matrix commands do to planes, cells and scratch. -/
def Obligations.MatrixCommandsTakeEffect : Prop :=
  Claims.MatrixCommandsTakeEffect ∧ Claims.CellsAreExactSums ∧ Claims.DrainsConvertCells

/-- R238, R239 to R241, R254 to R256: WHINT prefetches, pins, unpins and drops a weight set; NCALL, SPAWN and SPAWNC place one
row for each of their lanes in a booth of its key, or in what a full booth has dispatched; an NCALL's token is then pending
with its lanes. -/
def Obligations.NeuralRowsArePlaced : Prop :=
  ∀ (s : State) (f : Focus) (d a b : Code) (nin : BitVec 6) (nout : BitVec 5) (ity oty op : BitVec 2) (token : BitVec 3)
    (pay : BitVec 4) (stl : Stall) (lit : Option Word), s.quiet f = true →
    let x := s.wave f.wave
    let cl := s.cluster x.cluster
    let act := s.live f.wave f.split
    let no := nout.toNat + 1
    let ni := nin.toNat + 1
    let only := fun (t : State) => t = { s with
        waves := t.waves, clusters := t.clusters, ports := t.ports, lastIssue := t.lastIssue } ∧
      (∀ w, w ≠ f.wave → t.wave w = s.wave w) ∧ (∀ k, k ≠ x.cluster → t.cluster k = s.cluster k) ∧
      ((t.wave f.wave).split f.split).pc = f.next
    let kept := fun (t : State) => t.wave f.wave = { x with
      splits := (t.wave f.wave).splits, readySince := (t.wave f.wave).readySince, starving := (t.wave f.wave).starving }
    let stands := fun (t : State) (kind : Nat) (key : List Nat) (r : Row) =>
      ∃ y : Booth, y.kind = kind ∧ y.key = key ∧ r ∈ y.rows ∧
        (y.used = true ∧ y ∈ (t.cluster x.cluster).booths ∨ y ∈ (t.cluster x.cluster).spawnQ ∨
          ∃ z ∈ (t.cluster x.cluster).tiles, z.booth = y)
    (vOk x d no = true → vOk x a ni = true → vOk x b 1 = true → act ≠ 0 →
      let i := Instr.ncall d a b nin nout ity oty token stl
      let id := fun L => (s.readV f.wave b.toNat L).toNat % 2 ^ 20
      (s.hasFifo x.cluster = false → Traps i s f 0x14 f.pc 32) ∧
      (s.hasFifo x.cluster = true → cl.booths.length = 32 → ∀ c : Mask, c ≠ 0 →
        (∀ L, L < 64 → (c.getLsbD L = true ↔ act.getLsbD L = true ∧ id L ≠ 0)) →
        4 * max ni no * Mask.count c ≤ s.fifoFree x.cluster →
        Answers i s (fun t => only t ∧
          t.wave f.wave = { x with
            k := (t.wave f.wave).k, splits := (t.wave f.wave).splits, readySince := (t.wave f.wave).readySince,
            starving := (t.wave f.wave).starving } ∧
          (∀ j, mapGet Token.idle (t.wave f.wave).k j = if j = token.toNat then { Token.idle with
            pending := true, lanes := c, dreg := d.toNat, dcount := no, left := c } else Token.idle) ∧
          ∀ L, L < 64 → c.getLsbD L = true →
            stands t 0 [x.csr.asid, x.csr.world, x.csr.wst.toNat, id L, ni, no, ity.toNat, oty.toNat]
              { wave := f.wave, token := token.toNat, lane := L, id := id L, bytes := 4 * max ni no,
                vals := (List.range ni).map (fun i => s.readV f.wave (a.toNat + i) L) }))) ∧
    (let room := pay.toNat ≤ (s.task (s.gang x.gang).task).regs ∧ s.hasFifo x.cluster = true ∧ cl.booths.length = 32 ∧
       4 * max pay.toNat 1 * Mask.count act ≤ s.fifoFree x.cluster ∧ act ≠ 0
     let row := fun (L : Nat) => ({
       wave := f.wave, token := 0, lane := L, id := x.seq, bytes := 4 * max pay.toNat 1,
       vals := (List.range pay.toNat).map (fun i => s.readV f.wave (d.toNat + i) L) } : Row)
     (pay = 0 ∨ vOk x d pay.toNat = true) → room →
     (vOk x a 2 = true →
       let entry := fun L => Dword.ofWords (s.readV f.wave a.toNat L) (s.readV f.wave (a.toNat + 1) L)
       let good := fun L => canonical (entry L) = true ∧ (entry L).toNat % 4 = 0
       ((∀ L, L < 64 → act.getLsbD L = true → good L) → Answers (.spawn d a pay stl) s (fun t => only t ∧ kept t ∧
         ∀ L, L < 64 → act.getLsbD L = true → stands t 1 [x.csr.asid, (entry L).toNat, pay.toNat] (row L))) ∧
       (∀ L, L < 64 → act.getLsbD L = true → ¬ good L → (∀ j, j < L → act.getLsbD j = true → good j) →
         Traps (.spawn d a pay stl) s f (if canonical (entry L) then 0x05 else 0x07) f.pc (entry L))) ∧
     (vOk x a 1 = true → hOk b = true →
       let h := s.readH f.wave b.toNat
       let va := handleAddr h
       (handleType h ≠ 8 → Traps (.spawnc d a b pay stl) s f 0x14 f.pc 34) ∧
       (handleType h = 8 → ∀ (pa : Nat → Nat) (n : Nat) (cs : List (Nat × Nat × Nat × Dword)),
         let at16 := fun j => s.readBy x.cluster (pa j) 16
         fieldNat (at16 0) 0 4 = n → 1 ≤ n → n ≤ 16 →
         (∀ j, j ≤ n → checkVa s (s.space f.wave) .read 16 (va + BitVec.ofNat 64 (16 * j)) = .ok (pa j) ∧
           s.mayLoad f.wave f (pa j) 16 = true ∧ s.badAt (pa j) 16 = false) →
         classTable (at16 0) ((List.range n).flatMap (fun j => at16 (j + 1))) = some cs →
         let shaded := fun (x : Wave) => x.flight.map (fun o => { o with shadow := [] })
         Answers (.spawnc d a b pay stl) s (fun t => only t ∧ t.wave f.wave = { x with
             splits := (t.wave f.wave).splits, readySince := (t.wave f.wave).readySince, starving := (t.wave f.wave).starving,
             flight := (t.wave f.wave).flight } ∧ shaded (t.wave f.wave) = shaded x ∧
           ((∀ o ∈ x.flight, o.more = false) → (t.wave f.wave).flight = x.flight) ∧ ∀ L, L < 64 → act.getLsbD L = true →
           stands t 2 [x.csr.asid, va.toNat, classFor cs (s.readV f.wave a.toNat L).toNat, pay.toNat] (row L))))) ∧
    (d.toNat < 96 → srcOk false a = true →
      s.setWaits x.engSpace x.csr.wst ((s.readSrc f.wave f.split lit a).toNat % 2 ^ 20) = false → ∀ sub,
      s.readSet x.engSpace x.csr.wst ((s.readSrc f.wave f.split lit a).toNat % 2 ^ 20) = .error (sub, none) →
      Answers (.whint d a op stl lit) s (fun t => only t ∧ t.clusters = s.clusters ∧
        t.readsS f.wave d.toNat (s.clk + 1) (if sub = 1 then 2 else if sub = 2 then 3 else 6))) ∧
    (d.toNat < 96 → srcOk false a = true →
      s.setWaits x.engSpace x.csr.wst ((s.readSrc f.wave f.split lit a).toNat % 2 ^ 20) = false → ∀ (va : Dword) (ds : List Byte),
      s.readSet x.engSpace x.csr.wst ((s.readSrc f.wave f.split lit a).toNat % 2 ^ 20) = .ok (va, ds) →
      let y := newSet x.csr.asid x.csr.ttbase x.csr.world va ds
      let i := Instr.whint d a op stl lit
      let gives := fun (n : Word) (sets : List WSet) => Answers i s (fun t => only t ∧
        t.readsS f.wave d.toNat (s.clk + 1) n ∧ t.cluster x.cluster = { cl with sets })
      (cl.sets.find? (fun z => z.same y) = none → s.areaOwned x.engSpace y.base y.bytes = false →
        (∀ data, s.engRead x.engSpace y.base y.bytes = .ok data → op = 0 → gives 0 (cl.sets ++ [y])) ∧
        (∀ e, s.engRead x.engSpace y.base y.bytes = .error e → e.cause ≠ 0x06 → op = 0 ∨ op = 1 →
          cl.pinned + y.bytes ≤ 768 * 1024 → gives 6 cl.sets)) ∧
      ∀ z, cl.sets.find? (fun z => z.same y) = some z → z.resident = true →
        let put := fun (n : Nat) => cl.sets.map (fun z => if z.same y then { z with pins := n } else z)
        (op = 0 → gives 0 cl.sets) ∧
        (op = 1 → cl.pinned + y.bytes ≤ 768 * 1024 ∨ z.pins ≠ 0 → gives 0 (put (z.pins + 1))) ∧
        (op = 1 → 768 * 1024 < cl.pinned + y.bytes → z.pins = 0 → gives 1 cl.sets) ∧
        (op = 2 → z.pins = 0 → gives 4 cl.sets) ∧ (op = 2 → z.pins ≠ 0 → gives 0 (put (z.pins - 1))) ∧
        (op = 3 → z.pins ≠ 0 → gives 5 cl.sets) ∧
        (op = 3 → z.pins = 0 → cl.setBusy y = false → gives 0 (cl.sets.filter (fun z => !(z.same y)))))

/-- R236, R237, R242 to R247: a booth's descriptor is read, or its rows fail; its timer dispatches it; a weight set is filled;
a tile begins with its inputs converted, runs its layers one by one, and scatters its results to the registers of its rows,
whose call resolves with its last row. -/
def Claims.BoothsAndTilesRun : Prop :=
  ∀ (s : State) (c i : Nat), s.nums = [c, i] →
    let cl := s.cluster c
    let only := fun (t : State) => t = { s with clusters := t.clusters } ∧ ∀ k, k ≠ c → t.cluster k = s.cluster k
    let b := cl.booth i
    (i < 32 → b.used = true → b.kind = 0 → b.desc = [] → s.boothWaits c b = false →
      (∀ va d, s.boothDesc c b = .ok (va, d) → Answers .boothDescriptorRead s (fun t => only t ∧
        t.cluster c = { cl with
          booths := cl.booths.set i { b with descVa := va, desc := d, timer := some (s.clk + descTimer d) } })) ∧
      (∀ sub r, s.boothDesc c b = .error (sub, none) → b.rows = [r] → (mapGet Token.idle (s.wave r.wave).k r.token).left = Mask.one r.lane →
        (mapGet Token.idle (s.wave r.wave).k r.token).failmask = 0 → (s.wave r.wave).ended = false →
        (s.wave r.wave).died = false → r.lane < 64 → Answers .boothDescriptorRead s (fun t =>
          (t.cluster c).booths = cl.booths.set i Booth.empty ∧
          mapGet Token.idle (t.wave r.wave).k r.token = { mapGet Token.idle (s.wave r.wave).k r.token with
            left := 0, failmask := Mask.one r.lane, id := r.id, subcode := sub, unc := sub = 5, pending := false } ∧
          (t.wave r.wave).v = (s.wave r.wave).v))) ∧
    (∀ due, b.used = true → b.timer = some due → Answers .boothTimerExpire s (fun t =>
      t = { s with clusters := t.clusters, clk := max s.clk due } ∧ (∀ k, k ≠ c → t.cluster k = s.cluster k) ∧
      (t.cluster c).booths = cl.booths.set i Booth.empty ∧
      (b.kind = 0 → (t.cluster c).tiles = cl.tiles ++ [newTile b] ∧ (t.cluster c).spawnQ = cl.spawnQ) ∧
      (b.kind ≠ 0 → (t.cluster c).spawnQ = cl.spawnQ ++ [b] ∧ (t.cluster c).tiles = cl.tiles))) ∧
    (∀ y data, cl.wanted[i]? = some y → s.areaOwned (engineSpace c y.asid y.ttbase y.world) y.base y.bytes = false →
      s.engRead (engineSpace c y.asid y.ttbase y.world) y.base y.bytes = .ok data →
      let rest := cl.sets.filter (fun z => !(z.same y))
      ({ cl with sets := rest }).setBytes + y.bytes ≤ 2 ^ 20 → Answers .weightSetFill s (fun t => only t ∧
        t.cluster c = { cl with sets := rest ++ [{ y with resident := true, data, lastUse := s.clk }] })) ∧
    (∀ x, cl.tiles[i]? = some x →
      let d := x.booth.desc
      let inputs := fun r : Row => quantRow (descLayer d 0).afmt (callInputs (x.booth.key.getD 6 0) r.vals)
      (x.granted = true → x.begun = false → Answers .tileBegin s (fun t => only t ∧
        (t.cluster c).tiles = cl.tiles.set i { x with begun := true, layer := 0, acts := x.booth.rows.map inputs } ∧
        (t.cluster c).booths = cl.booths)) ∧
      (∀ y, x.granted = true → x.begun = true → cl.setOf x.booth = some y →
        let out := fun a => (descLayer d x.layer).run y.data a
        Answers .tileLayerEnd s (fun t => only t ∧ (t.cluster c).tiles = cl.tiles.set i { x with
          layer := x.layer + 1, granted := false,
          acts := if x.layer + 1 = descLayers d then x.acts.map (fun a => callOutputs (x.booth.key.getD 7 0) (out a))
            else x.acts.map (fun a => quantRow (descLayer d (x.layer + 1)).afmt (out a)) })) ∧
      (∀ r a, x.begun = true → x.layer = descLayers d → x.booth.rows = [r] → x.acts = [a] → r.lane < 64 →
        (s.wave r.wave).ended = false → (s.wave r.wave).died = false →
        (mapGet Token.idle (s.wave r.wave).k r.token).left = Mask.one r.lane →
        (mapGet Token.idle (s.wave r.wave).k r.token).failmask = 0 →
        let first := (mapGet Token.idle (s.wave r.wave).k r.token).dreg
        Answers .tileScatter s (fun t => (t.cluster c).tiles = cl.tiles.eraseIdx i ∧
          (∀ w, w ≠ r.wave → t.wave w = s.wave w) ∧ mapGet Token.idle (t.wave r.wave).k r.token = Token.idle ∧
          (∀ j, j < a.length / 4 → t.vReg r.wave (first + j) r.lane = BitVec.ofNat 32 (leNat ((a.drop (4 * j)).take 4))) ∧
          ∀ n L, L < 64 → n < first ∨ first + a.length / 4 ≤ n ∨ L ≠ r.lane → t.vReg r.wave n L = s.vReg r.wave n L)))

/-- R59, R244, R245: what a layer computes: of each output the dot product of R73, the bias added with one more rounding, and ACT as of
R218; inputs and results converted by RNE with SAT = 1, and into MXFP4 in blocks of 32 with the least scale that holds them, each
element rounded to the nearest. -/
def Claims.LayersAreComputed : Prop :=
  let sat : FEnv := { rm := 0, sat := true, ftz := false }
  (∀ (y : Layer) (data act : List Byte) (n : Nat), n < y.n →
    let x0 := mxDot 0 0 y.afmt y.wfmt y.k act ((data.drop (y.woff + 16 * y.pitch * n)).take (mxRowBytes y.wfmt y.k))
    let x1 := if y.bias = true then (addElem envRNE 4 x0 (cvtElem envRNE 7 4 (fieldNat data (y.boff + 2 * n) 2)).1 0).1 else x0
    (y.run data act).length = y.n ∧
    (y.run data act)[n]? = some (({ act := y.act, leakk := y.leakk, lo := y.lo, hi := y.hi } : Epi).apply x1)) ∧
  (∀ (e : Epi) (x : Nat), x < 2 ^ 32 →
    let nan := imgNan 8 23 x
    let key := imgKey 8 23 x
    let unary := fun (fn z : Nat) => (vunElem fn envRNE 4 z 0 0).1
    (e.act = 0 → ¬ nan → e.apply x = x) ∧ (e.act = 1 → ¬ nan → e.apply x = if 0 < key then x else 0) ∧
    (e.act = 2 → imgFinite 8 23 x → e.leakk ≤ 100 → e.apply x = if -1 ≤ key then x else (mulElem envRNE 4 x (2 ^ 23 * (127 - e.leakk)) 0).1) ∧
    (e.act = 3 → e.apply x = (pickElem false envRNE 4 (pickElem true envRNE 4 x e.lo 0).1 e.hi 0).1) ∧
    (e.act = 4 → e.apply x = unary 3 (addElem envRNE 4 0x3F800000 (unary 6 ((mulElem envRNE 4 x 0x3FB8AA3B 0).1 ^^^ 2 ^ 31)) 0).1) ∧
    (e.act = 5 → e.apply x = unary 21 x) ∧ (e.act = 6 → e.apply x = unary 8 (mulElem envRNE 4 x 0x3EA2F983 0).1) ∧
    (nan → e.act ≠ 3 → e.apply x = 0x7FC00000)) ∧
  (∀ (vals : List Word) (i : Nat), i < vals.length →
    let v := (vals.getD i 0).toNat
    (callInputs 0 vals)[i]? = some v ∧ ∀ ity t, (ity, t) ∈ [(1, 6), (2, 7)] →
      (callInputs ity vals)[2 * i]? = some (cvtElem envRNE t 4 (v % 65536)).1 ∧
      (callInputs ity vals)[2 * i + 1]? = some (cvtElem envRNE t 4 (v / 65536)).1) ∧
  (∀ (xs : List Nat) (i : Nat), (∀ x ∈ xs, x < 2 ^ 32) → i < xs.length →
    let x := xs.getD i 0
    (∀ af t, (af, t) ∈ [(2, 12), (3, 13)] → fieldNat (quantRow af xs) i 1 = (cvtElem sat 4 t x).1) ∧
    fieldNat (callOutputs 0 xs) (4 * i) 4 = x ∧
    ∀ oty t, (oty, t) ∈ [(1, 6), (2, 7)] → fieldNat (callOutputs oty xs) (2 * i) 2 = (cvtElem sat 4 t x).1) ∧
  (∀ (xs : List Nat) (b : Nat), (∀ x ∈ xs, x < 2 ^ 32) → xs.length ≤ 128 → 32 * b < xs.length →
    let blk := (xs.drop (32 * b)).take 32
    let row := quantRow 5 xs
    let sc := fieldNat row (64 + b) 1
    let nib := fun (i : Nat) => fieldNat row ((32 * b + i) / 2) 1 / 16 ^ (i % 2) % 16
    let mag := fun (c : Nat) => [0, 1, 2, 3, 4, 6, 8, 12].getD (c % 8) 0
    let U := fun (i : Nat) => (imgUnits 8 23 (blk.getD i 0)).natAbs
    let far := fun (i c : Nat) => (2 * (U i : Int) - (mag c * 2 ^ (sc + 22) : Nat)).natAbs
    ((∃ x ∈ blk, ¬ imgFinite 8 23 x) → sc = 255 ∧ ∀ i, i + 1 < blk.length → nib i = 0) ∧
    ((∀ x ∈ blk, imgFinite 8 23 x) →
      ((∀ i, i < blk.length → U i = 0) → sc = 127) ∧
      ((∃ i, i < blk.length ∧ U i ≠ 0) → (∀ i, i < blk.length → U i ≤ 6 * 2 ^ (sc + 22)) ∧
        (sc = 0 ∨ ∃ i, i < blk.length ∧ 6 * 2 ^ (sc + 21) < U i)) ∧
      ∀ i, i / 2 < blk.length / 2 → nib i / 8 = imgSign 8 23 (blk.getD i 0) ∧
        ∀ c, c < 8 → far i (nib i) ≤ far i c ∧ (far i (nib i) = far i c → mag c = mag (nib i) ∨ nib i % 2 = 0)))

/-- Booths, weight sets, tiles, and what a layer computes. -/
def Obligations.BoothsAndTilesRun : Prop :=
  Claims.BoothsAndTilesRun ∧ Claims.LayersAreComputed

/-- R17, R222, R257: the array goes to the only stream or to the only tile that asks for it, and of a tile and a stream to the
side whose waiting tiles or streams are the more urgent, where its share allows; and a dispatched spawn booth starts a gang of one
wave at its entry address, its threads in the low lanes and their payload in v0 on. That the most urgent priorities of R17 are taken
over all that wait, and not over the first of each queue, is the model's reading (log 66). -/
def Obligations.TheArrayIsGrantedAndThreadsSpawn : Prop :=
  (∀ (s : State) (c : Nat), s.nums = [c] → s.arrayBusy c = false →
    let cl := s.cluster c
    let tiles := cl.tilesFor
    let streams := s.streamsFor c
    (tiles = [] → streams = [] → Answers .matrixArbitration s (fun t => t = s)) ∧
    (∀ g m, tiles = [] → streams = [(g, m)] → m.prio < 4 → cl.arrayGang = 0 ∨ cl.arrayGang = g + 1 →
      Answers .matrixArbitration s (fun t => t = { s with mx := t.mx, clusters := t.clusters } ∧
        t.gangMx g = { s.gangMx g with
          cmds := (s.gangMx g).cmds.map (fun d => if d.order = m.order then { d with granted := true } else d) } ∧
        (∀ k, k ≠ g → t.gangMx k = s.gangMx k) ∧ (t.cluster c).arrayGang = g + 1 ∧
        (t.cluster c).slots = (false :: cl.slots).take 63)) ∧
    (∀ i x, tiles = [i] → cl.tiles[i]? = some x →
      (streams = [] ∨ (x.rush = true ∨ ∀ e ∈ s.waitingStreams c, s.tilePrio x < e.2.prio) ∧ shareLeft true cl.slots = true) →
      Answers .matrixArbitration s (fun t => t = { s with clusters := t.clusters } ∧
        t.cluster c = { cl with
          tiles := cl.tiles.set i { x with granted := true }, slots := (true :: cl.slots).take 63 } ∧
        ∀ k, k ≠ c → t.cluster k = s.cluster k)) ∧
    (∀ i x g m, tiles = [i] → cl.tiles[i]? = some x → streams = [(g, m)] → x.rush = false →
      (∃ e ∈ s.waitingStreams c, ∀ y ∈ cl.tiles, y.granted = false → y.done = false → e.2.prio < s.tilePrio y) → shareLeft false cl.slots = true →
      cl.arrayGang = 0 ∨ cl.arrayGang = g + 1 → Answers .matrixArbitration s (fun t =>
        t = { s with mx := t.mx, clusters := t.clusters } ∧ (t.cluster c).arrayGang = g + 1 ∧ (t.cluster c).tiles = cl.tiles ∧
        t.gangMx g = { s.gangMx g with
          cmds := (s.gangMx g).cmds.map (fun d => if d.order = m.order then { d with granted := true } else d) }))) ∧
  (∀ (s v : State) (c : Nat) (b : Booth) (rest : List Booth) (seat : Nat × Nat) (x : LaunchCtx) (area : Dword), s.nums = [c] →
    let u := s.sweep
    let k := u.task b.task
    (u.cluster c).spawnQ = b :: rest → u.boothReleased b = true → u.seatsOn c 1 k.vregs = some [seat] →
    u.ctx k.ctx = some x → u.popAreas x 1 = some ([area], v) → b.lanes * b.rows.length ≤ 64 →
    Answers .spawnLaunch s (fun t =>
      let w := u.orders + 1
      let y := t.wave w
      let g := t.gang w
      (∀ j, j ≠ w → t.wave j = u.wave j ∧ t.gang j = u.gang j) ∧ t.mem = v.mem ∧ (t.cluster c).spawnQ = rest ∧ t.orders = w ∧
      g.live = true ∧ g.task = b.task ∧ g.cluster = c ∧ g.waves = 1 ∧ g.gidx = 0xFFFFFFFF ∧ mapGet 0 g.ids 0 = w ∧
      y.life = .resident ∧ y.origin = 1 ∧ y.blocks = k.vregs ∧ (y.core, y.slot) = seat ∧ (y.split 0).pc = b.entry ∧
      (y.split 0).state = 1 ∧ (∀ L, L < 64 → ((y.split 0).exec.getLsbD L = true ↔ L < b.lanes * b.rows.length)) ∧
      (y.split 0).own = (y.split 0).exec ∧ y.csr.savearea = area ∧ y.csr.asid = x.asid ∧
      mapGet 0 y.s 2 = BitVec.ofNat 32 b.rows.length ∧ mapGet 0 y.s 3 = BitVec.ofNat 32 b.cls ∧
      ∀ i r n j, b.rows[i]? = some r → n < r.vals.length → j < b.lanes →
        mapGet 0 y.v (64 * n + (i * b.lanes + j)) = r.vals.getD n 0))

/-- R313, R315, R322, R325: TRACE, TRACEC and REPLAY send one operation to the ray unit, with the ray records of their ACTIVE
lanes as they stand in scratch; a handle that is no SCENE traps with RAY 1, a misaligned root with RAY 2, a record that holds
no suspended query with RAY 3, and a decision above 2 with RAY 4. That REPLAY reads its lane's ray record at issue is the model's
reading (log 35), and that TRAV alone tells a suspended query (log 34). -/
def Obligations.RayInstructionsAreSent : Prop :=
  ∀ (s : State) (f : Focus) (d a b : Code) (mode : BitVec 2) (log cullb full : BitVec 1) (logn : BitVec 4) (stl : Stall),
    s.quiet f = true →
    let x := s.wave f.wave
    let act := s.live f.wave f.split
    let base := s.logBase f.wave logn
    let inside := fun (c : Code) => ∀ L, L < 64 → act.getLsbD L = true →
      (s.readV f.wave c.toNat L).toNat % 256 = 0 ∧ (s.readV f.wave c.toNat L).toNat + 256 ≤ x.csr.scrsize.toNat
    let recd := fun (c : Code) (L : Nat) => leNat (s.scrRead x.gang (s.readV f.wave c.toNat L).toNat 256)
    let sent := fun (i : Instr) (dests : List Reg) (vals : List Nat) => Answers i s (fun t => ∃ o : Flight,
      PutFlight s t f o ∧ o.path = 4 ∧ o.op = i ∧ o.act = act ∧ o.lanesLeft = act ∧ o.accs = [] ∧ o.dests = dests ∧
        o.vals = vals)
    let first := BitVec.ofNat 64 (256 * Mask.lowest act)
    act ≠ 0 → x.counter 4 < 63 → x.flight = [] → (s.cluster x.cluster).copies = [] → canonical base = true →
    base.toNat % 64 = 0 →
    (vOkAl x d 4 4 = true → vOk x a 1 = true →
      (hOk b = true →
        let i := Instr.trace d a b mode log cullb logn stl
        let h := s.readH f.wave b.toNat
        let root := handleAddr h
        (handleType h ≠ 5 → Traps i s f 0x17 f.pc (first + 1)) ∧
        (handleType h = 5 → root.toNat % 128 ≠ 0 → Traps i s f 0x17 f.pc (first + 2)) ∧
        (handleType h = 5 → root.toNat % 128 = 0 → inside a → sent i (vRegs d 4)
          ([root.toNat, 0, base.toNat] ++
            (Mask.lanes act).flatMap (fun L => [(s.readV f.wave a.toNat L).toNat, recd a L, 3])))) ∧
      (vOk x b 1 = true → inside a →
        let i := Instr.tracec d a b logn stl
        let dec := fun L => (s.readV f.wave b.toNat L).toNat
        let held := fun L => (s.travAt x (s.readV f.wave a.toNat L).toNat).isSome = true
        let all := ∀ L, L < 64 → act.getLsbD L = true → held L
        (∀ L, L < 64 → act.getLsbD L = true → ¬ held L → (∀ j, j < L → act.getLsbD j = true → held j) →
          Traps i s f 0x17 f.pc (BitVec.ofNat 64 (3 + 256 * L))) ∧
        (all → ∀ L, L < 64 → act.getLsbD L = true → 2 < dec L → (∀ j, j < L → act.getLsbD j = true → dec j ≤ 2) →
          Traps i s f 0x17 f.pc (BitVec.ofNat 64 (4 + 256 * L))) ∧
        (all → (∀ L, L < 64 → act.getLsbD L = true → dec L ≤ 2) → sent i (vRegs d 4)
          ([0, 0, base.toNat] ++
            (Mask.lanes act).flatMap (fun L => [(s.readV f.wave a.toNat L).toNat, recd a L, dec L]))))) ∧
    (vOk x d 2 = true → vOk x a 2 = true → vOk x b 1 = true → inside b →
      let va := fun (c : Code) (L : Nat) => Dword.ofWords (s.readV f.wave c.toNat L) (s.readV f.wave (c.toNat + 1) L)
      (∀ L, L < 64 → act.getLsbD L = true → canonical (va a L) = true ∧ (va a L).toNat % 64 = 0 ∧
        canonical (va d L) = true ∧ (va d L).toNat % 64 = 0) →
      sent (.replay d a b full stl) [] ([0, 0, 0] ++
        (Mask.lanes act).flatMap (fun L => [(va a L).toNat, (va d L).toNat, recd b L]) ++
        (Mask.lanes act).map (fun L => (s.readV f.wave b.toNat L).toNat)))

/-- R312, R314, R316, R322: a query ends or suspends as its visits of the scene come out. A miss and a hit give their lane the
status word, PRIMID, INSTID and t in F32, and the record T, U, V, PRIMID, INSTID, LEAF and the status; a candidate gives its own to
the candidate's fields, and TRAV then holds the suspended query, as the model's own form (log 31). An invalid ray misses with BADRAY.
The visits themselves follow logs 33 and 34. -/
def Claims.RayQueriesEndAndSuspend : Prop :=
  ∀ (s : State) (w lane seed skip off rn dec : Nat) (a : Flight), s.nums = [w, 0, lane, seed, skip] → UnitWork s w lane a →
    a.path = 4 → a.traces = true → a.rayLane lane = (off, rn, dec) → s.badScratch = [] →
    let x := s.wave w
    let recd := leBytes 256 rn
    let q := a.laneStart lane seed
    let run := laneQuery s x.engSpace a.owned q recd (if dec < 3 then some dec else none) skip
    let d := match a.dests with
      | .v n :: _ => n
      | _ => 0
    let ended := fun (e : Instr) (ws : List Word) (at' : Nat) (bs : List Byte) (P : State → Prop) => Answers e s (fun t =>
      t = { s with waves := t.waves, gangs := t.gangs, travs := t.travs } ∧ LaneDone s t w lane a ∧ LaneWords s t w lane d ws ∧
      (∀ g, g ≠ x.gang → t.gang g = s.gang g) ∧ t.scrRead x.gang at' bs.length = bs ∧ P t)
    let fields := fun (h : Hit) => leBytes 8 h.t ++ leBytes 8 h.u ++ leBytes 8 h.v ++ leBytes 4 h.prim.toNat ++
      leBytes 4 h.inst.toNat ++ leBytes 8 h.leaf.toNat
    let words := fun (st : Nat) (h : Hit) => [BitVec.ofNat 32 st, h.prim, h.inst, BitVec.ofNat 32 (narrow h.t)]
    let same := fun (t : State) (lo hi : Nat) => ∀ o, o < lo ∨ hi ≤ o → t.scrRead x.gang o 1 = s.scrRead x.gang o 1
    let status := fun (kind : Nat) (r : Query) (h : Hit) => kind + (if h.front then 16 else 0) + (if h.surf then 32 else 0) +
      (if h.proc then 64 else 0) + (if r.noconv then 128 else 0) + (if kind = 1 then 256 * h.iter else 0) + 2 ^ 20 * r.mode
    (∀ r h, run = some (r, .hit h) → r.log = false →
      ended .rayQueryEnd (words (status 1 r h) h) (off + 0x70) (fields h ++ leBytes 4 (status 1 r h))
        (fun t => t.travs = s.travs ∧ same t (off + 0x70) (off + 0x9C))) ∧
    (∀ r bad, run = some (r, .miss bad) → r.log = false → (bad = true → r.noconv = false) →
      let st := (if r.noconv then 128 else 0) + (if bad then 8192 else 0) + 2 ^ 20 * r.mode
      ended .rayQueryEnd [BitVec.ofNat 32 st, 0xFFFFFFFF, 0xFFFFFFFF, 0x7F800000] (off + 0x98) (leBytes 4 st)
        (fun t => t.travs = s.travs ∧ t.scrRead x.gang (off + 0x70) 8 = leBytes 8 fmtF64.infImg ∧
          t.scrRead x.gang (off + 0x88) 8 = leBytes 8 (2 ^ 64 - 1) ∧ same t (off + 0x70) (off + 0x9C))) ∧
    (∀ r h, run = some (r, .candidate h) → r.mode < 3 →
      ended .rayQuerySuspend (words (status 2 r h) h) (off + 0x48) (fields h) (fun t =>
        t.scrRead x.gang (off + 0x98) 4 = leBytes 4 (status 2 r h) ∧ t.travAt x off = some r ∧
        ∀ o, o < off + 0x48 ∨ off + 0x100 ≤ o → t.scrRead x.gang o 1 = s.scrRead x.gang o 1)) ∧
    (3 ≤ dec → (rayOf recd).bad q.mode = true → run = some (q, .miss true)) ∧
    (∀ r h, run = some (r, .candidate h) → Answers .rayQueryEnd s (fun t => t = s)) ∧
    (∀ r h, run = some (r, .hit h) → Answers .rayQuerySuspend s (fun t => t = s))

/-- R325: REPLAY writes its lane's output record: STATUS 2 for a log of no hit, STATUS 1 for one that another kind of query
made (that mode 3, which no query has, counts as another kind is log 35), and otherwise what testing the logged primitive again
gives; every other byte of memory is as before. -/
def Claims.ReplayWritesItsRecord : Prop :=
  ∀ (s : State) (w lane logVa outVa rn pa : Nat) (a : Flight) (d c b : Code) (full : BitVec 1) (stl : Stall) (bs : List Byte),
    s.nums = [w, 0, lane] → UnitWork s w lane a → a.path = 4 → a.op = .replay d c b full stl → a.dests = [] →
    a.rayLane lane = (logVa, outVa, rn) → s.badScratch = [] →
    let x := s.wave w
    let found := s.replayLane x.engSpace a.owned (full = 1) (BitVec.ofNat 64 logVa) (rayOf (leBytes 256 rn))
    (found = .ok bs → bs ≠ [] → s.engPlaces x.engSpace .write (BitVec.ofNat 64 outVa) bs.length = .ok [(pa, bs.length)] →
      s.rayWriteWaits w a [(pa, bs.length)] = false →
      Answers .replayLaneEnd s (fun t => t = { s with waves := t.waves, mem := t.mem, badSectors := t.badSectors } ∧ LaneDone s t w lane a ∧
        (t.wave w).v = x.v ∧ t.readBytes pa bs.length = bs ∧
        ∀ p, p < pa ∨ pa + bs.length ≤ p → t.readByte p = s.readByte p)) ∧
    (∀ lg, s.rayRead x.engSpace a.owned (BitVec.ofNat 64 logVa) 64 = .ok lg →
      let st := fieldNat lg 0x0C 4
      (st % 16 ≠ 1 → found = .ok (leBytes 4 2)) ∧ (st % 16 = 1 → st / 2 ^ 20 % 4 = 3 → found = .ok (leBytes 4 1)))

/-- R317, R318, R321: an edge of a sheared triangle is the exact value rounded once, and its sign the exact value's, or on a
tie that of the rule; a triangle is met where its three signs agree; a surface is met where the point lies in its aperture, its
outer rim being its own where RIM is set. -/
def Claims.RayTestsAreExact : Prop :=
  (∀ (f : Fmt) (ew fw : Nat) (p q : Sheared), (f, ew, fw) ∈ [(fmtF32, 8, 23), (fmtF64, 11, 52)] →
    imgFinite ew fw p.1 → imgFinite ew fw p.2.1 → imgFinite ew fw q.1 → imgFinite ew fw q.2.1 →
    let u := imgUnits ew fw
    let X := u p.1 * u q.2.1 - u p.2.1 * u q.1
    let sign := fun (x : Int) => if 0 < x then 1 else if x < 0 then -1 else (0 : Int)
    (X ≠ 0 → edgeSign f p q = sign X ∧ ∃ fl, RoundsWith ew fw 0 false (2 ^ unitExp ew fw) X (edge f p q, fl)) ∧
    (X = 0 → edgeSign f p q = if u p.2.1 ≠ u q.2.1 then sign (u q.2.1 - u p.2.1) else sign (u q.1 - u p.1))) ∧
  (∀ (mode : Nat) (cullb : Bool) (r : RayRec) (vs : List Nat) (A B C : Sheared), mode < 3 → shear mode r vs = [A, B, C] →
    let f := modeFmt mode
    let su := edgeSign f B C
    let det := f.add (f.add (edge f B C) (edge f C A)) (edge f A B)
    let out := fun (x : Nat) => if mode = 2 then x else (cvtElem envRNE 4 5 x).1
    let same := su ≠ 0 ∧ edgeSign f C A = su ∧ edgeSign f A B = su
    (¬ same ∨ (cullb = true ∧ su = -1) ∨ det % f.signBit = 0 → triTest mode cullb false r vs = none) ∧
    (same → ¬ (cullb = true ∧ su = -1) → det % f.signBit ≠ 0 →
      let t := f.fma (edge f A B) C.2.2 (f.fma (edge f C A) B.2.2 (f.mul (edge f B C) A.2.2))
      triTest mode cullb false r vs =
        some (out (f.div t det), out (f.div (edge f C A) det), out (f.div (edge f A B) det), decide (su = 1)))) ∧
  (∀ (y : Surface) (r : RayRec) (t u v n : Nat), surfTest y true r = .hit t u v n →
    let p := fmtF64.fma u u (fmtF64.mul v v)
    let inner := fmtF64.mul y.rin y.rin
    let outer := fmtF64.mul y.rout y.rout
    imgFinite 11 52 p → imgFinite 11 52 inner → imgFinite 11 52 outer →
    let val := imgUnits 11 52
    surfTest y false r =
      if val inner ≤ val p ∧ (val p < val outer ∨ (val p = val outer ∧ y.rim = true)) then .hit t u v n else .miss)

/-- R319, R320: a surface test. One evaluation at t gives the values that the rule writes down, its sums taken from the highest term
down; t goes on by Newton's steps from −oz/dz; the test fails where a value is no number, h is negative, or sq or Fp is zero, or
where no step of ITERMAX is within TOL; and it hits after the first step within it. -/
def Claims.SurfacesAreSolved : Prop :=
  let f := fmtF64
  let one := f.int 1
  (∀ (y : Surface) (o d : List Nat) (t : Nat) (E Ed Q Qd : Nat → Nat),
    let v := surfEval y o d t
    let at' := fun (l : List Nat) (i : Nat) => f.fma t (d.getD i 0) (l.getD i 0)
    E y.neven = 0 → Ed y.neven = 0 → Q y.nodd = 0 → Qd y.nodd = 0 →
    (∀ j, j < y.neven → E j = f.fma (E (j + 1)) v.p (y.even.getD j 0) ∧
      Ed j = f.fma (Ed (j + 1)) v.p (f.mul (f.int ((j : Int) + 2)) (y.even.getD j 0))) →
    (∀ j, j < y.nodd → Q j = f.fma (Q (j + 1)) v.p (y.odd.getD j 0) ∧
      Qd j = f.fma (Qd (j + 1)) v.p (f.mul (f.mul (f.int (2 * (j : Int) + 3)) (y.odd.getD j 0)) 0x3FE0000000000000)) →
    let r := f.sqrt v.p
    let odd := fun (x : Nat) => if y.nodd = 0 then 0 else x
    v.x = at' o 0 ∧ v.y = at' o 1 ∧ v.z = at' o 2 ∧ v.p = f.fma v.x v.x (f.mul v.y v.y) ∧
    v.h = f.fma (f.neg (f.mul (f.add one y.k) (f.mul y.c y.c))) v.p one ∧ v.sq = f.sqrt v.h ∧
    v.F = f.sub v.z (f.add (f.add (f.div (f.mul y.c v.p) (f.add one v.sq)) (f.mul (f.mul (E 0) v.p) v.p))
      (odd (f.mul (f.mul (Q 0) v.p) r))) ∧
    v.G = f.add (f.add (f.div y.c (f.mul (f.int 2) v.sq)) (f.mul (Ed 0) v.p)) (odd (f.mul (Qd 0) r)) ∧
    v.Fp = f.fma (f.neg v.G) (f.mul (f.int 2) (f.fma v.x (d.getD 0 0) (f.mul v.y (d.getD 1 0)))) (d.getD 2 0)) ∧
  (∀ (y : Surface) (r : RayRec) (ts : Nat → Nat) (n : Nat),
    let m := fun (i j : Nat) => y.m.getD (4 * i + j) 0
    let o := (List.range 3).map (fun i => f.fma (m i 0) (r.o.getD 0 0) (f.fma (m i 1) (r.o.getD 1 0) (f.fma (m i 2) (r.o.getD 2 0) (m i 3))))
    let d := (List.range 3).map (fun i => f.fma (m i 0) (r.d.getD 0 0) (f.fma (m i 1) (r.d.getD 1 0) (f.mul (m i 2) (r.d.getD 2 0))))
    let v := fun (k : Nat) => surfEval y o d (ts k)
    let step := fun (k : Nat) => f.div (v k).F (v k).Fp
    let fails := fun (k : Nat) => f.lt (v k).h 0 = true ∨ f.abs (v k).sq = 0 ∨ f.abs (v k).Fp = 0 ∨ f.isNan (v k).F = true ∨
      f.isNan (v k).Fp = true
    let near := fun (k : Nat) => f.le (f.abs (step k)) y.tol = true
    ts 0 = f.div (f.neg (o.getD 2 0)) (d.getD 2 0) → (∀ k, ts (k + 1) = f.sub (ts k) (step k)) → 0 < y.itermax → y.itermax ≤ 16 →
    (f.abs (d.getD 2 0) = 0 → surfTest y true r = .miss) ∧
    (f.abs (d.getD 2 0) ≠ 0 → n < y.itermax → (∀ k, k < n → ¬ fails k ∧ ¬ near k) →
      (fails n → surfTest y true r = .fail) ∧
      (¬ fails n → near n → surfTest y true r =
        .hit (ts (n + 1)) (f.fma (ts (n + 1)) (d.getD 0 0) (o.getD 0 0)) (f.fma (ts (n + 1)) (d.getD 1 0) (o.getD 1 0)) (n + 1)) ∧
      (¬ fails n → n + 1 = y.itermax → f.lt y.tol (f.abs (step n)) = true → surfTest y true r = .fail)))

/-- R326: the output record of a replay that finds its hit again. That r is the square root of p where NODD is 0, and a sum of no
terms 0, is the model's reading (log 35). -/
def Claims.ReplaysDifferentiate : Prop :=
  ∀ (s : State) (sp : Space) (own : List Nat) (full : Bool) (logVa : Dword) (r : RayRec) (lg bs leaf : List Byte),
    let f := fmtF64
    s.rayRead sp own logVa 64 = .ok lg → s.replayLane sp own full logVa r = .ok bs → fieldNat bs 0 1 = 0 →
    let surf : Bool := fieldNat lg 0x0C 4 / 32 % 2 = 1
    s.rayRead sp own (BitVec.ofNat 64 (fieldNat lg 0x38 8)) (if surf then 320 else 48) = .ok leaf →
    let t := fieldNat lg 0x10 8
    let u := fieldNat lg 0x18 8
    let v := fieldNat lg 0x20 8
    let o := fun (i : Nat) => r.o.getD i 0
    let d := fun (i : Nat) => r.d.getD i 0
    let out := fun (at0 i : Nat) => fieldNat bs (at0 + 8 * i) 8
    let sum := fun (a b : Nat → Nat) => f.fma (a 2) (b 2) (f.fma (a 1) (b 1) (f.mul (a 0) (b 0)))
    let one := f.int 1
    let δ := fun (i j : Nat) => if i = j then one else 0
    fieldNat bs 0 8 = 0 ∧ bs.length = (if full then 576 else 112) ∧ out 8 0 = t ∧
    (∀ i, i < 3 → out 0x10 i = f.fma t (d i) (o i)) ∧
    (full = true → (∀ i j, i < 3 → j < 3 → out 0x180 (3 * i + j) = f.add (δ i j) (f.mul (d i) (out 0x40 j)) ∧
        out 0x1C8 (3 * i + j) = f.add (f.mul t (δ i j)) (f.mul (d i) (out 0x58 j))) ∧
      (∀ i, i < 3 → out 0x228 i = 0)) ∧
    (surf = false →
      let p := fun (k i : Nat) => cvtElem envRNE 4 5 (fieldNat leaf (12 * k + 4 * i) 4) |>.1
      let e := fun (k i : Nat) => f.sub (p k i) (p 0 i)
      let n := out 0x28
      let den := sum n d
      let corner := fun (k : Nat) => if k = 0 then f.sub (f.sub one u) v else if k = 1 then u else v
      (∀ i j k, (i, j, k) ∈ [(0, 1, 2), (1, 2, 0), (2, 0, 1)] → n i = f.sub (f.mul (e 1 j) (e 2 k)) (f.mul (e 1 k) (e 2 j))) ∧
      (∀ i, i < 3 → out 0x40 i = f.div (f.neg (n i)) den ∧ out 0x58 i = f.div (f.neg (f.mul t (n i))) den) ∧
      (full = true → (∀ k i, k < 3 → i < 3 → out 0x70 (3 * k + i) = f.div (f.mul (corner k) (n i)) den) ∧
        (∀ i, 9 ≤ i → i < 34 → out 0x70 i = 0) ∧ ∀ i, i < 3 → out 0x210 i = 0)) ∧
    (surf = true →
      let y := surfaceOf leaf
      let g := surfEval y (y.localRay r).1 (y.localRay r).2 t
      let m := fun (i j : Nat) => y.m.getD (4 * i + j) 0
      let two := f.mul (f.int 2) g.G
      let n := fun (i : Nat) => if i = 0 then f.neg (f.mul two g.x) else if i = 1 then f.neg (f.mul two g.y) else one
      let dF := fun (j : Nat) => sum n (fun i => m i j)
      let by' := fun (x : Nat) => f.div (f.neg x) g.Fp
      let kp := f.add one y.k
      let pp := f.mul g.p g.p
      let rest := f.add one g.sq
      let cc := f.mul y.c y.c
      let root := f.sqrt g.p
      let w := fun (j : Nat) => if j = 3 then one else f.fma t (d j) (o j)
      (∀ i, i < 3 → out 0x28 i = n i ∧ out 0x40 i = by' (dF i) ∧ out 0x58 i = f.div (f.neg (f.mul t (dF i))) g.Fp) ∧
      (full = true →
        out 0x70 0 = by' (f.neg (f.add (f.div g.p rest) (f.div (f.mul (f.mul kp cc) pp) (f.mul g.sq (f.mul rest rest))))) ∧
        out 0x70 1 = by' (f.div (f.neg (f.mul (f.mul cc y.c) pp)) (f.mul (f.mul (f.int 2) g.sq) (f.mul rest rest))) ∧
        (∀ (pw : Nat → Nat), pw 0 = g.p → (∀ j, pw (j + 1) = f.mul (pw j) g.p) → ∀ j, j < 10 →
          out 0x70 (2 + j) = by' (f.neg (pw (j + 1))) ∧ out 0x70 (12 + j) = by' (f.neg (f.mul (pw j) root))) ∧
        (∀ i j, i < 3 → j < 4 → out 0x70 (22 + 4 * i + j) = by' (f.mul (n i) (w j))) ∧
        (y.neven = 0 → y.nodd = 0 →
          let g' := f.add (f.add (f.div (f.mul kp (f.mul cc y.c)) (f.mul (f.int 4) (f.mul (f.mul g.sq g.sq) g.sq))) 0) (f.div 0 root)
          let dn := fun (a b : Nat) => f.mul (f.mul (f.int 4) (f.mul a b)) g'
          out 0x210 0 = f.sub (f.neg two) (dn g.x g.x) ∧ out 0x210 1 = f.neg (dn g.x g.y) ∧ out 0x210 2 = f.sub (f.neg two) (dn g.y g.y))))

/-- R316, R323, R324: with logging, a query that ends writes a record of 64 bytes at the log's place of its RAYID, with NNEAR and
MORE in its status: of a hit, the near candidates first in order; of a miss, none. A near candidate is another triangle or surface
whose relaxed test gives a t' of TMIN or more within 2^-20 × max(|t|, 1) of t. Which records a query comes to follows logs 33 and
34. -/
def Claims.QueriesLogTheirHits : Prop :=
  (∀ (s : State) (w lane seed skip off rn dec pa : Nat) (a : Flight), s.nums = [w, 0, lane, seed, skip] → UnitWork s w lane a →
    a.path = 4 → a.traces = true → a.rayLane lane = (off, rn, dec) → s.badScratch = [] →
    let x := s.wave w
    let recd := leBytes 256 rn
    let ray := rayOf recd
    let q := a.laneStart lane seed
    let run := laneQuery s x.engSpace a.owned q recd (if dec < 3 then some dec else none) skip
    s.engPlaces x.engSpace .write (BitVec.ofNat 64 (a.vals.getD 2 0 + 64 * ray.rayid)) 64 = .ok [(pa, 64)] →
    s.rayWriteWaits w a [(pa, 64)] = false →
    let d := match a.dests with
      | .v n :: _ => n
      | _ => 0
    let ended := fun (ws : List Word) (P : State → Prop) => Answers .rayQueryEnd s (fun t =>
      t = { s with waves := t.waves, gangs := t.gangs, mem := t.mem, badSectors := t.badSectors } ∧ LaneDone s t w lane a ∧
      LaneWords s t w lane d ws ∧ (∀ p, p < pa ∨ pa + 64 ≤ p → t.readByte p = s.readByte p) ∧ P t)
    (∀ r h near, run = some (r, .hit h) → r.log = true → r.nears s x.engSpace a.owned ray h = some (.ok near) →
      let st := 1 + (if h.front then 16 else 0) + (if h.surf then 32 else 0) + (if h.proc then 64 else 0) +
        (if r.noconv then 128 else 0) + 256 * h.iter + (if 4 < near.length then 2 ^ 15 else 0) + 2 ^ 16 * min near.length 4 +
        2 ^ 20 * r.mode
      let tuv := leBytes 8 h.t ++ leBytes 8 h.u ++ leBytes 8 h.v
      let ids := leBytes 4 h.prim.toNat ++ leBytes 4 h.inst.toNat
      ended [BitVec.ofNat 32 st, h.prim, h.inst, BitVec.ofNat 32 (narrow h.t)] (fun t =>
        t.scrRead x.gang (off + 0x70) 44 = tuv ++ ids ++ leBytes 8 h.leaf.toNat ++ leBytes 4 st ∧
        t.readBytes pa 64 = leBytes 4 ray.rayid ++ ids ++ leBytes 4 st ++ tuv ++
          (List.range 4).flatMap (fun i => leBytes 4 (match near[i]? with
            | some n => n.prim.toNat
            | none => 2 ^ 32 - 1)) ++ leBytes 8 h.leaf.toNat)) ∧
    (∀ r bad, run = some (r, .miss bad) → r.log = true → (bad = true → r.noconv = false) →
      let st := (if r.noconv then 128 else 0) + (if bad then 8192 else 0) + 2 ^ 20 * r.mode
      ended [BitVec.ofNat 32 st, 0xFFFFFFFF, 0xFFFFFFFF, 0x7F800000] (fun t =>
        t.readBytes pa 24 = leBytes 4 ray.rayid ++ leBytes 8 (2 ^ 64 - 1) ++ leBytes 4 st ++ leBytes 8 fmtF64.infImg ∧
        t.readBytes (pa + 0x28) 16 = List.replicate 16 255))) ∧
  (let val := imgUnits 11 52
   (∀ (s : State) (r : RayRec) (t t' : Nat), imgFinite 11 52 r.tmin → imgFinite 11 52 t → imgFinite 11 52 t' →
     (s.near r t t' = true ↔ val r.tmin ≤ val t' ∧ (val t' - val t).natAbs * 2 ^ 20 ≤ max (val t).natAbs (2 ^ 1074))) ∧
   (∀ (q : Query) (s : State) (sp : Space) (own : List Nat) (r : RayRec) (h : Hit) (kind : Nat) (va : Dword) (l : List Hit)
       (bs : List Byte), kind ∈ [1, 2, 3] →
     let gives := fun (l : List Hit) => q.addNear s sp own r h kind va l = .ok (false, l)
     let keeps := fun (n : Hit) => gives (if s.near r h.t n.t then insertHit n l else l)
     let id := fun (at' : Nat) => BitVec.ofNat 32 (fieldNat bs at' 4)
     (kind = 3 ∨ va = h.leaf → gives l) ∧
     (kind ≠ 3 → va ≠ h.leaf → s.rayRead sp own va (if kind = 2 then 320 else 48) = .ok bs → leafOk kind va bs = true →
       (kind = 1 → let test := triTest q.mode q.cullb true r (triVerts bs)
         (test = none → gives l) ∧
         (∀ t u v front, test = some (t, u, v, front) → keeps
           { leaf := va, t, u, v, prim := id 0x24, inst := id 0x28, surf := false, front, proc := false, iter := 0 })) ∧
       (kind = 2 → let test := surfTest (surfaceOf bs) true r
         (∀ t u v n, test = .hit t u v n → keeps
           { leaf := va, t, u, v, prim := id 0x12C, inst := id 0x130, surf := true, front := false, proc := false, iter := n }) ∧
         ((∀ t u v n, test ≠ .hit t u v n) → gives l)))) ∧
   (∀ (h : Hit) (l : List Hit), ∃ a b : List Hit, l = a ++ b ∧ insertHit h l = a ++ h :: b ∧ (∀ n ∈ a, h.before n = false) ∧
     ∀ n, b.head? = some n → h.before n = true) ∧
   (∀ (h n : Hit), imgFinite 11 52 h.t → imgFinite 11 52 n.t →
     (h.before n = true ↔ val h.t < val n.t ∨ (val h.t = val n.t ∧ (h.inst.toNat < n.inst.toNat ∨ (h.inst = n.inst ∧
       (h.prim.toNat < n.prim.toNat ∨ (h.prim = n.prim ∧ h.leaf.toNat < n.leaf.toNat))))))) ∧
   (∀ (q : Query) (r : RayRec) (h : Hit), imgFinite 11 52 r.tmin → imgFinite 11 52 r.tmax → imgFinite 11 52 h.t →
     (q.best = none → (q.passes r h = true ↔ val r.tmin ≤ val h.t ∧ val h.t ≤ val r.tmax)) ∧
     (∀ b, q.best = some b → imgFinite 11 52 b.t →
       (q.passes r h = true ↔ val r.tmin ≤ val h.t ∧ val h.t ≤ val b.t ∧ h.before b = true)))) ∧
  (∀ (mode ew fw : Nat) (cullb : Bool) (r : RayRec) (vs : List Nat) (A B C : Sheared),
    (mode, ew, fw) ∈ [(0, 8, 23), (1, 8, 23), (2, 11, 52)] → shear mode r vs = [A, B, C] →
    let f := modeFmt mode
    let edges := [(edgeSign f B C, edge f B C), (edgeSign f C A, edge f C A), (edgeSign f A B, edge f A B)]
    let det := f.add (f.add (edge f B C) (edge f C A)) (edge f A B)
    let out := fun (x : Nat) => if mode = 2 then x else (cvtElem envRNE 4 5 x).1
    let slight := fun (x : Nat) => (imgUnits ew fw x).natAbs * 2 ^ 20 ≤ (imgUnits ew fw det).natAbs
    ∀ m, 2 ≤ edges.countP (fun e => e.1 = m) → (∀ e ∈ edges, e.1 ≠ 0 ∧ imgFinite ew fw e.2) → imgFinite ew fw det →
    let test := triTest mode cullb true r vs
    let t := f.fma (edge f A B) C.2.2 (f.fma (edge f C A) B.2.2 (f.mul (edge f B C) A.2.2))
    (imgUnits ew fw det ≠ 0 → ¬ (cullb = true ∧ edgeSign f B C = -1) → (∀ e ∈ edges, e.1 = m ∨ slight e.2) →
      test = some (out (f.div t det), out (f.div (edge f C A) det), out (f.div (edge f A B) det), decide (m = 1))) ∧
    (imgUnits ew fw det = 0 ∨ (cullb = true ∧ edgeSign f B C = -1) ∨ (∃ e ∈ edges, e.1 ≠ m ∧ ¬ slight e.2) → test = none))

/-- How queries end, suspend and are logged, the tests of triangles and surfaces, and what REPLAY writes. -/
def Obligations.RaysComplete : Prop :=
  Claims.RayQueriesEndAndSuspend ∧
  Claims.ReplayWritesItsRecord ∧
  Claims.RayTestsAreExact ∧
  Claims.SurfacesAreSolved ∧
  Claims.ReplaysDifferentiate ∧
  Claims.QueriesLogTheirHits

/-- R333, R334, R339 to R342: PRIMEMIT, once the wave's earlier accesses to the draw record are made (R142), puts one primitive for
each ACTIVE lane in the stores of the sections that its box touches; PIXLOCK and PIXUNLOCK send one operation of the interlock and
PIXEXP one to the blend units, in pixel waves only; ATTR reads the three vertices' words of each attribute. That the blend units own
a PIXEXP's lines from its issue, or as soon as nothing else holds one of them, is log 37. -/
def Claims.GraphicsInstructionsIssue : Prop :=
  ∀ (s : State) (f : Focus) (d a b : Code) (first : BitVec 5) (count : BitVec 3) (mode k cull : BitVec 2)
    (basen : BitVec 4) (stride : BitVec 6) (target zw : BitVec 1) (stl : Stall) (lit : Option Word), s.quiet f = true →
    let x := s.wave f.wave
    let g := s.gang x.gang
    let act := s.active f.wave f.split
    let live := s.live f.wave f.split
    (vOkAl x a 16 16 = true → pairSrcOk false b = true →
      let i := Instr.primemit a b cull stl lit
      let va := s.readPair f.wave f.split lit b
      (x.isPixel = true → Traps i s f 0x14 f.pc 50) ∧
      (x.isPixel = false → act = 0 → Answers i s (fun t => Goes s t f f.next)) ∧
      (∀ pa, act ≠ 0 → x.isPixel = false → checkVa s (s.space f.wave) .read 128 va = .ok pa → s.badSectors = [] →
        s.lineOwned (pa / 128) = false → s.mayLoad f.wave f pa 128 = true →
        (drawOk (s.readBytes pa 128) = false → Traps i s f 0x14 f.pc 51) ∧
        (drawOk (s.readBytes pa 128) = true → (∀ sec, sec < 8 → (s.raster sec).store.length ≤ 3968) →
          Answers i s (fun t => t = { s with
              rasters := t.rasters, waves := t.waves, ports := t.ports, lastIssue := t.lastIssue } ∧
            (∀ w, w ≠ f.wave → t.wave w = s.wave w) ∧ ((t.wave f.wave).split f.split).pc = f.next ∧
            (t.wave f.wave).v = x.v ∧ (t.wave f.wave).s = x.s ∧
            ∃ ps : List Prim, ps.map (fun p => (p.lane, p.verts, p.primid, p.idx)) = (Mask.lanes act).map (fun L =>
                let v := fun i => s.readV f.wave (a.toNat + i) L
                (L, (List.range 12).map v, v 12, [v 13, v 14, v 15])) ∧
              (∀ p ∈ ps, p.task = g.task ∧ p.gidx = g.gidx ∧ p.widx = x.idx ∧ p.count = x.seq ∧
                p.draw = s.readBytes pa 128 ∧ p.drawVa = va ∧ p.cull = cull.toNat ∧ p.asid = x.csr.asid) ∧
              ∀ sec, t.raster sec = if sec < 8 then { s.raster sec with
                store := (s.raster sec).store ++ ps.filter (fun p => p.sections.contains sec) } else s.raster sec)))) ∧
    (let pix := fun (i : Instr) (holds : Bool) =>
       (x.isPixel = false → Traps i s f 0x14 f.pc 49) ∧
       (x.isPixel = true → (holds = true → x.record.ordered = true) → act = 0 → Answers i s (fun t => Goes s t f f.next)) ∧
       (x.isPixel = true → (holds = true → x.record.ordered = true) → (holds = false → x.hopsFull = false) → act ≠ 0 →
         Answers i s (fun t => PutHop s t f (hopOf f stl i 0 live 0 [] holds)))
     pix (.pixlock stl) true ∧ pix (.pixunlock stl) false ∧
     (x.isPixel = true → x.record.ordered = false → Traps (.pixlock stl) s f 0x14 f.pc 48)) ∧
    (vOkAl x a (if zw = 1 then 8 else 4) (if zw = 1 then 8 else 4) = true →
      let i := Instr.pixexp a target zw stl
      (x.isPixel = false → Traps i s f 0x14 f.pc 49) ∧
      (x.isPixel = true → live = 0 → Answers i s (fun t => Goes s t f f.next)) ∧
      (x.isPixel = true → live ≠ 0 → x.counter 1 < 63 → (s.cluster x.cluster).copies = [] → (∀ b ∈ x.flight, b.seq < x.seq) →
        Answers i s (fun t => ∃ o : Flight,
        PutFlight s t f o ∧ (o.owns = true ↔ o.lines ≠ [] ∧ ∀ l ∈ o.lines, s.ownedFor true l = false ∧ x.earlierOn x.seq l = false) ∧
        (∀ q0 r, x.quads = q0 :: r → ∀ l, l ∈ o.lines ↔ ∃ L q e pa, L < 64 ∧ live.getLsbD L = true ∧ x.laneQuad L = some q ∧
          e ∈ q.exportVas (q.prim.record.target target) (L % 4) ∧
          checkVa s (s.rasterSpace (sectionOf x.cluster) q0.prim) .write 1 e.1 = .ok pa ∧ l = pa / 128) ∧ o.path = 1 ∧ o.op = i ∧ o.act = live ∧ o.lanesLeft = live ∧ o.accs = [] ∧ o.dests = [] ∧
          o.vals = (Mask.lanes live).flatMap (fun L => (List.range 5).map (fun j =>
            if j < 4 ∨ zw = 1 then (s.readV f.wave (a.toNat + j) L).toNat else 0))))) ∧
    (let n := count.toNat + 1
     let base := s.readBase f.wave basen
     let word := fun (L c i : Nat) => base + BitVec.ofNat 64
       (4 * (stride.toNat * (s.readV f.wave (a.toNat + i) L).toNat + first.toNat + c))
     vOkAl x d n (pow2From n 4 1) = true → vOkAl x a 4 4 = true → vOk x b 2 = true → x.counter 0 < 63 → act ≠ 0 →
     ∀ pa : Nat → Nat → Nat → Nat, (∀ L, L < 64 → act.getLsbD L = true → ∀ c, c < n → ∀ i, i < 3 →
       checkVa s (s.space f.wave) .read 4 (word L c i) = .ok (pa L c i)) →
     Answers (.attr d a b first count mode k basen stride stl) s (fun t => ∃ o : Flight, PutFlight s t f o ∧ o.path = 0 ∧
       o.kind = .attr ∧ o.scratch = false ∧ o.dests = vRegs d n ∧ o.act = act ∧
       o.accs.map Acc.loads = (Mask.lanes act).flatMap (fun L => (List.range n).flatMap (fun c =>
         (List.range 3).map (fun i => (L, pa L c i, 4, d.toNat + c)))) ∧
       o.vals.take (2 + 2 * Mask.count act) = [mode.toNat, k.toNat] ++ (Mask.lanes act).flatMap (fun L =>
         [(s.readV f.wave b.toNat L).toNat, (s.readV f.wave (b.toNat + 1) L).toNat])))

/-- R340: the three words of an attribute give its lane, in mode VERTEX, that of the vertex K, and in mode INTERP
v × (a2 − a0) + (u × (a1 − a0) + a0), each step rounded RNE. -/
def Claims.AttributesAreInterpolated : Prop :=
  ∀ (s : State) (w L r mode k u v : Nat) (c : Nat → Acc) (a : Flight), s.nums = [w, 0, 0] → Alone s w a → a.kind = .attr →
    a.scratch = false → a.path = 0 → a.act = Mask.one L → L < 64 → k < 3 → a.accs = [c 0, c 1, c 2] →
    (∀ i, i < 3 → (c i).lane = L ∧ (c i).reg = r ∧ (c i).size = 4 ∧ (c i).target = 4 + i) →
    a.vals = [mode, k, u, v, 0, 0, 0] →
    let word := fun i => s.readNat (c i).pa 4
    let sub := fun x y => (fSub fmtF32 envRNE x y).1
    let fma := fun x y z => (fFma fmtF32 envRNE false x y z).1
    Answers .loadReturn s (fun t => Completed s t w a ∧ t = { s with waves := t.waves } ∧ (t.wave w).s = (s.wave w).s ∧
      LaneWords s t w L r [BitVec.ofNat 32 (if mode = 1 then
        fma v (sub (word 2) (word 0)) (fma u (sub (word 1) (word 0)) (word 0)) else word k)])

/-- What PRIMEMIT, PIXLOCK, PIXUNLOCK, PIXEXP and ATTR do at issue, and what ATTR writes. -/
def Obligations.GraphicsInstructionsIssue : Prop :=
  Claims.GraphicsInstructionsIssue ∧ Claims.AttributesAreInterpolated

/-- R335 to R339, R344: a raster engine takes the next primitive of a task and puts its covered quads, those that pass an early
depth test, among the waiting ones; a saved engine takes none; and a pixel wave is launched with the quads that are
gathered, four lanes each. A save keeps the primitives whose quads wait, and what a batch is of several streams is the model's
reading (logs 43, 68). -/
def Claims.PrimitivesBecomePixelWaves : Prop :=
  (∀ (s : State) (sec i : Nat), s.nums = [sec, i] → sec < 8 →
    let r := s.raster sec
    let only := fun (t : State) => t = { s with rasters := t.rasters } ∧ ∀ n, n ≠ sec → t.raster n = s.raster n
    let inside := ∃ b ∈ r.batch, (∃ p ∈ r.store, p.task = b.1 ∧ p.gidx = b.2.1) ∨
      ∃ e ∈ s.gangs, e.2.streamOpen = true ∧ e.2.task = b.1 ∧ e.2.gidx = b.2.1
    (r.saved = false → ¬ inside → Answers .rasterEngineSave s (fun t => only t ∧
      t.raster sec = { r with saved := true, waiting := [], again := (t.raster sec).again } ∧
      ∀ p n, (p, n) ∈ (t.raster sec).again ↔ ∃ q ∈ r.waiting, q.prim = p ∧ q.ord = n)) ∧
    (inside → Answers .rasterEngineSave s (fun t => t = s)) ∧
    (r.saved = true → Answers .rasterBatchResume s (fun t => only t ∧
      t.raster sec = { r with saved := false, again := [], waiting := r.again.flatMap (fun e => r.quadsAgain sec e.1 e.2) })) ∧
    (∀ (p : Prim) (n : Nat) (q : Quad), q ∈ r.quadsAgain sec p n → q.prim = p ∧ q.ord = n ∧ q.cover ≠ 0 ∧
      (∃ g, p.setup = some g ∧ ∃ c, (q.x, q.y, c) ∈ g.quads p.record sec) ∧
      ∃ c ∈ r.cov, c.task = p.task ∧ c.ord = n ∧ c.wave = none ∧ c.px / 2 = q.x / 2 ∧ c.py / 2 = q.y / 2) ∧
    (r.saved = true → Answers .primitiveRasterise s (fun t => t = s)) ∧
    (∀ p, r.saved = false → choose (r.store.filter (s.takeable r)) i = some p →
      let d := p.record
      let taken := { r with store := r.store.erase p, ord := r.ord + 1, batch := r.batchStep p }
      (∀ n, r.batch = [(p.task, p.gidx, n)] → r.batchStep p = if n + 1 = 64 then [] else [(p.task, p.gidx, n + 1)]) ∧
      (p.setup = none → Answers .primitiveRasterise s (fun t => only t ∧ t.raster sec = taken)) ∧
      (∀ g, p.setup = some g → d.earlyz = false ∨ d.zfunc = 0 →
        let qs := (g.quads d sec).map (fun q => ({ prim := p, ord := r.ord + 1, x := q.1, y := q.2.1, cover := q.2.2 } : Quad))
        Answers .primitiveRasterise s (fun t => only t ∧ t.raster sec = { taken with
          waiting := r.waiting ++ qs, cov := r.cov ++ qs.flatMap (fun q => q.covs (d.zfunc ≠ 0)) })) ∧
      (∀ g x y j smp pa, p.setup = some g → d.earlyz = true → d.zfunc ≠ 0 → j < 4 → smp < 8 →
        g.quads d sec = [(x, y, 2 ^ (8 * j + smp))] → r.cov = [] →
        s.touchSample (s.rasterSpace sec p) d.zAccess 4 (d.sampleVa d.zbase 4 smp (x + j % 2) (y + j / 2)) = .at pa →
        let z := g.depth p (x + j % 2) (y + j / 2) ((samplePos d.samples).getD smp (8, 8))
        let pass := depthPasses d.zfunc z (s.readNat pa 4)
        Answers .primitiveRasterise s (fun t =>
          (t.raster sec).waiting = r.waiting ++ (if pass then [{ prim := p, ord := r.ord + 1, x, y, cover := 2 ^ (8 * j + smp) }] else []) ∧
          (t.raster sec).store = taken.store ∧ t.waves = s.waves ∧
          ∀ o, t.readByte o = if pass = true ∧ d.zwrite = true ∧ pa ≤ o ∧ o < pa + 4
            then (leBytes 4 z).getD (o - pa) 0 else s.readByte o)))) ∧
  (∀ (s v : State) (sec n c : Nat) (q : Quad) (rest : List Quad) (x : LaunchCtx) (seat : Nat × Nat) (area : Dword),
    s.nums = [sec, n, c] → sec < 8 → c < 8 →
    let u := s.sweep
    let r := u.raster sec
    let cl := 8 * sec + c
    let k := u.task q.prim.task
    let d := q.prim.record
    gather (if n = 0 then 16 else min 16 n) [] r.waiting = q :: rest → r.saved = false → u.ctx k.ctx = some x →
    u.worldFits cl x = true → u.seatsOn cl 1 d.vregs = some [seat] → u.popAreas x 1 = some ([area], v) →
    Answers .pixelWaveLaunch s (fun t =>
      let w := u.orders + 1
      let y := t.wave w
      (∀ j, j ≠ w → t.wave j = u.wave j) ∧ t.mem = v.mem ∧ t.orders = w ∧ (t.gang w).live = true ∧
      (t.gang w).cluster = cl ∧ (t.gang w).waves = 1 ∧ (t.gang w).task = q.prim.task ∧
      (t.raster sec).waiting = r.waiting.drop (rest.length + 1) ∧
      y.life = .resident ∧ y.isPixel = true ∧ y.quads = q :: rest ∧ y.blocks = d.vregs ∧ (y.core, y.slot) = seat ∧
      (y.split 0).pc = d.entry ∧ (y.split 0).state = 1 ∧ y.csr.savearea = area ∧
      (∀ L, L < 64 → ((y.split 0).exec.getLsbD L = true ↔ L < 4 * (rest.length + 1))) ∧
      mapGet 0 y.s 0 = Dword.lo d.args ∧ mapGet 0 y.s 1 = Dword.hi d.args ∧ mapGet 0 y.s 2 = Dword.lo d.attrbase ∧
      mapGet 0 y.s 3 = Dword.hi d.attrbase ∧ mapGet 0 y.p 0 = y.liveLanes ∧
      (∀ k j q' g, (q :: rest)[k]? = some q' → q'.prim.setup = some g → k < 16 → j < 4 →
        let v := fun (r : Nat) => t.vReg w r (4 * k + j)
        let (px, py) := q'.pixel j
        v 0 = BitVec.ofNat 32 (g.bary q'.prim 1 px py) ∧ v 1 = BitVec.ofNat 32 (g.bary q'.prim 2 px py) ∧
        v 2 = BitVec.ofNat 32 (px + 2 ^ 16 * py) ∧ v 3 = BitVec.ofNat 32 (g.depth q'.prim px py (8, 8)) ∧
        v 4 = BitVec.ofNat 32 (q'.cover / 2 ^ (8 * j) % 256 + (if g.front then 256 else 0)) ∧ v 5 = q'.prim.primid ∧
        (∀ i, i < 3 → v (8 + i) = q'.prim.idx.getD i 0) ∧ v 6 = 0 ∧ v 7 = 0 ∧ v 11 = 0)))

/-- R336, R337: coordinates are snapped to 1/256 pixel, a tie to the even place; a primitive is discarded for a coordinate that is
no number, an RW that is not positive, a place out of range, no area, or its facing; a sample is covered where every edge function,
negated for a negative area, is positive, or zero on a top-left edge; and u, v and depth are exact quotients rounded once, a depth
then clamped. The edges of a negated primitive run from j to i (log 82). -/
def Claims.PrimitivesCoverSamples : Prop :=
  (∀ x : Word, (¬ imgFinite 8 23 x.toNat → snap x = none) ∧ (imgFinite 8 23 x.toNat → ∃ k : Int,
    let off := (imgUnits 8 23 x.toNat * 256 - k * 2 ^ 149).natAbs
    2 * off ≤ 2 ^ 149 ∧ (2 * off = 2 ^ 149 → k % 2 = 0) ∧ snap x = if -2 ^ 22 < k ∧ k < 2 ^ 22 then some k else none)) ∧
  (∀ (p : Prim) (X Y : Nat → Int),
    let fin := fun (k c : Nat) => imgFinite 8 23 (p.vert k c).toNat
    let val := fun (k c : Nat) => imgUnits 8 23 (p.vert k c).toNat
    ((∃ k c, k < 3 ∧ c < 4 ∧ ¬ fin k c) ∨ (∃ k, k < 3 ∧ val k 3 ≤ 0) ∨ (∃ k c, k < 3 ∧ c < 2 ∧ snap (p.vert k c) = none) →
      p.setup = none) ∧
    ((∀ k c, k < 3 → c < 4 → fin k c) → (∀ k, k < 3 → 0 < val k 3) →
      (∀ k, k < 3 → snap (p.vert k 0) = some (X k) ∧ snap (p.vert k 1) = some (Y k)) →
      let e := fun (i j : Nat) (px py : Int) => (X j - X i) * (py - Y i) - (Y j - Y i) * (px - X i)
      let area := e 0 1 (X 2) (Y 2)
      (area = 0 ∨ (p.cull = 1 ∧ area < 0) ∨ (p.cull = 2 ∧ 0 < area) → p.setup = none) ∧
      (area ≠ 0 → ¬ (p.cull = 1 ∧ area < 0) → ¬ (p.cull = 2 ∧ 0 < area) → ∃ g, p.setup = some g ∧
        (g.front = true ↔ 0 < area) ∧
        (∀ x y sx sy : Nat,
          let px : Int := 256 * x + 16 * sx
          let py : Int := 256 * y + 16 * sy
          let within := fun (i j : Nat) => 0 < e i j px py ∨ (e i j px py = 0 ∧ (Y j < Y i ∨ (Y j = Y i ∧ X i < X j)))
          let inside := fun (i j : Nat) => if area < 0 then within j i else within i j
          let lam := fun (k : Nat) => if k = 0 then e 1 2 px py else if k = 1 then e 2 0 px py else e 0 1 px py
          let depth := lam 0 * val 0 2 + lam 1 * val 1 2 + lam 2 * val 2 2
          (g.covers x y (sx, sy) = true ↔ inside 1 2 ∧ inside 2 0 ∧ inside 0 1) ∧
          (depth = 0 → g.depth p x y (sx, sy) = 0) ∧
          (depth ≠ 0 → ∃ z fl, RoundsWith 8 23 0 false area.natAbs (if area < 0 then -depth else depth) (z, fl) ∧
            g.depth p x y (sx, sy) = if 2 ^ 31 ≤ z then 0 else min z 0x3F800000) ∧
          (sx = 8 → sy = 8 → ∀ k, k ∈ [1, 2] →
            let num := lam k * val k 3
            let den := lam 0 * val 0 3 + lam 1 * val 1 3 + lam 2 * val 2 3
            (num = 0 ∨ den = 0 → g.bary p k x y = 0) ∧
            (num ≠ 0 → den ≠ 0 → ∃ fl, RoundsWith 8 23 0 false den.natAbs ((if den < 0 then -num else num) * 2 ^ 149)
              (g.bary p k x y, fl)))) ∧
        (∀ (d : Draw) (sec x y c : Nat), (x, y, c) ∈ g.quads d sec ↔ x % 2 = 0 ∧ y % 2 = 0 ∧ c ≠ 0 ∧ c < 2 ^ 32 ∧
          (x / 64 + 3 * (y / 64)) % 8 = sec ∧ ∀ i j, i < 8 → j < 4 → (c.testBit (8 * j + i) = true ↔
            x + j % 2 < d.width ∧ y + j / 2 < d.height ∧
            ∃ pos, (samplePos d.samples)[i]? = some pos ∧ g.covers (x + j % 2) (y + j / 2) pos = true))))) ∧
  samplePos 0 = [(8, 8)] ∧ samplePos 1 = [(4, 12), (12, 4)] ∧ samplePos 2 = [(2, 6), (10, 2), (6, 14), (14, 10)] ∧
  samplePos 3 = [(1, 9), (3, 3), (5, 13), (7, 7), (9, 1), (11, 11), (13, 5), (15, 15)]

/-- Setting up and rasterising a primitive, and launching a pixel wave. -/
def Obligations.PrimitivesBecomePixelWaves : Prop :=
  Claims.PrimitivesBecomePixelWaves ∧ Claims.PrimitivesCoverSamples

/-- R341: the interlock lets a lane in once every lane of an earlier primitive that covers one of its samples has executed PIXUNLOCK
or belongs to an ended wave, and PIXUNLOCK releases it. -/
def Claims.TheInterlockOrdersPixels : Prop :=
  ∀ (s : State) (w : Nat) (h : HomeOp) (stl : Stall), AtHome s w h →
    let x := s.wave w
    (h.op = .pixlock stl →
      let ended := fun (c : LaneCov) => match c.wave with
        | some v => (s.wave v).isOver = true
        | none => False
      let blocked := ∃ L, L < 64 ∧ (h.act &&& ~~~ x.locked).getLsbD L = true ∧ ∃ q c i, x.quads[L / 4]? = some q ∧
        c ∈ (s.raster (sectionOf x.cluster)).cov ∧ c.task = q.prim.task ∧ c.ord < q.ord ∧
        (c.px, c.py) = (q.x + L % 2, q.y + L % 4 / 2) ∧ i < 8 ∧ c.samples.testBit i = true ∧
        q.cover.testBit (8 * (L % 4) + i) = true ∧ c.unlocked = false ∧ ¬ ended c
      (¬ blocked → Answers .pixlockGrant s (fun t => t = { s with waves := t.waves } ∧ Answered s t w h ∧
        (t.wave w).locked = x.locked ||| h.act)) ∧
      (blocked → Answers .pixlockGrant s (fun t => t = { s with waves := t.waves } ∧ (∀ v, v ≠ w → t.wave v = s.wave v) ∧
        t.wave w = { x with hops := [{ h with reached := true, binds := h.binds.or (some (s.bindingsNow h)) }] }))) ∧
    (h.op = .pixunlock stl → Answers .pixlockGrant s (fun t => t = { s with waves := t.waves, rasters := t.rasters } ∧
      (∀ v, v ≠ w → t.wave v = s.wave v) ∧ t.wave w = { x with hops := [], locked := x.locked &&& ~~~ h.act } ∧
      ∀ c ∈ (s.raster (sectionOf x.cluster)).cov, (c.wave ≠ some w → c ∈ (t.raster (sectionOf x.cluster)).cov) ∧
        ∀ L q, c.wave = some w → L < 64 → (h.act &&& x.locked).getLsbD L = true → x.quads[L / 4]? = some q →
          c.task = q.prim.task → c.ord = q.ord → (c.px, c.py) = (q.x + L % 2, q.y + L % 4 / 2) →
          { c with unlocked := true } ∈ (t.raster (sectionOf x.cluster)).cov))

/-- R338, R342: the export of a lane's one covered sample blends its colour with the target's: replaced in mode 0, otherwise as the
mode says, each channel in the target's format; of a late draw the depth is tested first, and written with the colour where it passes
and ZWRITE is set; nothing else in memory changes, and a line that the export did not own is shared no more. -/
def Claims.ExportsBlend : Prop :=
  ∀ (s : State) (w L i smp pa pz : Nat) (a : Flight) (c : Code) (target zw : BitVec 1) (stl : Stall) (q : Quad) (g : Setup),
    s.nums = [w, i] → UnitWork s w L a → a.path = 1 → a.op = .pixexp c target zw stl →
    (Mask.lanes a.lanesLeft)[i]? = some L → (s.wave w).laneQuad L = some q → q.prim.setup = some g →
    let x := s.wave w
    let d := q.prim.record
    let t0 := d.target target
    let sec := sectionOf x.cluster
    let sp := s.rasterSpace sec q.prim
    let (px, py) := q.pixel (L % 4)
    let n := targetBpp t0.fmt
    let src := (a.vals.drop (5 * ((Mask.lanes a.act).filter (fun M => decide (M < L))).length)).take 5
    let late := d.earlyz = false ∧ d.zfunc ≠ 0
    let vz := d.sampleVa d.zbase 4 smp px py
    let vc := d.sampleVa t0.base n smp px py
    let z := if zw = 1 then el src 4 else g.depth q.prim px py ((samplePos d.samples).getD smp (8, 8))
    let pass := late → depthPasses d.zfunc z (s.readNat pz 4) = true
    let writes := late ∧ d.zwrite = true ∧ pass
    let ofSrc := fun (ch : Nat) => let old := loadChannel t0.fmt (s.readBytes pa n) ch
      if t0.mode = 0 then (if fmtF32.isNan (el src ch) then fmtF32.nanImg else el src ch)
      else if t0.mode = 1 then fmtF32.fma (minImg fmtF32 (maxImg fmtF32 (el src 3) 0) 0x3F800000) (fmtF32.sub (el src ch) old) old
      else fmtF32.add (el src ch) old
    q.samples (L % 4) = [smp] → (s.raster sec).cov = [] → t0.fmt ≠ 0 → t0.fmt ≤ 4 →
    s.touchSample sp t0.access n vc = .at pa →
    (late → s.touchSample sp d.zAccess 4 vz = .at pz ∧ (pz + 4 ≤ pa ∨ pa + n ≤ pz) ∧
      (s.writeMem pz (leBytes 4 z)).touchSample sp t0.access n vc = .at pa) →
    (∀ p, p = pa ∨ (late ∧ p = pz) → s.rayWriteWaits w a [(p, 1)] = false) →
    Answers .blendExport s (fun t =>
      t = { s with waves := t.waves, mem := t.mem, badSectors := t.badSectors, clusters := t.clusters } ∧
      LaneDone s t w L a ∧ (t.wave w).v = x.v ∧
      (pass → ∀ ch, ch < (if t0.fmt = 3 then 1 else 4) →
        let m := n / (if t0.fmt = 3 then 1 else 4)
        t.readBytes (pa + m * ch) m = storeChannel t0.fmt (ofSrc ch)) ∧
      (writes → t.readBytes pz 4 = leBytes 4 z) ∧
      (∀ p, (pass → p < pa ∨ pa + n ≤ p) → (writes → p < pz ∨ pz + 4 ≤ p) → t.readByte p = s.readByte p) ∧
      ∀ k l, mapGet [] (t.cluster k).copies l =
        if k = x.cluster ∧ (l = pa / 128 ∨ (late ∧ l = pz / 128)) ∧ l ∉ a.lines then [] else mapGet [] (s.cluster k).copies l)

/-- R342: a channel of a target as F32: n / 255 rounded, F16 exactly, or F32 itself; and stored: limited to 0 to 1, times 255 and
rounded, a tie to even, a NaN as 0; as VCVT to F16 with RNE and SAT = 1; or as it is. The arithmetic is that of the vector
classes, RNE. -/
def Claims.SamplesHaveTheirFormats : Prop :=
  (∀ (bs : List Byte) (c : Nat),
    let n := fieldNat bs c 1
    (n = 0 → loadChannel 1 bs c = 0) ∧ (n ≠ 0 → RoundsTo 8 23 0 255 (n * 2 ^ 149) (loadChannel 1 bs c)) ∧
    loadChannel 2 bs c = (cvtElem envRNE 6 4 (fieldNat bs (2 * c) 2)).1 ∧ loadChannel 3 bs 0 = fieldNat bs 0 4 ∧
    loadChannel 4 bs c = fieldNat bs (4 * c) 4) ∧
  (∀ r, r < 2 ^ 32 →
    let X := max 0 (min (imgUnits 8 23 r) (2 ^ 149))
    (imgFinite 8 23 r → ∃ n : Nat, storeChannel 1 r = [BitVec.ofNat 8 n] ∧ n < 256 ∧
      let off := (X * 255 - n * 2 ^ 149).natAbs
      2 * off ≤ 2 ^ 149 ∧ (2 * off = 2 ^ 149 → n % 2 = 0)) ∧
    (imgNan 8 23 r → storeChannel 1 r = [0]) ∧ storeChannel 1 (infOf 8 23) = [255] ∧ storeChannel 1 (2 ^ 31 + infOf 8 23) = [0] ∧
    storeChannel 2 r = leBytes 2 (cvtElem { rm := 0, sat := true, ftz := false } 4 6 r).1 ∧
    ∀ f ∈ [3, 4], storeChannel f r = leBytes 4 r) ∧
  (∀ (f : Fmt) (t x y z : Nat), (f, t) ∈ [(fmtF32, 4), (fmtF64, 5)] →
    f.add x y = (addElem envRNE t x y 0).1 ∧ f.sub x y = (subElem envRNE t x y 0).1 ∧ f.mul x y = (mulElem envRNE t x y 0).1 ∧
    f.fma x y z = (fmaElem envRNE t x y z).1 ∧ (imgNan 8 23 x → f = fmtF32 → x < 2 ^ 32 → f.isNan x = true) ∧
    minImg f x y = (pickElem false envRNE t x y 0).1 ∧ maxImg f x y = (pickElem true envRNE t x y 0).1)

/-- The grant and release of the interlock, and the blend of an export. -/
def Obligations.PixelsAreOrderedAndBlended : Prop :=
  Claims.TheInterlockOrdersPixels ∧ Claims.ExportsBlend ∧ Claims.SamplesHaveTheirFormats

/-- R345, R346, R348: FETCH sends its lanes' coordinates to the fetch unit, with the table of its handle, or CSR FETCHTAB for
NULL, a handle of type 0; a handle of another type than FETCHTAB traps. The unit reads by accesses of the wave, at most 8 bytes
each, and what it reads stays with the operation. A descriptor that is not valid gives zeros, an element outside a tile zero; the
results land as FET falls; and a fetch that fails writes nothing and leaves its trap to come, while one without its page waits. That
the descriptor is read alone first, with the flag more while further reads may follow, is log 64. -/
def Claims.FetchesComplete : Prop :=
  (∀ (s : State) (f : Focus) (d a b : Code) (lod : BitVec 2) (stl : Stall), s.quiet f = true →
    let x := s.wave f.wave
    let act := s.active f.wave f.split
    let h := s.readH f.wave b.toNat
    let i := Instr.fetch d a b lod stl
    vOkAl x d 4 4 = true → vOkAl x a 4 4 = true → hOk b = true →
    (handleType h ≠ 0 → handleType h ≠ 7 → Traps i s f 0x14 f.pc 52) ∧
    (handleType h = 0 ∨ handleType h = 7 →
      (act = 0 → Answers i s (fun t => Goes s t f f.next)) ∧
      (act ≠ 0 → x.counter 3 < 63 → Answers i s (fun t => ∃ o : Flight, PutFlight s t f o ∧ o.path = 3 ∧
        o.op = i ∧ o.act = act ∧ o.lanesLeft = act ∧ o.accs = [] ∧ o.got = [] ∧ o.more = true ∧ o.dests = vRegs d 4 ∧
        o.vals = (if handleType h = 0 then x.csr.fetchtab else handleAddr h).toNat :: (List.range 64).flatMap (fun L =>
          (List.range 4).map (fun j => (s.readV f.wave (a.toNat + j) L).toNat)))))) ∧
  (∀ (s : State) (w L : Nat) (a : Flight), s.nums = [w, 0] → UnitWork s w L a → a.path = 3 → a.kind = .fetch →
    a.scratch = false → a.act = Mask.one L → a.lanesLeft = Mask.one L → a.page = none → a.refused = false → a.begun = false →
    s.badScratch = [] →
    let x := s.wave w
    let found := s.fetchLane a L
    let desc := BitVec.ofNat 64 (a.vals.getD 0 0) + BitVec.ofNat 64 (32 * (a.fetchArg L 3 % 65536))
    let only := fun (t : State) => t = { s with waves := t.waves, nums := t.nums } ∧ (∀ v, v ≠ w → t.wave v = s.wave v) ∧
      (t.wave w).v = x.v ∧ (t.wave w).s = x.s
    let failed := fun (cause : Nat) (va : Nat) (t : State) => only t ∧ (t.wave w).flight = [] ∧
      (t.wave w).counter 3 = x.counter 3 - 1 ∧ (t.wave w).uncs = x.uncs ++
        [{ path := 3, regs := a.dests, cause, arg := BitVec.ofNat 64 (va % 2 ^ 55 + 2 ^ 61 * 3), later := 0 }]
    let withOp := fun (b : Flight) => { s with waves := mapSet Wave.none s.waves w { x with flight := [b] } }
    (∀ ws d ds, found = .ok ws → a.dests = .v d :: ds → Answers .fetchComplete s (fun t => t = { s with waves := t.waves } ∧
      LaneDone s t w L a ∧ LaneWords s t w L d (ws.map (BitVec.ofNat 32)) ∧ (t.wave w).s = x.s)) ∧
    (∀ pa : Nat → Nat, a.gotBytes desc 32 = none → desc.toNat % 8 = 0 → desc.toNat + 32 ≤ 2 ^ 64 →
      (∀ k, k < 4 → checkVa s x.engSpace .read 1 (desc + BitVec.ofNat 64 (8 * k)) = .ok (pa k)) →
      Answers .fetchComplete { s with nums := [w, 0, 0] } (fun t => only t ∧ ∃ cs : List Acc,
        (t.wave w).flight = [{ a with accs := cs, more := true }] ∧
        cs.map (fun c => (c.va, c.pa, c.size)) = (List.range 4).map (fun k => (desc.toNat + 8 * k, pa k, 8)))) ∧
    (∀ c : Acc, c.fixed = false → a.shadow = [] → s.badSectors = [] → (s.cluster x.cluster).copies = [] → s.lineOwned (c.pa / 128) = false →
      c.va + c.size ≤ 2 ^ 64 →
      Answers .fetchComplete { withOp { a with accs := [c] } with nums := [w, 0, 0] } (fun t => only t ∧ ∃ b : Flight,
        (t.wave w).flight = [b] ∧ b = { a with got := b.got } ∧
        b.gotBytes (BitVec.ofNat 64 c.va) c.size = some (s.readBytes c.pa c.size))) ∧
    (∀ bs, a.gotBytes desc 32 = some bs →
      (fetchDescOk bs = false → found = .ok [0, 0, 0, 0]) ∧
      (∀ hb, fetchDescOk bs = true → (fetchDesc bs).kind = 2 → a.gotBytes (fetchDesc bs).base 64 = some hb →
        ((tileHead hb).ok = false → found = .ok [0, 0, 0, 0]) ∧
        ((tileHead hb).ok = true → (tileHead hb).rows ≤ a.fetchArg L 0 ∨ (tileHead hb).cols ≤ a.fetchArg L 1 →
          found = .ok [0]))) ∧
    (∀ rs more e, found = .error (.need rs more) → s.fetchNext w rs = .error e →
      (e.cause ≠ 6 → Answers .fetchFault s (failed e.cause e.va.toNat)) ∧
      (e.cause = 6 → s.hasMerge (sectionOf x.cluster) x.csr.asid (pageOf e.va) = false →
        s.mergeFull (sectionOf x.cluster) = false → Answers .fetchFault s (fun t =>
          (t.wave w).v = x.v ∧ (t.wave w).flight = [{ a with page := some (pageOf e.va, e.va) }] ∧
          t.merges = s.merges ++ [{ sec := sectionOf x.cluster, asid := x.csr.asid, page := pageOf e.va }] ∧
          ∃ r, t.faults = s.faults ++ [r] ∧ r.va = e.va ∧ r.asid = x.csr.asid ∧ r.pages = [pageOf e.va]))) ∧
    (∀ page va, Answers .fetchFault (withOp { a with page := some (page, va), refused := true }) (failed 6 va.toNat)) ∧
    (∀ c va, s.flightBad w { a with accs := [c] } = some va →
      Answers .fetchFault (withOp { a with accs := [c] }) (failed 8 va)))

/-- R347: what a texture's filter computes: the whole part and the 8-bit fraction of a coordinate, the wrapped texel index, the
weights of four texels, and each channel's exact weighted mean, rounded once. -/
def Claims.TexturesAreFiltered : Prop :=
  (∀ x : Nat, imgFinite 8 23 x → floorF32 x = some (imgUnits 8 23 x / 2 ^ 149) ∧
    fracF32 x = some (imgUnits 8 23 x % 2 ^ 149 * 256 / 2 ^ 149).toNat) ∧
  (∀ (n : Nat) (i : Int), 0 < n →
    (∀ m, wrapIndex 0 n i = some m → m < n ∧ (i - m) % n = 0) ∧
    (wrapIndex 1 n i = some (if i < 0 then 0 else if (n : Int) ≤ i then n - 1 else i.toNat)) ∧
    (∀ m, wrapIndex 2 n i = some m → m < n ∧ ((i - m) % (2 * n) = 0 ∨ (i + m + 1) % (2 * n) = 0)) ∧
    wrapIndex 3 n i = (if 0 ≤ i ∧ i < n then some i.toNat else none) ∧ (wrapIndex 0 n i).isSome ∧ (wrapIndex 2 n i).isSome) ∧
  (∀ (d : FetchDesc) (m u v w i j a b : Nat), d.lin = true →
    let wm := levelSize d.width m
    let hm := levelSize d.height m
    let x := fmtF32.fma u (fmtF32.int wm) 0xBF000000
    let y := fmtF32.fma v (fmtF32.int hm) 0xBF000000
    floorF32 x = some (i : Int) → fracF32 x = some a → floorF32 y = some (j : Int) → fracF32 y = some b → i + 1 < wm →
    j + 1 < hm →
    d.taps m u v w = some [(w * (256 - a) * (256 - b), m, some (i, j)), (w * a * (256 - b), m, some (i + 1, j)),
      (w * (256 - a) * b, m, some (i, j + 1)), (w * a * b, m, some (i + 1, j + 1))]) ∧
  (∀ (taps : List (Nat × Nat)), (∀ e ∈ taps, imgFinite 8 23 e.2) →
    let total := (taps.map Prod.fst).sum
    let X := (taps.map (fun e => (e.1 : Int) * imgUnits 8 23 e.2)).sum
    total ≠ 0 → (X ≠ 0 → RoundsTo 8 23 0 total X (meanOf taps)) ∧ (X = 0 → meanOf taps = 0))

/-- FETCH at issue, its reads, its filter, its results, and its failures. -/
def Obligations.FetchesComplete : Prop :=
  Claims.FetchesComplete ∧ Claims.TexturesAreFiltered

/-- R358 to R360, R366: NLGRID, NLINS, NLPAIRS and NLSTAT check their handle, and NLPAIRS its slots, and give the engine one
command with what they captured; CPY rises with the first three, and those with an sd hold their split. -/
def Obligations.NeighbourInstructionsAreSent : Prop :=
  ∀ (s : State) (f : Focus) (d a b : Code) (op mode : BitVec 2) (ring : BitVec 4) (full : BitVec 1) (skip : BitVec 7)
    (slots : BitVec 12) (stl : Stall) (lit : Option Word), s.quiet f = true → hOk a = true →
    let x := s.wave f.wave
    let h := s.readH f.wave a.toNat
    let va := handleAddr h
    let act := s.active f.wave f.split
    let head := [f.next.toNat, stl.toNat]
    let sends := fun (i : Instr) (waits : Bool) (m : Mask) (vals : List Nat) => Answers i s (fun t => ∃ c : NlCmd,
      PutNl s t f c waits ∧ c.wave = f.wave ∧ c.split = f.split ∧ c.op = i ∧ c.act = m ∧ c.grid = va ∧
        c.vals = head ++ vals ∧ c.arrived = false ∧ c.turned = false ∧ c.asid = x.csr.asid ∧ c.sec = sectionOf x.cluster)
    let checked := fun (i : Instr) =>
      (handleType h ≠ 6 → Traps i s f 0x16 f.pc 1) ∧
      (handleType h = 6 → va.toNat % 128 ≠ 0 → Traps i s f 0x16 f.pc 2)
    let sound := handleType h = 6 ∧ va.toNat % 128 = 0
    let room := x.counter 6 < 63
    (dstOk d = true → checked (.nlgrid d a op stl) ∧ checked (.nlstat d a stl) ∧
      (sound → sends (.nlstat d a stl) true 0 []) ∧ (sound → room → sends (.nlgrid d a op stl) true 0 [])) ∧
    (vOkAl x d 3 4 = true → vOk x b 1 = true → act ≠ 0 → checked (.nlins d a b mode stl) ∧
      (sound → room → sends (.nlins d a b mode stl) false act ((Mask.lanes act).flatMap (fun L =>
        (s.readV f.wave b.toNat L).toNat :: (List.range 3).map (fun i => (s.readV f.wave (d.toNat + i) L).toNat))))) ∧
    (dstOk d = true → pairSrcOk false b = true → (skip.toNat < 96 ∨ skip = 127) →
      let i := Instr.nlpairs d a b ring full skip slots stl lit
      let r := s.readH f.wave ring.toNat
      let first := (s.readPair f.wave f.split lit b).toNat
      checked i ∧
      (∀ pa, sound → handleType r = 2 → (handleAddr r).toNat % 128 = 0 →
        checkVa s (s.space f.wave) .readWrite 1 (handleAddr r) = .ok pa → (s.ringHead pa).ok = true →
        let q := s.ringHead pa
        ((first < q.rel ∨ q.resv < first + slots.toNat + 1) → Traps i s f 0x16 f.pc 3) ∧
        (q.rel ≤ first → first + slots.toNat + 1 ≤ q.resv → q.slotLog < 5 → Traps i s f 0x16 f.pc 4) ∧
        (q.rel ≤ first → first + slots.toNat + 1 ≤ q.resv → 5 ≤ q.slotLog → room → sends i true 0
          [pa, first, if skip = 127 then 0 else (s.readS f.wave skip.toNat).toNat])))

/-- R359, R361, R362, R366, R367: a command that arrives takes its place and CPY falls; at its turn sd gets the status that the grid
record gives: for NLGRID 0, or 1, 2 or 3 for a record that is not valid, a cut-off too large, and a REBIN of what was not
built; for NLPAIRS 0 to 6; for NLSTAT the record's STATUS. -/
def Claims.NeighbourCommandsTakeTheirTurn : Prop :=
  ∀ (s : State) (c : NlCmd), OnlyNl s c →
    (c.arrived = false → (s.wave c.wave).cpys = (if nlCounted c = true then [(c.seq, false)] else []) →
      Answers .nlCommandArrive s (fun t => t = { s with nl := t.nl, clusters := t.clusters, waves := t.waves } ∧
      t.nl = [{ c with arrived := true, areas := s.nlDests c }] ∧ (∀ v, v ≠ c.wave → t.wave v = s.wave v) ∧
      t.wave c.wave = { s.wave c.wave with counters := (t.wave c.wave).counters, cpys := [] } ∧
      ∀ p, (t.wave c.wave).counter p = (s.wave c.wave).counter p - (if p = 6 ∧ nlCounted c = true then 1 else 0))) ∧
    (∀ (d a b : Code) (op mode : BitVec 2) (ring : BitVec 4) (full : BitVec 1) (skip : BitVec 7) (slots : BitVec 12)
        (stl : Stall) (lit : Option Word) (acc : Access) (pa : Nat),
      c.arrived = true → c.turned = false → c.page = none → c.refused = false →
      (acc = if c.op = .nlstat d a stl then .read else .readWrite) → checkVa s (s.nlSpace c) acc 128 c.grid = .ok pa →
      (s.wave c.wave).life = .resident → (s.wave c.wave).died = false → (s.wave c.wave).nextPend = none → (s.wave c.wave).ra = none →
      c.split < (s.wave c.wave).splits.length → ((s.wave c.wave).split c.split).wait = .home → d.toNat < 96 →
      let head := s.asRead.readBytes pa 128
      let g := gridOf head
      let turned := { c with turned := true, pa, head, areas := distinct (c.areas ++ s.nlDests c) }
      (∀ _ : c.op = .nlgrid d a op stl,
        let st := if g.valid = false then 1 else if g.cutBad then 2 else if op = 1 ∧ g.built = false then 3 else 0
        Answers .nlCommandTurn s (fun t => NlAnswered s t c d (BitVec.ofNat 32 st) ∧
          (st = 0 → t.nl = [{ turned with status := 0 }]) ∧ (st ≠ 0 → t.nl = []) ∧
          (st = 0 ∨ op = 1 → t.mem = s.mem) ∧
          (st ≠ 0 → op = 0 → t.readNat (pa + 4) 4 = g.status % 2 ^ 31) ∧
          ∀ p, p < pa + 4 ∨ pa + 8 ≤ p → t.readByte p = s.readByte p)) ∧
      (∀ _ : c.op = .nlpairs d a b ring full skip slots stl lit,
        let st := if g.valid = false ∨ g.cutBad = true then 6 else if g.built = false then 4
          else if g.status.testBit 4 then 3 else if g.status.testBit 0 then 1 else if g.status.testBit 1 then 2 else 0
        Answers .nlCommandTurn s (fun t => NlAnswered s t c d (BitVec.ofNat 32 st) ∧ t.mem = s.mem ∧
          (st = 0 ∨ st = 2 → t.nl = [{ turned with status := st }]) ∧ (st ≠ 0 → st ≠ 2 → t.nl = []))) ∧
      (∀ _ : c.op = .nlstat d a stl,
        Answers .nlCommandTurn s (fun t => NlAnswered s t c d (BitVec.ofNat 32 g.status) ∧ t.mem = s.mem ∧ t.nl = [])) ∧
      (∀ _ : c.op = .nlins d a b mode stl,
        Answers .nlCommandTurn s (fun t => t = { s with nl := [{ turned with status := 0 }], clusters := t.clusters } ∧
          ((∀ p ∈ s.nlDests c, p ∈ c.areas) → t.clusters = s.clusters) ∧
          ∀ l, (∃ p ∈ s.nlDests c, p ∉ c.areas ∧ lineIn [p] l = true) →
            mapGet [] (t.cluster c.cluster).copies l = [])))

/-- R361 to R366, R368: the end of a command that nothing stops. A BUILD leaves STATUS BUILT alone, nothing in overflow, no
lost particle and the engine's section as HOME; an insertion of a particle out of range, or into a grid that is not built or not
valid, only raises STATUS bit 3; a pair stream that is empty leaves SEEN 0 and ENDCODE 0. The command is then over. -/
def Claims.NeighbourCommandsEnd : Prop :=
  ∀ (s : State) (c : NlCmd) (d a b : Code) (op mode : BitVec 2) (ring : BitVec 4) (full : BitVec 1) (skip : BitVec 7)
    (slots : BitVec 12) (stl : Stall) (lit : Option Word), OnlyNl s c → c.arrived = true → c.turned = true →
    let g := gridOf c.head
    let sp := s.nlSpace c
    let start : NlRun := { s, status := g.status, ovfUsed := g.ovfUsed, lostMin := g.lostMin, err := none }
    let field := fun (t : State) (o n : Nat) => t.readNat (c.pa + o) n
    (c.op = .nlgrid d a op stl → (op = 0 ∨ op = 1) →
      let r := start.grid sp g (op = 1)
      r.err = none → Answers .nlCommandEnd s (fun t =>
        t = { s with mem := t.mem, badSectors := t.badSectors, view := t.view, nl := [] } ∧
        field t 4 4 = r.status % 2 ^ 32 ∧ (op = 0 → r.status = 2 ^ 31) ∧ field t 0x44 4 = r.ovfUsed % 2 ^ 32 ∧
        field t 0x48 4 = r.lostMin % 2 ^ 32 ∧ (op = 0 → r.ovfUsed = 0 ∧ r.lostMin = 0xFFFFFFFF) ∧
        (op = 0 → field t 14 1 = c.sec % 256) ∧
        ∀ p, p < c.pa ∨ c.pa + 128 ≤ p → t.readByte p = r.s.readByte p)) ∧
    (∀ p x y z, c.op = .nlins d a b mode stl → c.vals.drop 2 = [p, x, y, z] →
      (g.built = false ∨ g.valid = false ∨ g.cutBad = true ∨ g.npart ≤ p) → g.status < 2 ^ 32 → Answers .nlCommandEnd s (fun t =>
        t = { s with mem := t.mem, badSectors := t.badSectors, nl := [] } ∧ field t 4 4 = Nat.lor g.status 8 ∧
        ∀ q, q < c.pa ∨ c.pa + 128 ≤ q → t.readByte q = s.readByte q)) ∧
    (let ring0 := s.ringHead (c.val 0)
     let u := ((((s.writeMem (c.pa + 4) (leBytes 4 g.status)).writeMem (c.pa + 0x44) (leBytes 4 g.ovfUsed)).writeMem
       (c.pa + 0x48) (leBytes 4 g.lostMin)).writeMem (c.pa + 0x4C) (leBytes 4 0)).writeMem (c.pa + 0x60) (leBytes 1 0)
     ∀ q, c.op = .nlpairs d a b ring full skip slots stl lit → slots = 0 → (∀ p, p < g.npart → s.particle sp g p = .ok none) →
       (c.val 0 + 128 ≤ c.pa ∨ c.pa + 128 ≤ c.val 0) → touchSlot u sp .write 4 (ring0.stat (c.val 1)) = .at q →
       (q + 4 ≤ c.pa ∨ c.pa + 128 ≤ q) → (q + 4 ≤ c.val 0 ∨ c.val 0 + 128 ≤ q) →
       Answers .nlCommandEnd s (fun t => t = { s with mem := t.mem, badSectors := t.badSectors, nl := [] } ∧
         field t 4 4 = g.status % 2 ^ 32 ∧ field t 0x4C 4 = 0 ∧ field t 0x60 1 = 0 ∧ t.readNat q 4 = 2 ^ 31))

/-- R356, R363, R364: an NLINS of a particle in range, where the arrays' places are apart. It writes POS; an absent particle is binned:
into its cell, into the overflow area of a full one, or lost where that is full too; a present one keeps its cell, and makes the grid
STALE where it has moved too far; an UPDATE of an absent one raises BADIN. -/
def Claims.ParticlesAreBinned : Prop :=
  ∀ (s : State) (c : NlCmd) (d a b : Code) (mode : BitVec 2) (stl : Stall) (p x y z : Nat) (pl : Dword → Nat), OnlyNl s c →
    s.view = none → c.arrived = true → c.turned = true → c.op = .nlins d a b mode stl → c.vals.drop 2 = [p, x, y, z] →
    let g := gridOf c.head
    let sp := s.nlSpace c
    let wrapped := [g.wrap 0 x, g.wrap 1 y, g.wrap 2 z]
    let cell := g.cellOf wrapped
    let count := s.readNat (pl (g.cellVa cell)) 4
    let slot := g.cellVa cell + BitVec.ofNat 64 (4 * (count + 1))
    let spare := g.ovfVa g.ovfUsed
    let spots := [(g.posVa p, 16), (g.dispVa p, 12), (g.dispVa p + 12, 4), (g.cellVa cell, 4)] ++
      (if count < g.cap then [(slot, 4)] else if g.ovfUsed < g.ovfCap then [(spare, 8)] else [])
    g.built = true → g.valid = true → g.cutBad = false → p < g.npart → (∀ v ∈ [x, y, z], imgFinite 8 23 v) →
    (∀ t : State, t = { s with mem := t.mem, badSectors := t.badSectors } → ∀ e ∈ spots, ∀ acc ∈ [Access.read, .write],
      t.engPlaces sp acc e.1 e.2 = .ok [(pl e.1, e.2)]) →
    ((c.pa, 128) :: spots.map (fun e => (pl e.1, e.2))).Pairwise (fun u v => u.1 + u.2 ≤ v.1 ∨ v.1 + v.2 ≤ u.1) →
    let absent := s.readNat (pl (g.dispVa p + 12)) 4 = 2 ^ 32 - 1
    let after := fun (status used lost : Nat) (writes : List (Dword × List Byte)) => Answers .nlCommandEnd s (fun t =>
      t = { s with mem := t.mem, badSectors := t.badSectors, nl := [] } ∧ t.readNat (c.pa + 4) 4 = status ∧
      t.readNat (c.pa + 0x44) 4 = used ∧ t.readNat (c.pa + 0x48) 4 = lost ∧
      (∀ e ∈ writes, t.readBytes (pl e.1) e.2.length = e.2) ∧
      ∀ q, q < c.pa ∨ c.pa + 128 ≤ q → (∀ e ∈ writes, q < pl e.1 ∨ pl e.1 + e.2.length ≤ q) → t.readByte q = s.readByte q)
    let bytes := wrapped.flatMap (leBytes 4)
    let moved := (g.posVa p, bytes ++ leBytes 4 0)
    let binned := fun (word : Nat) => [moved, (g.dispVa p, bytes), (g.dispVa p + 12, leBytes 4 word)]
    let with' := Nat.lor g.status
    (absent → mode = 1 → after (with' 8) g.ovfUsed g.lostMin []) ∧
    (absent → mode ≠ 1 →
      (count < g.cap → after g.status g.ovfUsed g.lostMin
        (binned cell ++ [(slot, leBytes 4 p), (g.cellVa cell, leBytes 4 (count + 1))])) ∧
      (g.cap ≤ count → g.ovfUsed < g.ovfCap →
        after (with' 4) (g.ovfUsed + 1) g.lostMin (binned cell ++ [(spare, leBytes 4 cell ++ leBytes 4 p)])) ∧
      (g.cap ≤ count → g.ovfCap ≤ g.ovfUsed → after (with' 2) g.ovfUsed (min g.lostMin p) (binned (2 ^ 32 - 2)))) ∧
    (¬ absent →
      let old := (List.range 3).map (fun i => s.readNat (pl (g.dispVa p) + 4 * i) 4)
      after (if fmtF32.lt g.h2 (dist2 (g.between wrapped old)) then with' 1 else g.status) g.ovfUsed g.lostMin [moved])

/-- R356, R357: the geometry of a grid: wrap, the cell of a position, the least image, distances, and where the arrays' elements
lie. -/
def Claims.GridsHaveTheirGeometry : Prop :=
  ∀ (g : Grid) (a x n len : Nat), a < 3 → g.n.getD a 0 = n → 0 < n → g.len.getD a 0 = len → imgFinite 8 23 len →
    let val := imgUnits 8 23
    0 < val len →
    (g.periodic a = false → g.wrap a x = x) ∧
    (imgFinite 8 23 x →
      (g.periodic a = true → (val x % val len = 0 → g.wrap a x = 0) ∧
        (val x % val len ≠ 0 → ∃ w fl, RoundsWith 8 23 0 false 1 (val x % val len) (w, fl) ∧
          g.wrap a x = if w = len then 0 else w)) ∧
      ((g.cellAx a x : Nat) : Int) = min ((n : Int) - 1) (max 0 (val x * n / val len))) ∧
    (∀ b a0 : Nat, let d := fmtF32.sub b a0
      (g.periodic a = false → g.mi a b a0 = d) ∧
      (g.periodic a = true → imgFinite 8 23 d →
        g.mi a b a0 = if val len < 2 * val d then fmtF32.sub d len else if 2 * val d < -val len then fmtF32.add d len else d)) ∧
    (∀ i j : List Nat, let e := fun (k : Nat) => g.mi k (j.getD k 0) (i.getD k 0)
      g.between j i = [e 0, e 1, e 2] ∧
      dist2 [e 0, e 1, e 2] = fmtF32.fma (e 2) (e 2) (fmtF32.fma (e 1) (e 1) (fmtF32.mul (e 0) (e 0)))) ∧
    g.rc2 = fmtF32.mul g.rc g.rc ∧
    (imgFinite 8 23 g.skin → (val g.skin = 0 → g.h2 = 0) ∧
      (val g.skin ≠ 0 → ∃ fl, RoundsWith 8 23 0 false (2 ^ 151) (val g.skin ^ 2) (g.h2, fl))) ∧
    (∀ w, g.cellOf w = g.cellAx 0 (w.getD 0 0) + g.n.getD 0 0 * (g.cellAx 1 (w.getD 1 0) + g.n.getD 1 0 * g.cellAx 2 (w.getD 2 0))) ∧
    (∀ k, g.cellVa k = g.cells + BitVec.ofNat 64 (64 * ((4 * (g.cap + 1) + 63) / 64) * k) ∧
      g.ovfVa k = g.ovf + BitVec.ofNat 64 (8 * k) ∧ g.dispVa k = g.disp + BitVec.ofNat 64 (16 * k) ∧
      g.posVa k = g.pos + BitVec.ofNat 64 (16 * k))

/-- R365, R366: the stream of a grid's particles holds each pair within the cut-off once, or both ways, in order; it is written from
position SKIP on until it ends, the slots are full, or the first pair with a lost member stands next; and the slots and the record
then say how far it came. -/
def Claims.PairsAreStreamed : Prop :=
  (∀ (g : Grid) (full : Bool) (n : Nat) (at' : Nat → Option (List Nat × Bool)),
    let st := g.stream full ((List.range n).map (fun p => (p, .ok (at' p))))
    (∀ q : NlPair, .ok q ∈ st ↔ q.i < n ∧ q.j < n ∧ q.i ≠ q.j ∧ (full = true ∨ q.i < q.j) ∧ ∃ x y, at' q.i = some x ∧
      at' q.j = some y ∧ q.d = g.between y.1 x.1 ∧ q.d2 = dist2 q.d ∧ q.lost = (x.2 || y.2) ∧ fmtF32.le q.d2 g.rc2 = true) ∧
    (∀ e ∈ st, ∃ q, e = .ok q) ∧
    ∀ (k m : Nat) (q r : NlPair), st[k]? = some (.ok q) → st[m]? = some (.ok r) → k < m → q.i < r.i ∨ (q.i = r.i ∧ q.j < r.j)) ∧
  (∀ (r t : NlRun) (sp : Space) (o : NlOut) (qs : List NlPair) (m code : Nat), r.err = none →
    r.emit sp o (qs.map .ok) 0 0 false = (t, m, code) → t.err = none →
    let cut := fun (k : Nat) => (∃ q, qs[k]? = some q ∧ q.lost = true) ∧ ∀ j q, j < k → qs[j]? = some q → q.lost = false
    let room := o.slots * o.perSlot
    m ≤ room ∧ (∀ i, i < m → o.skip + i < qs.length ∧ ¬ cut (o.skip + i)) ∧
    (m = room ∨ qs.length ≤ o.skip + m ∨ cut (o.skip + m)) ∧
    code = (if qs.length ≤ o.skip + m then 0 else if m < room then 2 else 1) ∧
    t = (List.range m).foldl (fun r i => r.put sp (o.ring.slot (o.first + i / o.perSlot) +
      BitVec.ofNat 64 (32 * (i % o.perSlot))) (match qs[o.skip + i]? with
        | some q => leBytes 4 q.i ++ leBytes 4 q.j ++ posBytes q.d ++ leBytes 4 q.d2 ++ List.replicate 8 0
        | none => [])) r) ∧
  (∀ (r : NlRun) (sp : Space) (va : Dword) (bs : List Byte) (pa : Nat), r.err = none → r.s.badSectors = [] → r.s.view = none →
    r.s.engPlaces sp .write va bs.length = .ok [(pa, bs.length)] → r.put sp va bs = { r with s := r.s.writeMem pa bs }) ∧
  (∀ (s : State) (c : NlCmd) (d a b : Code) (ring : BitVec 4) (full : BitVec 1) (skip : BitVec 7) (slots : BitVec 12)
      (stl : Stall) (lit : Option Word) (t : NlRun) (m code q : Nat), OnlyNl s c → c.arrived = true → c.turned = true →
    let g := gridOf c.head
    let sp := s.nlSpace c
    let start : NlRun := { s, status := g.status, ovfUsed := g.ovfUsed, lostMin := g.lostMin, err := none }
    let o := s.nlOut c
    c.op = .nlpairs d a b ring full skip slots stl lit → slots = 0 → start.pairs o sp g (full = 1) = (t, m, code) → t.err = none →
    let u := ((((t.s.writeMem (c.pa + 4) (leBytes 4 t.status)).writeMem (c.pa + 0x44) (leBytes 4 t.ovfUsed)).writeMem
      (c.pa + 0x48) (leBytes 4 t.lostMin)).writeMem (c.pa + 0x4C) (leBytes 4 m)).writeMem (c.pa + 0x60) (leBytes 1 code)
    u.readBytes (c.val 0) 128 = s.readBytes (c.val 0) 128 → (c.val 0 + 128 ≤ c.pa ∨ c.pa + 128 ≤ c.val 0) →
    touchSlot u sp .write 4 ((s.ringHead (c.val 0)).stat (c.val 1)) = .at q → (q + 4 ≤ c.pa ∨ c.pa + 128 ≤ q) →
    (q + 4 ≤ c.val 0 ∨ c.val 0 + 128 ≤ q) →
    Answers .nlCommandEnd s (fun e => e.nl = [] ∧ e.waves = s.waves ∧ e.readNat (c.pa + 0x4C) 4 = m % 2 ^ 32 ∧
      e.readNat (c.pa + 0x60) 1 = code % 256 ∧ e.readNat q 4 = 2 ^ 31 + (if code = 2 then 2 ^ 30 + 0x16 * 2 ^ 24 else 0) + min o.perSlot m % 2 ^ 24))

/-- R368: at its turn a command whose record's page does not translate asks for it and waits; where firmware refuses the page, or the
record may not be used, sd gets 5, or for NLSTAT 2^30 with the cause, and nothing else changes. -/
def Claims.UnreadableGridsAreRefused : Prop :=
  ∀ (s : State) (c : NlCmd) (d a b : Code) (op mode : BitVec 2) (ring : BitVec 4) (full : BitVec 1) (skip : BitVec 7)
    (slots : BitVec 12) (stl : Stall) (lit : Option Word) (acc : Access), OnlyNl s c → c.arrived = true → c.turned = false →
    c.page = none → (acc = if c.op = .nlstat d a stl then .read else .readWrite) →
    let x := s.wave c.wave
    let sp := s.nlSpace c
    let check := checkVa s sp acc 128 c.grid
    x.life = .resident → x.died = false → x.nextPend = none → x.ra = none → c.split < x.splits.length →
    (x.split c.split).wait = .home → d.toNat < 96 →
    (∀ cause, (c.refused = true ∧ cause = 6) ∨ (c.refused = false ∧ check = .trap cause) →
      (∀ v, (c.op = .nlgrid d a op stl ∨ c.op = .nlpairs d a b ring full skip slots stl lit) ∧ v = 5 ∨
          c.op = .nlstat d a stl ∧ v = 2 ^ 30 + cause % 64 * 2 ^ 24 →
        Answers .nlCommandTurn s (fun t => NlAnswered s t c d (BitVec.ofNat 32 v) ∧ t.mem = s.mem ∧ t.nl = [])) ∧
      (c.op = .nlins d a b mode stl → Answers .nlCommandTurn s (fun t => t = { s with nl := [] }))) ∧
    (∀ bad, c.refused = false → check = .miss bad → (c.op = .nlgrid d a op stl ∨ c.op = .nlins d a b mode stl ∨
        c.op = .nlpairs d a b ring full skip slots stl lit ∨ c.op = .nlstat d a stl) →
      s.hasMerge (s.nlHome c) c.asid (pageOf c.grid) = false →
      (s.mergeFull (s.nlHome c) = true → Answers .nlCommandTurn s (fun t => t = s)) ∧
      (s.mergeFull (s.nlHome c) = false → Answers .nlCommandTurn s (fun t =>
        t = { s with nl := [{ c with page := some (pageOf c.grid) }], faults := t.faults, merges := t.merges } ∧
        t.merges = s.merges ++ [{ sec := s.nlHome c, asid := c.asid, page := pageOf c.grid }] ∧
        ∃ r, t.faults = s.faults ++ [r] ∧ r.va = c.grid ∧ r.asid = c.asid)))

/-- The acceptance, turn and end of neighbour-list commands. -/
def Obligations.NeighbourCommandsRun : Prop :=
  Claims.NeighbourCommandsTakeTheirTurn ∧
  Claims.NeighbourCommandsEnd ∧
  Claims.ParticlesAreBinned ∧
  Claims.GridsHaveTheirGeometry ∧
  Claims.PairsAreStreamed ∧
  Claims.UnreadableGridsAreRefused
end

