-- ==== Sys2Proof/Laws/Map.lean ====
section
/-! SUPPORT. Reading a sparse map after a change, and the canonical form that every change keeps. -/

namespace Sys2Proof.Machine

theorem mapGet_mapDel {β : Type} (d : β) (m : Map β) (k j : Nat) :
    mapGet d (mapDel m k) j = if k = j then d else mapGet d m j := by
  induction m with
  | nil => simp [mapDel, mapGet]
  | cons e r ih =>
    obtain ⟨a, v⟩ := e
    simp only [mapDel, mapGet]
    split <;> rename_i h
    · subst h; rw [ih]; split <;> simp_all
    · simp only [mapGet, ih]
      by_cases h1 : a = j
      · subst h1; simp [Ne.symm h]
      · simp [h1]

theorem mapDel_keys {β : Type} (m : Map β) (k j : Nat) : j ∈ (mapDel m k).map Prod.fst ↔ j ∈ m.map Prod.fst ∧ j ≠ k := by
  induction m with
  | nil => simp [mapDel]
  | cons e r ih =>
    obtain ⟨a, v⟩ := e
    simp only [mapDel]
    split <;> rename_i h
    · subst h; rw [ih]; simp only [List.map_cons, List.mem_cons]
      exact ⟨fun h => ⟨.inr h.1, h.2⟩, fun h => ⟨h.1.resolve_left h.2, h.2⟩⟩
    · simp only [List.map_cons, List.mem_cons, ih]
      constructor
      · rintro (h1 | ⟨h1, h2⟩)
        · subst h1; exact ⟨.inl rfl, h⟩
        · exact ⟨.inr h1, h2⟩
      · rintro ⟨h1 | h1, h2⟩
        · exact .inl h1
        · exact .inr ⟨h1, h2⟩

theorem mapGet_mapIns {β : Type} (d : β) (m : Map β) (k j : Nat) (v : β) (hk : k ∉ m.map Prod.fst) :
    mapGet d (mapIns m k v) j = if k = j then v else mapGet d m j := by
  induction m with
  | nil => simp [mapIns, mapGet]
  | cons e r ih =>
    obtain ⟨a, u⟩ := e
    simp only [List.map_cons, List.mem_cons, not_or] at hk
    simp only [mapIns]
    split
    · simp [mapGet]
    · have := ih hk.2
      have := hk.1
      simp only [mapGet]
      split <;> split <;> simp_all

/-- Reading after a write. -/
@[simp] theorem mapGet_mapSet {β : Type} [DecidableEq β] (d : β) (m : Map β) (k j : Nat) (v : β) :
    mapGet d (mapSet d m k v) j = if k = j then v else mapGet d m j := by
  unfold mapSet
  split
  · rw [mapGet_mapDel]; split <;> simp_all
  · rw [mapGet_mapIns _ _ _ _ _ (fun h => ((mapDel_keys m k k).mp h).2 rfl), mapGet_mapDel]; split <;> simp_all

/-! ### The canonical form -/

/-- The canonical form as a statement: the keys rise, and no entry holds the absent value. -/
theorem mapWf_iff {β : Type} [DecidableEq β] (d : β) (m : Map β) :
    mapWf d m = true ↔ m.Pairwise (fun e g => e.1 < g.1) ∧ ∀ e ∈ m, e.2 ≠ d := by
  induction m with
  | nil => simp [mapWf]
  | cons e r ih =>
    obtain ⟨k, v⟩ := e
    cases r with
    | nil => simp [mapWf]
    | cons g r =>
      obtain ⟨k', v'⟩ := g
      simp only [mapWf, Bool.and_eq_true, decide_eq_true_eq, ih]
      constructor
      · rintro ⟨⟨h1, h2⟩, h3, h4⟩
        refine ⟨List.Pairwise.cons ?_ h3, ?_⟩
        · intro a ha
          rcases List.mem_cons.mp ha with rfl | ha
          · exact h1
          · exact Nat.lt_trans h1 ((List.pairwise_cons.mp h3).1 a ha)
        · intro a ha
          rcases List.mem_cons.mp ha with rfl | ha
          · exact h2
          · exact h4 a ha
      · rintro ⟨h1, h2⟩
        have hc := List.pairwise_cons.mp h1
        exact ⟨⟨hc.1 _ List.mem_cons_self, h2 _ List.mem_cons_self⟩, hc.2, fun a ha => h2 a (List.mem_cons_of_mem _ ha)⟩

/-- Filtering entries keeps the canonical form. -/
theorem mapWf_filter {β : Type} [DecidableEq β] (d : β) (m : Map β) (p : Nat × β → Bool) (h : mapWf d m = true) :
    mapWf d (m.filter p) = true := by
  rw [mapWf_iff] at h ⊢
  exact ⟨h.1.filter p, fun e he => h.2 e (List.mem_filter.mp he).1⟩

theorem mapDel_eq_filter {β : Type} (m : Map β) (k : Nat) : mapDel m k = m.filter (fun e => decide (e.1 ≠ k)) := by
  induction m with
  | nil => rfl
  | cons e r ih => obtain ⟨a, v⟩ := e; simp only [mapDel]; split <;> simp_all

theorem mapIns_mem {β : Type} (m : Map β) (k : Nat) (v : β) (e : Nat × β) :
    e ∈ mapIns m k v ↔ e = (k, v) ∨ e ∈ m := by
  induction m with
  | nil => simp [mapIns]
  | cons g r ih =>
    obtain ⟨a, u⟩ := g
    simp only [mapIns]
    split
    · simp
    · simp only [List.mem_cons, ih]
      constructor
      · rintro (h | h | h) <;> simp [h]
      · rintro (h | h | h) <;> simp [h]

theorem mapIns_wf {β : Type} [DecidableEq β] (d : β) (m : Map β) (k : Nat) (v : β) (h : mapWf d m = true)
    (hk : k ∉ m.map Prod.fst) (hv : v ≠ d) : mapWf d (mapIns m k v) = true := by
  rw [mapWf_iff] at h ⊢
  refine ⟨?_, ?_⟩
  · induction m with
    | nil => simp [mapIns]
    | cons g r ih =>
      obtain ⟨a, u⟩ := g
      simp only [List.map_cons, List.mem_cons, not_or] at hk
      have hc := List.pairwise_cons.mp h.1
      simp only [mapIns]
      split <;> rename_i hlt
      · refine List.Pairwise.cons ?_ h.1
        intro e he
        rcases List.mem_cons.mp he with rfl | he
        · exact hlt
        · exact Nat.lt_trans hlt (hc.1 e he)
      · refine List.Pairwise.cons ?_ (ih ⟨hc.2, fun e he => h.2 e (List.mem_cons_of_mem _ he)⟩ hk.2)
        intro e he
        rcases (mapIns_mem r k v e).mp he with rfl | he
        · have := hk.1; simp only; omega
        · exact hc.1 e he
  · intro e he
    rcases (mapIns_mem m k v e).mp he with rfl | he
    · exact hv
    · exact h.2 e he

/-- A write keeps the canonical form. -/
theorem mapSet_wf {β : Type} [DecidableEq β] (d : β) (m : Map β) (k : Nat) (v : β) (h : mapWf d m = true) :
    mapWf d (mapSet d m k v) = true := by
  unfold mapSet
  have hd : mapWf d (mapDel m k) = true := by rw [mapDel_eq_filter]; exact mapWf_filter d m _ h
  split
  · exact hd
  · exact mapIns_wf d _ k v hd (fun hh => ((mapDel_keys m k k).mp hh).2 rfl) ‹_›

end Sys2Proof.Machine
end

