-- ==== Sys2Proof/Laws/State.lean ====
section
/-! SUPPORT. What each named update of State leaves alone, field by field, and what reading a part gives after it. -/

namespace Sys2Proof.Machine

/-! ### State.setWave -/

@[simp] theorem setWave_clk (s : State) (w : Nat) (x : Wave) : (s.setWave w x).clk = s.clk := rfl
@[simp] theorem setWave_mem (s : State) (w : Nat) (x : Wave) : (s.setWave w x).mem = s.mem := rfl
@[simp] theorem setWave_gangs (s : State) (w : Nat) (x : Wave) : (s.setWave w x).gangs = s.gangs := rfl
@[simp] theorem setWave_mx (s : State) (w : Nat) (x : Wave) : (s.setWave w x).mx = s.mx := rfl
@[simp] theorem setWave_clusters (s : State) (w : Nat) (x : Wave) : (s.setWave w x).clusters = s.clusters := rfl
@[simp] theorem setWave_ports (s : State) (w : Nat) (x : Wave) : (s.setWave w x).ports = s.ports := rfl
@[simp] theorem setWave_lastIssue (s : State) (w : Nat) (x : Wave) : (s.setWave w x).lastIssue = s.lastIssue := rfl
@[simp] theorem setWave_tlbs (s : State) (w : Nat) (x : Wave) : (s.setWave w x).tlbs = s.tlbs := rfl
@[simp] theorem setWave_merges (s : State) (w : Nat) (x : Wave) : (s.setWave w x).merges = s.merges := rfl
@[simp] theorem setWave_faults (s : State) (w : Nat) (x : Wave) : (s.setWave w x).faults = s.faults := rfl
@[simp] theorem setWave_badSectors (s : State) (w : Nat) (x : Wave) : (s.setWave w x).badSectors = s.badSectors := rfl
@[simp] theorem setWave_badScratch (s : State) (w : Nat) (x : Wave) : (s.setWave w x).badScratch = s.badScratch := rfl
@[simp] theorem setWave_badAcc (s : State) (w : Nat) (x : Wave) : (s.setWave w x).badAcc = s.badAcc := rfl
@[simp] theorem setWave_peeks (s : State) (w : Nat) (x : Wave) : (s.setWave w x).peeks = s.peeks := rfl
@[simp] theorem setWave_snaps (s : State) (w : Nat) (x : Wave) : (s.setWave w x).snaps = s.snaps := rfl
@[simp] theorem setWave_view (s : State) (w : Nat) (x : Wave) : (s.setWave w x).view = s.view := rfl
@[simp] theorem setWave_travs (s : State) (w : Nat) (x : Wave) : (s.setWave w x).travs = s.travs := rfl
@[simp] theorem setWave_clauses (s : State) (w : Nat) (x : Wave) : (s.setWave w x).clauses = s.clauses := rfl
@[simp] theorem setWave_bindings (s : State) (w : Nat) (x : Wave) : (s.setWave w x).bindings = s.bindings := rfl
@[simp] theorem setWave_ctxs (s : State) (w : Nat) (x : Wave) : (s.setWave w x).ctxs = s.ctxs := rfl
@[simp] theorem setWave_tasks (s : State) (w : Nat) (x : Wave) : (s.setWave w x).tasks = s.tasks := rfl
@[simp] theorem setWave_admitted (s : State) (w : Nat) (x : Wave) : (s.setWave w x).admitted = s.admitted := rfl
@[simp] theorem setWave_orders (s : State) (w : Nat) (x : Wave) : (s.setWave w x).orders = s.orders := rfl
@[simp] theorem setWave_lastPop (s : State) (w : Nat) (x : Wave) : (s.setWave w x).lastPop = s.lastPop := rfl
@[simp] theorem setWave_rasters (s : State) (w : Nat) (x : Wave) : (s.setWave w x).rasters = s.rasters := rfl
@[simp] theorem setWave_nlSecure (s : State) (w : Nat) (x : Wave) : (s.setWave w x).nlSecure = s.nlSecure := rfl
@[simp] theorem setWave_portSecure (s : State) (w : Nat) (x : Wave) : (s.setWave w x).portSecure = s.portSecure := rfl
@[simp] theorem setWave_regionSecure (s : State) (w : Nat) (x : Wave) : (s.setWave w x).regionSecure = s.regionSecure := rfl
@[simp] theorem setWave_nl (s : State) (w : Nat) (x : Wave) : (s.setWave w x).nl = s.nl := rfl
@[simp] theorem setWave_qps (s : State) (w : Nat) (x : Wave) : (s.setWave w x).qps = s.qps := rfl
@[simp] theorem setWave_sent (s : State) (w : Nat) (x : Wave) : (s.setWave w x).sent = s.sent := rfl
@[simp] theorem setWave_framedeadline (s : State) (w : Nat) (x : Wave) : (s.setWave w x).framedeadline = s.framedeadline := rfl
@[simp] theorem setWave_framecfg (s : State) (w : Nat) (x : Wave) : (s.setWave w x).framecfg = s.framecfg := rfl
@[simp] theorem setWave_frameOut (s : State) (w : Nat) (x : Wave) : (s.setWave w x).frameOut = s.frameOut := rfl
@[simp] theorem setWave_flash (s : State) (w : Nat) (x : Wave) : (s.setWave w x).flash = s.flash := rfl
@[simp] theorem setWave_reports (s : State) (w : Nat) (x : Wave) : (s.setWave w x).reports = s.reports := rfl
@[simp] theorem setWave_boot (s : State) (w : Nat) (x : Wave) : (s.setWave w x).boot = s.boot := rfl
@[simp] theorem setWave_limited (s : State) (w : Nat) (x : Wave) : (s.setWave w x).limited = s.limited := rfl
@[simp] theorem setWave_turns (s : State) (w : Nat) (x : Wave) : (s.setWave w x).turns = s.turns := rfl
@[simp] theorem setWave_alt (s : State) (w : Nat) (x : Wave) : (s.setWave w x).alt = s.alt := rfl
@[simp] theorem setWave_free (s : State) (w : Nat) (x : Wave) : (s.setWave w x).free = s.free := rfl
@[simp] theorem setWave_focus (s : State) (w : Nat) (x : Wave) : (s.setWave w x).focus = s.focus := rfl
@[simp] theorem setWave_nums (s : State) (w : Nat) (x : Wave) : (s.setWave w x).nums = s.nums := rfl
@[simp] theorem setWave_bytes (s : State) (w : Nat) (x : Wave) : (s.setWave w x).bytes = s.bytes := rfl
@[simp] theorem setWave_get_gang (s : State) (w : Nat) (x : Wave) (i : Nat) : (s.setWave w x).gang i = s.gang i := rfl
@[simp] theorem setWave_get_gangMx (s : State) (w : Nat) (x : Wave) (i : Nat) : (s.setWave w x).gangMx i = s.gangMx i := rfl
@[simp] theorem setWave_get_cluster (s : State) (w : Nat) (x : Wave) (i : Nat) : (s.setWave w x).cluster i = s.cluster i := rfl
@[simp] theorem setWave_get_raster (s : State) (w : Nat) (x : Wave) (i : Nat) : (s.setWave w x).raster i = s.raster i := rfl
@[simp] theorem setWave_get_task (s : State) (w : Nat) (x : Wave) (i : Nat) : (s.setWave w x).task i = s.task i := rfl
@[simp] theorem setWave_get_clause (s : State) (w : Nat) (x : Wave) (i : Nat) : (s.setWave w x).clause i = s.clause i := rfl
@[simp] theorem setWave_get_qp (s : State) (w : Nat) (x : Wave) (i : Nat) : (s.setWave w x).qp i = s.qp i := rfl
@[simp] theorem setWave_readByte (s : State) (w : Nat) (x : Wave) (a : Nat) : (s.setWave w x).readByte a = s.readByte a := rfl

/-! ### State.modWave -/

@[simp] theorem modWave_clk (s : State) (w : Nat) (f : Wave → Wave) : (s.modWave w f).clk = s.clk := rfl
@[simp] theorem modWave_mem (s : State) (w : Nat) (f : Wave → Wave) : (s.modWave w f).mem = s.mem := rfl
@[simp] theorem modWave_gangs (s : State) (w : Nat) (f : Wave → Wave) : (s.modWave w f).gangs = s.gangs := rfl
@[simp] theorem modWave_mx (s : State) (w : Nat) (f : Wave → Wave) : (s.modWave w f).mx = s.mx := rfl
@[simp] theorem modWave_clusters (s : State) (w : Nat) (f : Wave → Wave) : (s.modWave w f).clusters = s.clusters := rfl
@[simp] theorem modWave_ports (s : State) (w : Nat) (f : Wave → Wave) : (s.modWave w f).ports = s.ports := rfl
@[simp] theorem modWave_lastIssue (s : State) (w : Nat) (f : Wave → Wave) : (s.modWave w f).lastIssue = s.lastIssue := rfl
@[simp] theorem modWave_tlbs (s : State) (w : Nat) (f : Wave → Wave) : (s.modWave w f).tlbs = s.tlbs := rfl
@[simp] theorem modWave_merges (s : State) (w : Nat) (f : Wave → Wave) : (s.modWave w f).merges = s.merges := rfl
@[simp] theorem modWave_faults (s : State) (w : Nat) (f : Wave → Wave) : (s.modWave w f).faults = s.faults := rfl
@[simp] theorem modWave_badSectors (s : State) (w : Nat) (f : Wave → Wave) : (s.modWave w f).badSectors = s.badSectors := rfl
@[simp] theorem modWave_badScratch (s : State) (w : Nat) (f : Wave → Wave) : (s.modWave w f).badScratch = s.badScratch := rfl
@[simp] theorem modWave_badAcc (s : State) (w : Nat) (f : Wave → Wave) : (s.modWave w f).badAcc = s.badAcc := rfl
@[simp] theorem modWave_peeks (s : State) (w : Nat) (f : Wave → Wave) : (s.modWave w f).peeks = s.peeks := rfl
@[simp] theorem modWave_snaps (s : State) (w : Nat) (f : Wave → Wave) : (s.modWave w f).snaps = s.snaps := rfl
@[simp] theorem modWave_view (s : State) (w : Nat) (f : Wave → Wave) : (s.modWave w f).view = s.view := rfl
@[simp] theorem modWave_travs (s : State) (w : Nat) (f : Wave → Wave) : (s.modWave w f).travs = s.travs := rfl
@[simp] theorem modWave_clauses (s : State) (w : Nat) (f : Wave → Wave) : (s.modWave w f).clauses = s.clauses := rfl
@[simp] theorem modWave_bindings (s : State) (w : Nat) (f : Wave → Wave) : (s.modWave w f).bindings = s.bindings := rfl
@[simp] theorem modWave_ctxs (s : State) (w : Nat) (f : Wave → Wave) : (s.modWave w f).ctxs = s.ctxs := rfl
@[simp] theorem modWave_tasks (s : State) (w : Nat) (f : Wave → Wave) : (s.modWave w f).tasks = s.tasks := rfl
@[simp] theorem modWave_admitted (s : State) (w : Nat) (f : Wave → Wave) : (s.modWave w f).admitted = s.admitted := rfl
@[simp] theorem modWave_orders (s : State) (w : Nat) (f : Wave → Wave) : (s.modWave w f).orders = s.orders := rfl
@[simp] theorem modWave_lastPop (s : State) (w : Nat) (f : Wave → Wave) : (s.modWave w f).lastPop = s.lastPop := rfl
@[simp] theorem modWave_rasters (s : State) (w : Nat) (f : Wave → Wave) : (s.modWave w f).rasters = s.rasters := rfl
@[simp] theorem modWave_nlSecure (s : State) (w : Nat) (f : Wave → Wave) : (s.modWave w f).nlSecure = s.nlSecure := rfl
@[simp] theorem modWave_portSecure (s : State) (w : Nat) (f : Wave → Wave) : (s.modWave w f).portSecure = s.portSecure := rfl
@[simp] theorem modWave_regionSecure (s : State) (w : Nat) (f : Wave → Wave) : (s.modWave w f).regionSecure = s.regionSecure := rfl
@[simp] theorem modWave_nl (s : State) (w : Nat) (f : Wave → Wave) : (s.modWave w f).nl = s.nl := rfl
@[simp] theorem modWave_qps (s : State) (w : Nat) (f : Wave → Wave) : (s.modWave w f).qps = s.qps := rfl
@[simp] theorem modWave_sent (s : State) (w : Nat) (f : Wave → Wave) : (s.modWave w f).sent = s.sent := rfl
@[simp] theorem modWave_framedeadline (s : State) (w : Nat) (f : Wave → Wave) : (s.modWave w f).framedeadline = s.framedeadline := rfl
@[simp] theorem modWave_framecfg (s : State) (w : Nat) (f : Wave → Wave) : (s.modWave w f).framecfg = s.framecfg := rfl
@[simp] theorem modWave_frameOut (s : State) (w : Nat) (f : Wave → Wave) : (s.modWave w f).frameOut = s.frameOut := rfl
@[simp] theorem modWave_flash (s : State) (w : Nat) (f : Wave → Wave) : (s.modWave w f).flash = s.flash := rfl
@[simp] theorem modWave_reports (s : State) (w : Nat) (f : Wave → Wave) : (s.modWave w f).reports = s.reports := rfl
@[simp] theorem modWave_boot (s : State) (w : Nat) (f : Wave → Wave) : (s.modWave w f).boot = s.boot := rfl
@[simp] theorem modWave_limited (s : State) (w : Nat) (f : Wave → Wave) : (s.modWave w f).limited = s.limited := rfl
@[simp] theorem modWave_turns (s : State) (w : Nat) (f : Wave → Wave) : (s.modWave w f).turns = s.turns := rfl
@[simp] theorem modWave_alt (s : State) (w : Nat) (f : Wave → Wave) : (s.modWave w f).alt = s.alt := rfl
@[simp] theorem modWave_free (s : State) (w : Nat) (f : Wave → Wave) : (s.modWave w f).free = s.free := rfl
@[simp] theorem modWave_focus (s : State) (w : Nat) (f : Wave → Wave) : (s.modWave w f).focus = s.focus := rfl
@[simp] theorem modWave_nums (s : State) (w : Nat) (f : Wave → Wave) : (s.modWave w f).nums = s.nums := rfl
@[simp] theorem modWave_bytes (s : State) (w : Nat) (f : Wave → Wave) : (s.modWave w f).bytes = s.bytes := rfl
@[simp] theorem modWave_get_gang (s : State) (w : Nat) (f : Wave → Wave) (i : Nat) : (s.modWave w f).gang i = s.gang i := rfl
@[simp] theorem modWave_get_gangMx (s : State) (w : Nat) (f : Wave → Wave) (i : Nat) : (s.modWave w f).gangMx i = s.gangMx i := rfl
@[simp] theorem modWave_get_cluster (s : State) (w : Nat) (f : Wave → Wave) (i : Nat) : (s.modWave w f).cluster i = s.cluster i := rfl
@[simp] theorem modWave_get_raster (s : State) (w : Nat) (f : Wave → Wave) (i : Nat) : (s.modWave w f).raster i = s.raster i := rfl
@[simp] theorem modWave_get_task (s : State) (w : Nat) (f : Wave → Wave) (i : Nat) : (s.modWave w f).task i = s.task i := rfl
@[simp] theorem modWave_get_clause (s : State) (w : Nat) (f : Wave → Wave) (i : Nat) : (s.modWave w f).clause i = s.clause i := rfl
@[simp] theorem modWave_get_qp (s : State) (w : Nat) (f : Wave → Wave) (i : Nat) : (s.modWave w f).qp i = s.qp i := rfl
@[simp] theorem modWave_readByte (s : State) (w : Nat) (f : Wave → Wave) (a : Nat) : (s.modWave w f).readByte a = s.readByte a := rfl

/-! ### State.modSplit -/

@[simp] theorem modSplit_clk (s : State) (w k : Nat) (f : Split → Split) : (s.modSplit w k f).clk = s.clk := rfl
@[simp] theorem modSplit_mem (s : State) (w k : Nat) (f : Split → Split) : (s.modSplit w k f).mem = s.mem := rfl
@[simp] theorem modSplit_gangs (s : State) (w k : Nat) (f : Split → Split) : (s.modSplit w k f).gangs = s.gangs := rfl
@[simp] theorem modSplit_mx (s : State) (w k : Nat) (f : Split → Split) : (s.modSplit w k f).mx = s.mx := rfl
@[simp] theorem modSplit_clusters (s : State) (w k : Nat) (f : Split → Split) : (s.modSplit w k f).clusters = s.clusters := rfl
@[simp] theorem modSplit_ports (s : State) (w k : Nat) (f : Split → Split) : (s.modSplit w k f).ports = s.ports := rfl
@[simp] theorem modSplit_lastIssue (s : State) (w k : Nat) (f : Split → Split) : (s.modSplit w k f).lastIssue = s.lastIssue := rfl
@[simp] theorem modSplit_tlbs (s : State) (w k : Nat) (f : Split → Split) : (s.modSplit w k f).tlbs = s.tlbs := rfl
@[simp] theorem modSplit_merges (s : State) (w k : Nat) (f : Split → Split) : (s.modSplit w k f).merges = s.merges := rfl
@[simp] theorem modSplit_faults (s : State) (w k : Nat) (f : Split → Split) : (s.modSplit w k f).faults = s.faults := rfl
@[simp] theorem modSplit_badSectors (s : State) (w k : Nat) (f : Split → Split) : (s.modSplit w k f).badSectors = s.badSectors := rfl
@[simp] theorem modSplit_badScratch (s : State) (w k : Nat) (f : Split → Split) : (s.modSplit w k f).badScratch = s.badScratch := rfl
@[simp] theorem modSplit_badAcc (s : State) (w k : Nat) (f : Split → Split) : (s.modSplit w k f).badAcc = s.badAcc := rfl
@[simp] theorem modSplit_peeks (s : State) (w k : Nat) (f : Split → Split) : (s.modSplit w k f).peeks = s.peeks := rfl
@[simp] theorem modSplit_snaps (s : State) (w k : Nat) (f : Split → Split) : (s.modSplit w k f).snaps = s.snaps := rfl
@[simp] theorem modSplit_view (s : State) (w k : Nat) (f : Split → Split) : (s.modSplit w k f).view = s.view := rfl
@[simp] theorem modSplit_travs (s : State) (w k : Nat) (f : Split → Split) : (s.modSplit w k f).travs = s.travs := rfl
@[simp] theorem modSplit_clauses (s : State) (w k : Nat) (f : Split → Split) : (s.modSplit w k f).clauses = s.clauses := rfl
@[simp] theorem modSplit_bindings (s : State) (w k : Nat) (f : Split → Split) : (s.modSplit w k f).bindings = s.bindings := rfl
@[simp] theorem modSplit_ctxs (s : State) (w k : Nat) (f : Split → Split) : (s.modSplit w k f).ctxs = s.ctxs := rfl
@[simp] theorem modSplit_tasks (s : State) (w k : Nat) (f : Split → Split) : (s.modSplit w k f).tasks = s.tasks := rfl
@[simp] theorem modSplit_admitted (s : State) (w k : Nat) (f : Split → Split) : (s.modSplit w k f).admitted = s.admitted := rfl
@[simp] theorem modSplit_orders (s : State) (w k : Nat) (f : Split → Split) : (s.modSplit w k f).orders = s.orders := rfl
@[simp] theorem modSplit_lastPop (s : State) (w k : Nat) (f : Split → Split) : (s.modSplit w k f).lastPop = s.lastPop := rfl
@[simp] theorem modSplit_rasters (s : State) (w k : Nat) (f : Split → Split) : (s.modSplit w k f).rasters = s.rasters := rfl
@[simp] theorem modSplit_nlSecure (s : State) (w k : Nat) (f : Split → Split) : (s.modSplit w k f).nlSecure = s.nlSecure := rfl
@[simp] theorem modSplit_portSecure (s : State) (w k : Nat) (f : Split → Split) : (s.modSplit w k f).portSecure = s.portSecure := rfl
@[simp] theorem modSplit_regionSecure (s : State) (w k : Nat) (f : Split → Split) : (s.modSplit w k f).regionSecure = s.regionSecure := rfl
@[simp] theorem modSplit_nl (s : State) (w k : Nat) (f : Split → Split) : (s.modSplit w k f).nl = s.nl := rfl
@[simp] theorem modSplit_qps (s : State) (w k : Nat) (f : Split → Split) : (s.modSplit w k f).qps = s.qps := rfl
@[simp] theorem modSplit_sent (s : State) (w k : Nat) (f : Split → Split) : (s.modSplit w k f).sent = s.sent := rfl
@[simp] theorem modSplit_framedeadline (s : State) (w k : Nat) (f : Split → Split) : (s.modSplit w k f).framedeadline = s.framedeadline := rfl
@[simp] theorem modSplit_framecfg (s : State) (w k : Nat) (f : Split → Split) : (s.modSplit w k f).framecfg = s.framecfg := rfl
@[simp] theorem modSplit_frameOut (s : State) (w k : Nat) (f : Split → Split) : (s.modSplit w k f).frameOut = s.frameOut := rfl
@[simp] theorem modSplit_flash (s : State) (w k : Nat) (f : Split → Split) : (s.modSplit w k f).flash = s.flash := rfl
@[simp] theorem modSplit_reports (s : State) (w k : Nat) (f : Split → Split) : (s.modSplit w k f).reports = s.reports := rfl
@[simp] theorem modSplit_boot (s : State) (w k : Nat) (f : Split → Split) : (s.modSplit w k f).boot = s.boot := rfl
@[simp] theorem modSplit_limited (s : State) (w k : Nat) (f : Split → Split) : (s.modSplit w k f).limited = s.limited := rfl
@[simp] theorem modSplit_turns (s : State) (w k : Nat) (f : Split → Split) : (s.modSplit w k f).turns = s.turns := rfl
@[simp] theorem modSplit_alt (s : State) (w k : Nat) (f : Split → Split) : (s.modSplit w k f).alt = s.alt := rfl
@[simp] theorem modSplit_free (s : State) (w k : Nat) (f : Split → Split) : (s.modSplit w k f).free = s.free := rfl
@[simp] theorem modSplit_focus (s : State) (w k : Nat) (f : Split → Split) : (s.modSplit w k f).focus = s.focus := rfl
@[simp] theorem modSplit_nums (s : State) (w k : Nat) (f : Split → Split) : (s.modSplit w k f).nums = s.nums := rfl
@[simp] theorem modSplit_bytes (s : State) (w k : Nat) (f : Split → Split) : (s.modSplit w k f).bytes = s.bytes := rfl
@[simp] theorem modSplit_get_gang (s : State) (w k : Nat) (f : Split → Split) (i : Nat) : (s.modSplit w k f).gang i = s.gang i := rfl
@[simp] theorem modSplit_get_gangMx (s : State) (w k : Nat) (f : Split → Split) (i : Nat) : (s.modSplit w k f).gangMx i = s.gangMx i := rfl
@[simp] theorem modSplit_get_cluster (s : State) (w k : Nat) (f : Split → Split) (i : Nat) : (s.modSplit w k f).cluster i = s.cluster i := rfl
@[simp] theorem modSplit_get_raster (s : State) (w k : Nat) (f : Split → Split) (i : Nat) : (s.modSplit w k f).raster i = s.raster i := rfl
@[simp] theorem modSplit_get_task (s : State) (w k : Nat) (f : Split → Split) (i : Nat) : (s.modSplit w k f).task i = s.task i := rfl
@[simp] theorem modSplit_get_clause (s : State) (w k : Nat) (f : Split → Split) (i : Nat) : (s.modSplit w k f).clause i = s.clause i := rfl
@[simp] theorem modSplit_get_qp (s : State) (w k : Nat) (f : Split → Split) (i : Nat) : (s.modSplit w k f).qp i = s.qp i := rfl
@[simp] theorem modSplit_readByte (s : State) (w k : Nat) (f : Split → Split) (a : Nat) : (s.modSplit w k f).readByte a = s.readByte a := rfl

/-! ### State.modGang -/

@[simp] theorem modGang_clk (s : State) (g : Nat) (f : Gang → Gang) : (s.modGang g f).clk = s.clk := rfl
@[simp] theorem modGang_mem (s : State) (g : Nat) (f : Gang → Gang) : (s.modGang g f).mem = s.mem := rfl
@[simp] theorem modGang_waves (s : State) (g : Nat) (f : Gang → Gang) : (s.modGang g f).waves = s.waves := rfl
@[simp] theorem modGang_mx (s : State) (g : Nat) (f : Gang → Gang) : (s.modGang g f).mx = s.mx := rfl
@[simp] theorem modGang_clusters (s : State) (g : Nat) (f : Gang → Gang) : (s.modGang g f).clusters = s.clusters := rfl
@[simp] theorem modGang_ports (s : State) (g : Nat) (f : Gang → Gang) : (s.modGang g f).ports = s.ports := rfl
@[simp] theorem modGang_lastIssue (s : State) (g : Nat) (f : Gang → Gang) : (s.modGang g f).lastIssue = s.lastIssue := rfl
@[simp] theorem modGang_tlbs (s : State) (g : Nat) (f : Gang → Gang) : (s.modGang g f).tlbs = s.tlbs := rfl
@[simp] theorem modGang_merges (s : State) (g : Nat) (f : Gang → Gang) : (s.modGang g f).merges = s.merges := rfl
@[simp] theorem modGang_faults (s : State) (g : Nat) (f : Gang → Gang) : (s.modGang g f).faults = s.faults := rfl
@[simp] theorem modGang_badSectors (s : State) (g : Nat) (f : Gang → Gang) : (s.modGang g f).badSectors = s.badSectors := rfl
@[simp] theorem modGang_badScratch (s : State) (g : Nat) (f : Gang → Gang) : (s.modGang g f).badScratch = s.badScratch := rfl
@[simp] theorem modGang_badAcc (s : State) (g : Nat) (f : Gang → Gang) : (s.modGang g f).badAcc = s.badAcc := rfl
@[simp] theorem modGang_peeks (s : State) (g : Nat) (f : Gang → Gang) : (s.modGang g f).peeks = s.peeks := rfl
@[simp] theorem modGang_snaps (s : State) (g : Nat) (f : Gang → Gang) : (s.modGang g f).snaps = s.snaps := rfl
@[simp] theorem modGang_view (s : State) (g : Nat) (f : Gang → Gang) : (s.modGang g f).view = s.view := rfl
@[simp] theorem modGang_travs (s : State) (g : Nat) (f : Gang → Gang) : (s.modGang g f).travs = s.travs := rfl
@[simp] theorem modGang_clauses (s : State) (g : Nat) (f : Gang → Gang) : (s.modGang g f).clauses = s.clauses := rfl
@[simp] theorem modGang_bindings (s : State) (g : Nat) (f : Gang → Gang) : (s.modGang g f).bindings = s.bindings := rfl
@[simp] theorem modGang_ctxs (s : State) (g : Nat) (f : Gang → Gang) : (s.modGang g f).ctxs = s.ctxs := rfl
@[simp] theorem modGang_tasks (s : State) (g : Nat) (f : Gang → Gang) : (s.modGang g f).tasks = s.tasks := rfl
@[simp] theorem modGang_admitted (s : State) (g : Nat) (f : Gang → Gang) : (s.modGang g f).admitted = s.admitted := rfl
@[simp] theorem modGang_orders (s : State) (g : Nat) (f : Gang → Gang) : (s.modGang g f).orders = s.orders := rfl
@[simp] theorem modGang_lastPop (s : State) (g : Nat) (f : Gang → Gang) : (s.modGang g f).lastPop = s.lastPop := rfl
@[simp] theorem modGang_rasters (s : State) (g : Nat) (f : Gang → Gang) : (s.modGang g f).rasters = s.rasters := rfl
@[simp] theorem modGang_nlSecure (s : State) (g : Nat) (f : Gang → Gang) : (s.modGang g f).nlSecure = s.nlSecure := rfl
@[simp] theorem modGang_portSecure (s : State) (g : Nat) (f : Gang → Gang) : (s.modGang g f).portSecure = s.portSecure := rfl
@[simp] theorem modGang_regionSecure (s : State) (g : Nat) (f : Gang → Gang) : (s.modGang g f).regionSecure = s.regionSecure := rfl
@[simp] theorem modGang_nl (s : State) (g : Nat) (f : Gang → Gang) : (s.modGang g f).nl = s.nl := rfl
@[simp] theorem modGang_qps (s : State) (g : Nat) (f : Gang → Gang) : (s.modGang g f).qps = s.qps := rfl
@[simp] theorem modGang_sent (s : State) (g : Nat) (f : Gang → Gang) : (s.modGang g f).sent = s.sent := rfl
@[simp] theorem modGang_framedeadline (s : State) (g : Nat) (f : Gang → Gang) : (s.modGang g f).framedeadline = s.framedeadline := rfl
@[simp] theorem modGang_framecfg (s : State) (g : Nat) (f : Gang → Gang) : (s.modGang g f).framecfg = s.framecfg := rfl
@[simp] theorem modGang_frameOut (s : State) (g : Nat) (f : Gang → Gang) : (s.modGang g f).frameOut = s.frameOut := rfl
@[simp] theorem modGang_flash (s : State) (g : Nat) (f : Gang → Gang) : (s.modGang g f).flash = s.flash := rfl
@[simp] theorem modGang_reports (s : State) (g : Nat) (f : Gang → Gang) : (s.modGang g f).reports = s.reports := rfl
@[simp] theorem modGang_boot (s : State) (g : Nat) (f : Gang → Gang) : (s.modGang g f).boot = s.boot := rfl
@[simp] theorem modGang_limited (s : State) (g : Nat) (f : Gang → Gang) : (s.modGang g f).limited = s.limited := rfl
@[simp] theorem modGang_turns (s : State) (g : Nat) (f : Gang → Gang) : (s.modGang g f).turns = s.turns := rfl
@[simp] theorem modGang_alt (s : State) (g : Nat) (f : Gang → Gang) : (s.modGang g f).alt = s.alt := rfl
@[simp] theorem modGang_free (s : State) (g : Nat) (f : Gang → Gang) : (s.modGang g f).free = s.free := rfl
@[simp] theorem modGang_focus (s : State) (g : Nat) (f : Gang → Gang) : (s.modGang g f).focus = s.focus := rfl
@[simp] theorem modGang_nums (s : State) (g : Nat) (f : Gang → Gang) : (s.modGang g f).nums = s.nums := rfl
@[simp] theorem modGang_bytes (s : State) (g : Nat) (f : Gang → Gang) : (s.modGang g f).bytes = s.bytes := rfl
@[simp] theorem modGang_get_wave (s : State) (g : Nat) (f : Gang → Gang) (i : Nat) : (s.modGang g f).wave i = s.wave i := rfl
@[simp] theorem modGang_get_gangMx (s : State) (g : Nat) (f : Gang → Gang) (i : Nat) : (s.modGang g f).gangMx i = s.gangMx i := rfl
@[simp] theorem modGang_get_cluster (s : State) (g : Nat) (f : Gang → Gang) (i : Nat) : (s.modGang g f).cluster i = s.cluster i := rfl
@[simp] theorem modGang_get_raster (s : State) (g : Nat) (f : Gang → Gang) (i : Nat) : (s.modGang g f).raster i = s.raster i := rfl
@[simp] theorem modGang_get_task (s : State) (g : Nat) (f : Gang → Gang) (i : Nat) : (s.modGang g f).task i = s.task i := rfl
@[simp] theorem modGang_get_clause (s : State) (g : Nat) (f : Gang → Gang) (i : Nat) : (s.modGang g f).clause i = s.clause i := rfl
@[simp] theorem modGang_get_qp (s : State) (g : Nat) (f : Gang → Gang) (i : Nat) : (s.modGang g f).qp i = s.qp i := rfl
@[simp] theorem modGang_readByte (s : State) (g : Nat) (f : Gang → Gang) (a : Nat) : (s.modGang g f).readByte a = s.readByte a := rfl

/-! ### State.modMx -/

@[simp] theorem modMx_clk (s : State) (g : Nat) (f : GangMx → GangMx) : (s.modMx g f).clk = s.clk := rfl
@[simp] theorem modMx_mem (s : State) (g : Nat) (f : GangMx → GangMx) : (s.modMx g f).mem = s.mem := rfl
@[simp] theorem modMx_waves (s : State) (g : Nat) (f : GangMx → GangMx) : (s.modMx g f).waves = s.waves := rfl
@[simp] theorem modMx_gangs (s : State) (g : Nat) (f : GangMx → GangMx) : (s.modMx g f).gangs = s.gangs := rfl
@[simp] theorem modMx_clusters (s : State) (g : Nat) (f : GangMx → GangMx) : (s.modMx g f).clusters = s.clusters := rfl
@[simp] theorem modMx_ports (s : State) (g : Nat) (f : GangMx → GangMx) : (s.modMx g f).ports = s.ports := rfl
@[simp] theorem modMx_lastIssue (s : State) (g : Nat) (f : GangMx → GangMx) : (s.modMx g f).lastIssue = s.lastIssue := rfl
@[simp] theorem modMx_tlbs (s : State) (g : Nat) (f : GangMx → GangMx) : (s.modMx g f).tlbs = s.tlbs := rfl
@[simp] theorem modMx_merges (s : State) (g : Nat) (f : GangMx → GangMx) : (s.modMx g f).merges = s.merges := rfl
@[simp] theorem modMx_faults (s : State) (g : Nat) (f : GangMx → GangMx) : (s.modMx g f).faults = s.faults := rfl
@[simp] theorem modMx_badSectors (s : State) (g : Nat) (f : GangMx → GangMx) : (s.modMx g f).badSectors = s.badSectors := rfl
@[simp] theorem modMx_badScratch (s : State) (g : Nat) (f : GangMx → GangMx) : (s.modMx g f).badScratch = s.badScratch := rfl
@[simp] theorem modMx_badAcc (s : State) (g : Nat) (f : GangMx → GangMx) : (s.modMx g f).badAcc = s.badAcc := rfl
@[simp] theorem modMx_peeks (s : State) (g : Nat) (f : GangMx → GangMx) : (s.modMx g f).peeks = s.peeks := rfl
@[simp] theorem modMx_snaps (s : State) (g : Nat) (f : GangMx → GangMx) : (s.modMx g f).snaps = s.snaps := rfl
@[simp] theorem modMx_view (s : State) (g : Nat) (f : GangMx → GangMx) : (s.modMx g f).view = s.view := rfl
@[simp] theorem modMx_travs (s : State) (g : Nat) (f : GangMx → GangMx) : (s.modMx g f).travs = s.travs := rfl
@[simp] theorem modMx_clauses (s : State) (g : Nat) (f : GangMx → GangMx) : (s.modMx g f).clauses = s.clauses := rfl
@[simp] theorem modMx_bindings (s : State) (g : Nat) (f : GangMx → GangMx) : (s.modMx g f).bindings = s.bindings := rfl
@[simp] theorem modMx_ctxs (s : State) (g : Nat) (f : GangMx → GangMx) : (s.modMx g f).ctxs = s.ctxs := rfl
@[simp] theorem modMx_tasks (s : State) (g : Nat) (f : GangMx → GangMx) : (s.modMx g f).tasks = s.tasks := rfl
@[simp] theorem modMx_admitted (s : State) (g : Nat) (f : GangMx → GangMx) : (s.modMx g f).admitted = s.admitted := rfl
@[simp] theorem modMx_orders (s : State) (g : Nat) (f : GangMx → GangMx) : (s.modMx g f).orders = s.orders := rfl
@[simp] theorem modMx_lastPop (s : State) (g : Nat) (f : GangMx → GangMx) : (s.modMx g f).lastPop = s.lastPop := rfl
@[simp] theorem modMx_rasters (s : State) (g : Nat) (f : GangMx → GangMx) : (s.modMx g f).rasters = s.rasters := rfl
@[simp] theorem modMx_nlSecure (s : State) (g : Nat) (f : GangMx → GangMx) : (s.modMx g f).nlSecure = s.nlSecure := rfl
@[simp] theorem modMx_portSecure (s : State) (g : Nat) (f : GangMx → GangMx) : (s.modMx g f).portSecure = s.portSecure := rfl
@[simp] theorem modMx_regionSecure (s : State) (g : Nat) (f : GangMx → GangMx) : (s.modMx g f).regionSecure = s.regionSecure := rfl
@[simp] theorem modMx_nl (s : State) (g : Nat) (f : GangMx → GangMx) : (s.modMx g f).nl = s.nl := rfl
@[simp] theorem modMx_qps (s : State) (g : Nat) (f : GangMx → GangMx) : (s.modMx g f).qps = s.qps := rfl
@[simp] theorem modMx_sent (s : State) (g : Nat) (f : GangMx → GangMx) : (s.modMx g f).sent = s.sent := rfl
@[simp] theorem modMx_framedeadline (s : State) (g : Nat) (f : GangMx → GangMx) : (s.modMx g f).framedeadline = s.framedeadline := rfl
@[simp] theorem modMx_framecfg (s : State) (g : Nat) (f : GangMx → GangMx) : (s.modMx g f).framecfg = s.framecfg := rfl
@[simp] theorem modMx_frameOut (s : State) (g : Nat) (f : GangMx → GangMx) : (s.modMx g f).frameOut = s.frameOut := rfl
@[simp] theorem modMx_flash (s : State) (g : Nat) (f : GangMx → GangMx) : (s.modMx g f).flash = s.flash := rfl
@[simp] theorem modMx_reports (s : State) (g : Nat) (f : GangMx → GangMx) : (s.modMx g f).reports = s.reports := rfl
@[simp] theorem modMx_boot (s : State) (g : Nat) (f : GangMx → GangMx) : (s.modMx g f).boot = s.boot := rfl
@[simp] theorem modMx_limited (s : State) (g : Nat) (f : GangMx → GangMx) : (s.modMx g f).limited = s.limited := rfl
@[simp] theorem modMx_turns (s : State) (g : Nat) (f : GangMx → GangMx) : (s.modMx g f).turns = s.turns := rfl
@[simp] theorem modMx_alt (s : State) (g : Nat) (f : GangMx → GangMx) : (s.modMx g f).alt = s.alt := rfl
@[simp] theorem modMx_free (s : State) (g : Nat) (f : GangMx → GangMx) : (s.modMx g f).free = s.free := rfl
@[simp] theorem modMx_focus (s : State) (g : Nat) (f : GangMx → GangMx) : (s.modMx g f).focus = s.focus := rfl
@[simp] theorem modMx_nums (s : State) (g : Nat) (f : GangMx → GangMx) : (s.modMx g f).nums = s.nums := rfl
@[simp] theorem modMx_bytes (s : State) (g : Nat) (f : GangMx → GangMx) : (s.modMx g f).bytes = s.bytes := rfl
@[simp] theorem modMx_get_wave (s : State) (g : Nat) (f : GangMx → GangMx) (i : Nat) : (s.modMx g f).wave i = s.wave i := rfl
@[simp] theorem modMx_get_gang (s : State) (g : Nat) (f : GangMx → GangMx) (i : Nat) : (s.modMx g f).gang i = s.gang i := rfl
@[simp] theorem modMx_get_cluster (s : State) (g : Nat) (f : GangMx → GangMx) (i : Nat) : (s.modMx g f).cluster i = s.cluster i := rfl
@[simp] theorem modMx_get_raster (s : State) (g : Nat) (f : GangMx → GangMx) (i : Nat) : (s.modMx g f).raster i = s.raster i := rfl
@[simp] theorem modMx_get_task (s : State) (g : Nat) (f : GangMx → GangMx) (i : Nat) : (s.modMx g f).task i = s.task i := rfl
@[simp] theorem modMx_get_clause (s : State) (g : Nat) (f : GangMx → GangMx) (i : Nat) : (s.modMx g f).clause i = s.clause i := rfl
@[simp] theorem modMx_get_qp (s : State) (g : Nat) (f : GangMx → GangMx) (i : Nat) : (s.modMx g f).qp i = s.qp i := rfl
@[simp] theorem modMx_readByte (s : State) (g : Nat) (f : GangMx → GangMx) (a : Nat) : (s.modMx g f).readByte a = s.readByte a := rfl

/-! ### State.modCluster -/

@[simp] theorem modCluster_clk (s : State) (c : Nat) (f : Cluster → Cluster) : (s.modCluster c f).clk = s.clk := rfl
@[simp] theorem modCluster_mem (s : State) (c : Nat) (f : Cluster → Cluster) : (s.modCluster c f).mem = s.mem := rfl
@[simp] theorem modCluster_waves (s : State) (c : Nat) (f : Cluster → Cluster) : (s.modCluster c f).waves = s.waves := rfl
@[simp] theorem modCluster_gangs (s : State) (c : Nat) (f : Cluster → Cluster) : (s.modCluster c f).gangs = s.gangs := rfl
@[simp] theorem modCluster_mx (s : State) (c : Nat) (f : Cluster → Cluster) : (s.modCluster c f).mx = s.mx := rfl
@[simp] theorem modCluster_ports (s : State) (c : Nat) (f : Cluster → Cluster) : (s.modCluster c f).ports = s.ports := rfl
@[simp] theorem modCluster_lastIssue (s : State) (c : Nat) (f : Cluster → Cluster) : (s.modCluster c f).lastIssue = s.lastIssue := rfl
@[simp] theorem modCluster_tlbs (s : State) (c : Nat) (f : Cluster → Cluster) : (s.modCluster c f).tlbs = s.tlbs := rfl
@[simp] theorem modCluster_merges (s : State) (c : Nat) (f : Cluster → Cluster) : (s.modCluster c f).merges = s.merges := rfl
@[simp] theorem modCluster_faults (s : State) (c : Nat) (f : Cluster → Cluster) : (s.modCluster c f).faults = s.faults := rfl
@[simp] theorem modCluster_badSectors (s : State) (c : Nat) (f : Cluster → Cluster) : (s.modCluster c f).badSectors = s.badSectors := rfl
@[simp] theorem modCluster_badScratch (s : State) (c : Nat) (f : Cluster → Cluster) : (s.modCluster c f).badScratch = s.badScratch := rfl
@[simp] theorem modCluster_badAcc (s : State) (c : Nat) (f : Cluster → Cluster) : (s.modCluster c f).badAcc = s.badAcc := rfl
@[simp] theorem modCluster_peeks (s : State) (c : Nat) (f : Cluster → Cluster) : (s.modCluster c f).peeks = s.peeks := rfl
@[simp] theorem modCluster_snaps (s : State) (c : Nat) (f : Cluster → Cluster) : (s.modCluster c f).snaps = s.snaps := rfl
@[simp] theorem modCluster_view (s : State) (c : Nat) (f : Cluster → Cluster) : (s.modCluster c f).view = s.view := rfl
@[simp] theorem modCluster_travs (s : State) (c : Nat) (f : Cluster → Cluster) : (s.modCluster c f).travs = s.travs := rfl
@[simp] theorem modCluster_clauses (s : State) (c : Nat) (f : Cluster → Cluster) : (s.modCluster c f).clauses = s.clauses := rfl
@[simp] theorem modCluster_bindings (s : State) (c : Nat) (f : Cluster → Cluster) : (s.modCluster c f).bindings = s.bindings := rfl
@[simp] theorem modCluster_ctxs (s : State) (c : Nat) (f : Cluster → Cluster) : (s.modCluster c f).ctxs = s.ctxs := rfl
@[simp] theorem modCluster_tasks (s : State) (c : Nat) (f : Cluster → Cluster) : (s.modCluster c f).tasks = s.tasks := rfl
@[simp] theorem modCluster_admitted (s : State) (c : Nat) (f : Cluster → Cluster) : (s.modCluster c f).admitted = s.admitted := rfl
@[simp] theorem modCluster_orders (s : State) (c : Nat) (f : Cluster → Cluster) : (s.modCluster c f).orders = s.orders := rfl
@[simp] theorem modCluster_lastPop (s : State) (c : Nat) (f : Cluster → Cluster) : (s.modCluster c f).lastPop = s.lastPop := rfl
@[simp] theorem modCluster_rasters (s : State) (c : Nat) (f : Cluster → Cluster) : (s.modCluster c f).rasters = s.rasters := rfl
@[simp] theorem modCluster_nlSecure (s : State) (c : Nat) (f : Cluster → Cluster) : (s.modCluster c f).nlSecure = s.nlSecure := rfl
@[simp] theorem modCluster_portSecure (s : State) (c : Nat) (f : Cluster → Cluster) : (s.modCluster c f).portSecure = s.portSecure := rfl
@[simp] theorem modCluster_regionSecure (s : State) (c : Nat) (f : Cluster → Cluster) : (s.modCluster c f).regionSecure = s.regionSecure := rfl
@[simp] theorem modCluster_nl (s : State) (c : Nat) (f : Cluster → Cluster) : (s.modCluster c f).nl = s.nl := rfl
@[simp] theorem modCluster_qps (s : State) (c : Nat) (f : Cluster → Cluster) : (s.modCluster c f).qps = s.qps := rfl
@[simp] theorem modCluster_sent (s : State) (c : Nat) (f : Cluster → Cluster) : (s.modCluster c f).sent = s.sent := rfl
@[simp] theorem modCluster_framedeadline (s : State) (c : Nat) (f : Cluster → Cluster) : (s.modCluster c f).framedeadline = s.framedeadline := rfl
@[simp] theorem modCluster_framecfg (s : State) (c : Nat) (f : Cluster → Cluster) : (s.modCluster c f).framecfg = s.framecfg := rfl
@[simp] theorem modCluster_frameOut (s : State) (c : Nat) (f : Cluster → Cluster) : (s.modCluster c f).frameOut = s.frameOut := rfl
@[simp] theorem modCluster_flash (s : State) (c : Nat) (f : Cluster → Cluster) : (s.modCluster c f).flash = s.flash := rfl
@[simp] theorem modCluster_reports (s : State) (c : Nat) (f : Cluster → Cluster) : (s.modCluster c f).reports = s.reports := rfl
@[simp] theorem modCluster_boot (s : State) (c : Nat) (f : Cluster → Cluster) : (s.modCluster c f).boot = s.boot := rfl
@[simp] theorem modCluster_limited (s : State) (c : Nat) (f : Cluster → Cluster) : (s.modCluster c f).limited = s.limited := rfl
@[simp] theorem modCluster_turns (s : State) (c : Nat) (f : Cluster → Cluster) : (s.modCluster c f).turns = s.turns := rfl
@[simp] theorem modCluster_alt (s : State) (c : Nat) (f : Cluster → Cluster) : (s.modCluster c f).alt = s.alt := rfl
@[simp] theorem modCluster_free (s : State) (c : Nat) (f : Cluster → Cluster) : (s.modCluster c f).free = s.free := rfl
@[simp] theorem modCluster_focus (s : State) (c : Nat) (f : Cluster → Cluster) : (s.modCluster c f).focus = s.focus := rfl
@[simp] theorem modCluster_nums (s : State) (c : Nat) (f : Cluster → Cluster) : (s.modCluster c f).nums = s.nums := rfl
@[simp] theorem modCluster_bytes (s : State) (c : Nat) (f : Cluster → Cluster) : (s.modCluster c f).bytes = s.bytes := rfl
@[simp] theorem modCluster_get_wave (s : State) (c : Nat) (f : Cluster → Cluster) (i : Nat) : (s.modCluster c f).wave i = s.wave i := rfl
@[simp] theorem modCluster_get_gang (s : State) (c : Nat) (f : Cluster → Cluster) (i : Nat) : (s.modCluster c f).gang i = s.gang i := rfl
@[simp] theorem modCluster_get_gangMx (s : State) (c : Nat) (f : Cluster → Cluster) (i : Nat) : (s.modCluster c f).gangMx i = s.gangMx i := rfl
@[simp] theorem modCluster_get_raster (s : State) (c : Nat) (f : Cluster → Cluster) (i : Nat) : (s.modCluster c f).raster i = s.raster i := rfl
@[simp] theorem modCluster_get_task (s : State) (c : Nat) (f : Cluster → Cluster) (i : Nat) : (s.modCluster c f).task i = s.task i := rfl
@[simp] theorem modCluster_get_clause (s : State) (c : Nat) (f : Cluster → Cluster) (i : Nat) : (s.modCluster c f).clause i = s.clause i := rfl
@[simp] theorem modCluster_get_qp (s : State) (c : Nat) (f : Cluster → Cluster) (i : Nat) : (s.modCluster c f).qp i = s.qp i := rfl
@[simp] theorem modCluster_readByte (s : State) (c : Nat) (f : Cluster → Cluster) (a : Nat) : (s.modCluster c f).readByte a = s.readByte a := rfl

/-! ### State.modRaster -/

@[simp] theorem modRaster_clk (s : State) (n : Nat) (f : Raster → Raster) : (s.modRaster n f).clk = s.clk := rfl
@[simp] theorem modRaster_mem (s : State) (n : Nat) (f : Raster → Raster) : (s.modRaster n f).mem = s.mem := rfl
@[simp] theorem modRaster_waves (s : State) (n : Nat) (f : Raster → Raster) : (s.modRaster n f).waves = s.waves := rfl
@[simp] theorem modRaster_gangs (s : State) (n : Nat) (f : Raster → Raster) : (s.modRaster n f).gangs = s.gangs := rfl
@[simp] theorem modRaster_mx (s : State) (n : Nat) (f : Raster → Raster) : (s.modRaster n f).mx = s.mx := rfl
@[simp] theorem modRaster_clusters (s : State) (n : Nat) (f : Raster → Raster) : (s.modRaster n f).clusters = s.clusters := rfl
@[simp] theorem modRaster_ports (s : State) (n : Nat) (f : Raster → Raster) : (s.modRaster n f).ports = s.ports := rfl
@[simp] theorem modRaster_lastIssue (s : State) (n : Nat) (f : Raster → Raster) : (s.modRaster n f).lastIssue = s.lastIssue := rfl
@[simp] theorem modRaster_tlbs (s : State) (n : Nat) (f : Raster → Raster) : (s.modRaster n f).tlbs = s.tlbs := rfl
@[simp] theorem modRaster_merges (s : State) (n : Nat) (f : Raster → Raster) : (s.modRaster n f).merges = s.merges := rfl
@[simp] theorem modRaster_faults (s : State) (n : Nat) (f : Raster → Raster) : (s.modRaster n f).faults = s.faults := rfl
@[simp] theorem modRaster_badSectors (s : State) (n : Nat) (f : Raster → Raster) : (s.modRaster n f).badSectors = s.badSectors := rfl
@[simp] theorem modRaster_badScratch (s : State) (n : Nat) (f : Raster → Raster) : (s.modRaster n f).badScratch = s.badScratch := rfl
@[simp] theorem modRaster_badAcc (s : State) (n : Nat) (f : Raster → Raster) : (s.modRaster n f).badAcc = s.badAcc := rfl
@[simp] theorem modRaster_peeks (s : State) (n : Nat) (f : Raster → Raster) : (s.modRaster n f).peeks = s.peeks := rfl
@[simp] theorem modRaster_snaps (s : State) (n : Nat) (f : Raster → Raster) : (s.modRaster n f).snaps = s.snaps := rfl
@[simp] theorem modRaster_view (s : State) (n : Nat) (f : Raster → Raster) : (s.modRaster n f).view = s.view := rfl
@[simp] theorem modRaster_travs (s : State) (n : Nat) (f : Raster → Raster) : (s.modRaster n f).travs = s.travs := rfl
@[simp] theorem modRaster_clauses (s : State) (n : Nat) (f : Raster → Raster) : (s.modRaster n f).clauses = s.clauses := rfl
@[simp] theorem modRaster_bindings (s : State) (n : Nat) (f : Raster → Raster) : (s.modRaster n f).bindings = s.bindings := rfl
@[simp] theorem modRaster_ctxs (s : State) (n : Nat) (f : Raster → Raster) : (s.modRaster n f).ctxs = s.ctxs := rfl
@[simp] theorem modRaster_tasks (s : State) (n : Nat) (f : Raster → Raster) : (s.modRaster n f).tasks = s.tasks := rfl
@[simp] theorem modRaster_admitted (s : State) (n : Nat) (f : Raster → Raster) : (s.modRaster n f).admitted = s.admitted := rfl
@[simp] theorem modRaster_orders (s : State) (n : Nat) (f : Raster → Raster) : (s.modRaster n f).orders = s.orders := rfl
@[simp] theorem modRaster_lastPop (s : State) (n : Nat) (f : Raster → Raster) : (s.modRaster n f).lastPop = s.lastPop := rfl
@[simp] theorem modRaster_nlSecure (s : State) (n : Nat) (f : Raster → Raster) : (s.modRaster n f).nlSecure = s.nlSecure := rfl
@[simp] theorem modRaster_portSecure (s : State) (n : Nat) (f : Raster → Raster) : (s.modRaster n f).portSecure = s.portSecure := rfl
@[simp] theorem modRaster_regionSecure (s : State) (n : Nat) (f : Raster → Raster) : (s.modRaster n f).regionSecure = s.regionSecure := rfl
@[simp] theorem modRaster_nl (s : State) (n : Nat) (f : Raster → Raster) : (s.modRaster n f).nl = s.nl := rfl
@[simp] theorem modRaster_qps (s : State) (n : Nat) (f : Raster → Raster) : (s.modRaster n f).qps = s.qps := rfl
@[simp] theorem modRaster_sent (s : State) (n : Nat) (f : Raster → Raster) : (s.modRaster n f).sent = s.sent := rfl
@[simp] theorem modRaster_framedeadline (s : State) (n : Nat) (f : Raster → Raster) : (s.modRaster n f).framedeadline = s.framedeadline := rfl
@[simp] theorem modRaster_framecfg (s : State) (n : Nat) (f : Raster → Raster) : (s.modRaster n f).framecfg = s.framecfg := rfl
@[simp] theorem modRaster_frameOut (s : State) (n : Nat) (f : Raster → Raster) : (s.modRaster n f).frameOut = s.frameOut := rfl
@[simp] theorem modRaster_flash (s : State) (n : Nat) (f : Raster → Raster) : (s.modRaster n f).flash = s.flash := rfl
@[simp] theorem modRaster_reports (s : State) (n : Nat) (f : Raster → Raster) : (s.modRaster n f).reports = s.reports := rfl
@[simp] theorem modRaster_boot (s : State) (n : Nat) (f : Raster → Raster) : (s.modRaster n f).boot = s.boot := rfl
@[simp] theorem modRaster_limited (s : State) (n : Nat) (f : Raster → Raster) : (s.modRaster n f).limited = s.limited := rfl
@[simp] theorem modRaster_turns (s : State) (n : Nat) (f : Raster → Raster) : (s.modRaster n f).turns = s.turns := rfl
@[simp] theorem modRaster_alt (s : State) (n : Nat) (f : Raster → Raster) : (s.modRaster n f).alt = s.alt := rfl
@[simp] theorem modRaster_free (s : State) (n : Nat) (f : Raster → Raster) : (s.modRaster n f).free = s.free := rfl
@[simp] theorem modRaster_focus (s : State) (n : Nat) (f : Raster → Raster) : (s.modRaster n f).focus = s.focus := rfl
@[simp] theorem modRaster_nums (s : State) (n : Nat) (f : Raster → Raster) : (s.modRaster n f).nums = s.nums := rfl
@[simp] theorem modRaster_bytes (s : State) (n : Nat) (f : Raster → Raster) : (s.modRaster n f).bytes = s.bytes := rfl
@[simp] theorem modRaster_get_wave (s : State) (n : Nat) (f : Raster → Raster) (i : Nat) : (s.modRaster n f).wave i = s.wave i := rfl
@[simp] theorem modRaster_get_gang (s : State) (n : Nat) (f : Raster → Raster) (i : Nat) : (s.modRaster n f).gang i = s.gang i := rfl
@[simp] theorem modRaster_get_gangMx (s : State) (n : Nat) (f : Raster → Raster) (i : Nat) : (s.modRaster n f).gangMx i = s.gangMx i := rfl
@[simp] theorem modRaster_get_cluster (s : State) (n : Nat) (f : Raster → Raster) (i : Nat) : (s.modRaster n f).cluster i = s.cluster i := rfl
@[simp] theorem modRaster_get_task (s : State) (n : Nat) (f : Raster → Raster) (i : Nat) : (s.modRaster n f).task i = s.task i := rfl
@[simp] theorem modRaster_get_clause (s : State) (n : Nat) (f : Raster → Raster) (i : Nat) : (s.modRaster n f).clause i = s.clause i := rfl
@[simp] theorem modRaster_get_qp (s : State) (n : Nat) (f : Raster → Raster) (i : Nat) : (s.modRaster n f).qp i = s.qp i := rfl
@[simp] theorem modRaster_readByte (s : State) (n : Nat) (f : Raster → Raster) (a : Nat) : (s.modRaster n f).readByte a = s.readByte a := rfl

/-! ### State.modTask -/

@[simp] theorem modTask_clk (s : State) (n : Nat) (f : Task → Task) : (s.modTask n f).clk = s.clk := rfl
@[simp] theorem modTask_mem (s : State) (n : Nat) (f : Task → Task) : (s.modTask n f).mem = s.mem := rfl
@[simp] theorem modTask_waves (s : State) (n : Nat) (f : Task → Task) : (s.modTask n f).waves = s.waves := rfl
@[simp] theorem modTask_gangs (s : State) (n : Nat) (f : Task → Task) : (s.modTask n f).gangs = s.gangs := rfl
@[simp] theorem modTask_mx (s : State) (n : Nat) (f : Task → Task) : (s.modTask n f).mx = s.mx := rfl
@[simp] theorem modTask_clusters (s : State) (n : Nat) (f : Task → Task) : (s.modTask n f).clusters = s.clusters := rfl
@[simp] theorem modTask_ports (s : State) (n : Nat) (f : Task → Task) : (s.modTask n f).ports = s.ports := rfl
@[simp] theorem modTask_lastIssue (s : State) (n : Nat) (f : Task → Task) : (s.modTask n f).lastIssue = s.lastIssue := rfl
@[simp] theorem modTask_tlbs (s : State) (n : Nat) (f : Task → Task) : (s.modTask n f).tlbs = s.tlbs := rfl
@[simp] theorem modTask_merges (s : State) (n : Nat) (f : Task → Task) : (s.modTask n f).merges = s.merges := rfl
@[simp] theorem modTask_faults (s : State) (n : Nat) (f : Task → Task) : (s.modTask n f).faults = s.faults := rfl
@[simp] theorem modTask_badSectors (s : State) (n : Nat) (f : Task → Task) : (s.modTask n f).badSectors = s.badSectors := rfl
@[simp] theorem modTask_badScratch (s : State) (n : Nat) (f : Task → Task) : (s.modTask n f).badScratch = s.badScratch := rfl
@[simp] theorem modTask_badAcc (s : State) (n : Nat) (f : Task → Task) : (s.modTask n f).badAcc = s.badAcc := rfl
@[simp] theorem modTask_peeks (s : State) (n : Nat) (f : Task → Task) : (s.modTask n f).peeks = s.peeks := rfl
@[simp] theorem modTask_snaps (s : State) (n : Nat) (f : Task → Task) : (s.modTask n f).snaps = s.snaps := rfl
@[simp] theorem modTask_view (s : State) (n : Nat) (f : Task → Task) : (s.modTask n f).view = s.view := rfl
@[simp] theorem modTask_travs (s : State) (n : Nat) (f : Task → Task) : (s.modTask n f).travs = s.travs := rfl
@[simp] theorem modTask_clauses (s : State) (n : Nat) (f : Task → Task) : (s.modTask n f).clauses = s.clauses := rfl
@[simp] theorem modTask_bindings (s : State) (n : Nat) (f : Task → Task) : (s.modTask n f).bindings = s.bindings := rfl
@[simp] theorem modTask_ctxs (s : State) (n : Nat) (f : Task → Task) : (s.modTask n f).ctxs = s.ctxs := rfl
@[simp] theorem modTask_admitted (s : State) (n : Nat) (f : Task → Task) : (s.modTask n f).admitted = s.admitted := rfl
@[simp] theorem modTask_orders (s : State) (n : Nat) (f : Task → Task) : (s.modTask n f).orders = s.orders := rfl
@[simp] theorem modTask_lastPop (s : State) (n : Nat) (f : Task → Task) : (s.modTask n f).lastPop = s.lastPop := rfl
@[simp] theorem modTask_rasters (s : State) (n : Nat) (f : Task → Task) : (s.modTask n f).rasters = s.rasters := rfl
@[simp] theorem modTask_nlSecure (s : State) (n : Nat) (f : Task → Task) : (s.modTask n f).nlSecure = s.nlSecure := rfl
@[simp] theorem modTask_portSecure (s : State) (n : Nat) (f : Task → Task) : (s.modTask n f).portSecure = s.portSecure := rfl
@[simp] theorem modTask_regionSecure (s : State) (n : Nat) (f : Task → Task) : (s.modTask n f).regionSecure = s.regionSecure := rfl
@[simp] theorem modTask_nl (s : State) (n : Nat) (f : Task → Task) : (s.modTask n f).nl = s.nl := rfl
@[simp] theorem modTask_qps (s : State) (n : Nat) (f : Task → Task) : (s.modTask n f).qps = s.qps := rfl
@[simp] theorem modTask_sent (s : State) (n : Nat) (f : Task → Task) : (s.modTask n f).sent = s.sent := rfl
@[simp] theorem modTask_framedeadline (s : State) (n : Nat) (f : Task → Task) : (s.modTask n f).framedeadline = s.framedeadline := rfl
@[simp] theorem modTask_framecfg (s : State) (n : Nat) (f : Task → Task) : (s.modTask n f).framecfg = s.framecfg := rfl
@[simp] theorem modTask_frameOut (s : State) (n : Nat) (f : Task → Task) : (s.modTask n f).frameOut = s.frameOut := rfl
@[simp] theorem modTask_flash (s : State) (n : Nat) (f : Task → Task) : (s.modTask n f).flash = s.flash := rfl
@[simp] theorem modTask_reports (s : State) (n : Nat) (f : Task → Task) : (s.modTask n f).reports = s.reports := rfl
@[simp] theorem modTask_boot (s : State) (n : Nat) (f : Task → Task) : (s.modTask n f).boot = s.boot := rfl
@[simp] theorem modTask_limited (s : State) (n : Nat) (f : Task → Task) : (s.modTask n f).limited = s.limited := rfl
@[simp] theorem modTask_turns (s : State) (n : Nat) (f : Task → Task) : (s.modTask n f).turns = s.turns := rfl
@[simp] theorem modTask_alt (s : State) (n : Nat) (f : Task → Task) : (s.modTask n f).alt = s.alt := rfl
@[simp] theorem modTask_free (s : State) (n : Nat) (f : Task → Task) : (s.modTask n f).free = s.free := rfl
@[simp] theorem modTask_focus (s : State) (n : Nat) (f : Task → Task) : (s.modTask n f).focus = s.focus := rfl
@[simp] theorem modTask_nums (s : State) (n : Nat) (f : Task → Task) : (s.modTask n f).nums = s.nums := rfl
@[simp] theorem modTask_bytes (s : State) (n : Nat) (f : Task → Task) : (s.modTask n f).bytes = s.bytes := rfl
@[simp] theorem modTask_get_wave (s : State) (n : Nat) (f : Task → Task) (i : Nat) : (s.modTask n f).wave i = s.wave i := rfl
@[simp] theorem modTask_get_gang (s : State) (n : Nat) (f : Task → Task) (i : Nat) : (s.modTask n f).gang i = s.gang i := rfl
@[simp] theorem modTask_get_gangMx (s : State) (n : Nat) (f : Task → Task) (i : Nat) : (s.modTask n f).gangMx i = s.gangMx i := rfl
@[simp] theorem modTask_get_cluster (s : State) (n : Nat) (f : Task → Task) (i : Nat) : (s.modTask n f).cluster i = s.cluster i := rfl
@[simp] theorem modTask_get_raster (s : State) (n : Nat) (f : Task → Task) (i : Nat) : (s.modTask n f).raster i = s.raster i := rfl
@[simp] theorem modTask_get_clause (s : State) (n : Nat) (f : Task → Task) (i : Nat) : (s.modTask n f).clause i = s.clause i := rfl
@[simp] theorem modTask_get_qp (s : State) (n : Nat) (f : Task → Task) (i : Nat) : (s.modTask n f).qp i = s.qp i := rfl
@[simp] theorem modTask_readByte (s : State) (n : Nat) (f : Task → Task) (a : Nat) : (s.modTask n f).readByte a = s.readByte a := rfl

/-! ### State.setClause -/

@[simp] theorem setClause_clk (s : State) (e : Nat) (c : Clause) : (s.setClause e c).clk = s.clk := rfl
@[simp] theorem setClause_mem (s : State) (e : Nat) (c : Clause) : (s.setClause e c).mem = s.mem := rfl
@[simp] theorem setClause_waves (s : State) (e : Nat) (c : Clause) : (s.setClause e c).waves = s.waves := rfl
@[simp] theorem setClause_gangs (s : State) (e : Nat) (c : Clause) : (s.setClause e c).gangs = s.gangs := rfl
@[simp] theorem setClause_mx (s : State) (e : Nat) (c : Clause) : (s.setClause e c).mx = s.mx := rfl
@[simp] theorem setClause_clusters (s : State) (e : Nat) (c : Clause) : (s.setClause e c).clusters = s.clusters := rfl
@[simp] theorem setClause_ports (s : State) (e : Nat) (c : Clause) : (s.setClause e c).ports = s.ports := rfl
@[simp] theorem setClause_lastIssue (s : State) (e : Nat) (c : Clause) : (s.setClause e c).lastIssue = s.lastIssue := rfl
@[simp] theorem setClause_tlbs (s : State) (e : Nat) (c : Clause) : (s.setClause e c).tlbs = s.tlbs := rfl
@[simp] theorem setClause_merges (s : State) (e : Nat) (c : Clause) : (s.setClause e c).merges = s.merges := rfl
@[simp] theorem setClause_faults (s : State) (e : Nat) (c : Clause) : (s.setClause e c).faults = s.faults := rfl
@[simp] theorem setClause_badSectors (s : State) (e : Nat) (c : Clause) : (s.setClause e c).badSectors = s.badSectors := rfl
@[simp] theorem setClause_badScratch (s : State) (e : Nat) (c : Clause) : (s.setClause e c).badScratch = s.badScratch := rfl
@[simp] theorem setClause_badAcc (s : State) (e : Nat) (c : Clause) : (s.setClause e c).badAcc = s.badAcc := rfl
@[simp] theorem setClause_peeks (s : State) (e : Nat) (c : Clause) : (s.setClause e c).peeks = s.peeks := rfl
@[simp] theorem setClause_snaps (s : State) (e : Nat) (c : Clause) : (s.setClause e c).snaps = s.snaps := rfl
@[simp] theorem setClause_view (s : State) (e : Nat) (c : Clause) : (s.setClause e c).view = s.view := rfl
@[simp] theorem setClause_travs (s : State) (e : Nat) (c : Clause) : (s.setClause e c).travs = s.travs := rfl
@[simp] theorem setClause_bindings (s : State) (e : Nat) (c : Clause) : (s.setClause e c).bindings = s.bindings := rfl
@[simp] theorem setClause_ctxs (s : State) (e : Nat) (c : Clause) : (s.setClause e c).ctxs = s.ctxs := rfl
@[simp] theorem setClause_tasks (s : State) (e : Nat) (c : Clause) : (s.setClause e c).tasks = s.tasks := rfl
@[simp] theorem setClause_admitted (s : State) (e : Nat) (c : Clause) : (s.setClause e c).admitted = s.admitted := rfl
@[simp] theorem setClause_orders (s : State) (e : Nat) (c : Clause) : (s.setClause e c).orders = s.orders := rfl
@[simp] theorem setClause_lastPop (s : State) (e : Nat) (c : Clause) : (s.setClause e c).lastPop = s.lastPop := rfl
@[simp] theorem setClause_rasters (s : State) (e : Nat) (c : Clause) : (s.setClause e c).rasters = s.rasters := rfl
@[simp] theorem setClause_nlSecure (s : State) (e : Nat) (c : Clause) : (s.setClause e c).nlSecure = s.nlSecure := rfl
@[simp] theorem setClause_portSecure (s : State) (e : Nat) (c : Clause) : (s.setClause e c).portSecure = s.portSecure := rfl
@[simp] theorem setClause_regionSecure (s : State) (e : Nat) (c : Clause) : (s.setClause e c).regionSecure = s.regionSecure := rfl
@[simp] theorem setClause_nl (s : State) (e : Nat) (c : Clause) : (s.setClause e c).nl = s.nl := rfl
@[simp] theorem setClause_qps (s : State) (e : Nat) (c : Clause) : (s.setClause e c).qps = s.qps := rfl
@[simp] theorem setClause_sent (s : State) (e : Nat) (c : Clause) : (s.setClause e c).sent = s.sent := rfl
@[simp] theorem setClause_framedeadline (s : State) (e : Nat) (c : Clause) : (s.setClause e c).framedeadline = s.framedeadline := rfl
@[simp] theorem setClause_framecfg (s : State) (e : Nat) (c : Clause) : (s.setClause e c).framecfg = s.framecfg := rfl
@[simp] theorem setClause_frameOut (s : State) (e : Nat) (c : Clause) : (s.setClause e c).frameOut = s.frameOut := rfl
@[simp] theorem setClause_flash (s : State) (e : Nat) (c : Clause) : (s.setClause e c).flash = s.flash := rfl
@[simp] theorem setClause_reports (s : State) (e : Nat) (c : Clause) : (s.setClause e c).reports = s.reports := rfl
@[simp] theorem setClause_boot (s : State) (e : Nat) (c : Clause) : (s.setClause e c).boot = s.boot := rfl
@[simp] theorem setClause_limited (s : State) (e : Nat) (c : Clause) : (s.setClause e c).limited = s.limited := rfl
@[simp] theorem setClause_turns (s : State) (e : Nat) (c : Clause) : (s.setClause e c).turns = s.turns := rfl
@[simp] theorem setClause_alt (s : State) (e : Nat) (c : Clause) : (s.setClause e c).alt = s.alt := rfl
@[simp] theorem setClause_free (s : State) (e : Nat) (c : Clause) : (s.setClause e c).free = s.free := rfl
@[simp] theorem setClause_focus (s : State) (e : Nat) (c : Clause) : (s.setClause e c).focus = s.focus := rfl
@[simp] theorem setClause_nums (s : State) (e : Nat) (c : Clause) : (s.setClause e c).nums = s.nums := rfl
@[simp] theorem setClause_bytes (s : State) (e : Nat) (c : Clause) : (s.setClause e c).bytes = s.bytes := rfl
@[simp] theorem setClause_get_wave (s : State) (e : Nat) (c : Clause) (i : Nat) : (s.setClause e c).wave i = s.wave i := rfl
@[simp] theorem setClause_get_gang (s : State) (e : Nat) (c : Clause) (i : Nat) : (s.setClause e c).gang i = s.gang i := rfl
@[simp] theorem setClause_get_gangMx (s : State) (e : Nat) (c : Clause) (i : Nat) : (s.setClause e c).gangMx i = s.gangMx i := rfl
@[simp] theorem setClause_get_cluster (s : State) (e : Nat) (c : Clause) (i : Nat) : (s.setClause e c).cluster i = s.cluster i := rfl
@[simp] theorem setClause_get_raster (s : State) (e : Nat) (c : Clause) (i : Nat) : (s.setClause e c).raster i = s.raster i := rfl
@[simp] theorem setClause_get_task (s : State) (e : Nat) (c : Clause) (i : Nat) : (s.setClause e c).task i = s.task i := rfl
@[simp] theorem setClause_get_qp (s : State) (e : Nat) (c : Clause) (i : Nat) : (s.setClause e c).qp i = s.qp i := rfl
@[simp] theorem setClause_readByte (s : State) (e : Nat) (c : Clause) (a : Nat) : (s.setClause e c).readByte a = s.readByte a := rfl

/-! ### State.modQp -/

@[simp] theorem modQp_clk (s : State) (q : Nat) (f : Qp → Qp) : (s.modQp q f).clk = s.clk := rfl
@[simp] theorem modQp_mem (s : State) (q : Nat) (f : Qp → Qp) : (s.modQp q f).mem = s.mem := rfl
@[simp] theorem modQp_waves (s : State) (q : Nat) (f : Qp → Qp) : (s.modQp q f).waves = s.waves := rfl
@[simp] theorem modQp_gangs (s : State) (q : Nat) (f : Qp → Qp) : (s.modQp q f).gangs = s.gangs := rfl
@[simp] theorem modQp_mx (s : State) (q : Nat) (f : Qp → Qp) : (s.modQp q f).mx = s.mx := rfl
@[simp] theorem modQp_clusters (s : State) (q : Nat) (f : Qp → Qp) : (s.modQp q f).clusters = s.clusters := rfl
@[simp] theorem modQp_ports (s : State) (q : Nat) (f : Qp → Qp) : (s.modQp q f).ports = s.ports := rfl
@[simp] theorem modQp_lastIssue (s : State) (q : Nat) (f : Qp → Qp) : (s.modQp q f).lastIssue = s.lastIssue := rfl
@[simp] theorem modQp_tlbs (s : State) (q : Nat) (f : Qp → Qp) : (s.modQp q f).tlbs = s.tlbs := rfl
@[simp] theorem modQp_merges (s : State) (q : Nat) (f : Qp → Qp) : (s.modQp q f).merges = s.merges := rfl
@[simp] theorem modQp_faults (s : State) (q : Nat) (f : Qp → Qp) : (s.modQp q f).faults = s.faults := rfl
@[simp] theorem modQp_badSectors (s : State) (q : Nat) (f : Qp → Qp) : (s.modQp q f).badSectors = s.badSectors := rfl
@[simp] theorem modQp_badScratch (s : State) (q : Nat) (f : Qp → Qp) : (s.modQp q f).badScratch = s.badScratch := rfl
@[simp] theorem modQp_badAcc (s : State) (q : Nat) (f : Qp → Qp) : (s.modQp q f).badAcc = s.badAcc := rfl
@[simp] theorem modQp_peeks (s : State) (q : Nat) (f : Qp → Qp) : (s.modQp q f).peeks = s.peeks := rfl
@[simp] theorem modQp_snaps (s : State) (q : Nat) (f : Qp → Qp) : (s.modQp q f).snaps = s.snaps := rfl
@[simp] theorem modQp_view (s : State) (q : Nat) (f : Qp → Qp) : (s.modQp q f).view = s.view := rfl
@[simp] theorem modQp_travs (s : State) (q : Nat) (f : Qp → Qp) : (s.modQp q f).travs = s.travs := rfl
@[simp] theorem modQp_clauses (s : State) (q : Nat) (f : Qp → Qp) : (s.modQp q f).clauses = s.clauses := rfl
@[simp] theorem modQp_bindings (s : State) (q : Nat) (f : Qp → Qp) : (s.modQp q f).bindings = s.bindings := rfl
@[simp] theorem modQp_ctxs (s : State) (q : Nat) (f : Qp → Qp) : (s.modQp q f).ctxs = s.ctxs := rfl
@[simp] theorem modQp_tasks (s : State) (q : Nat) (f : Qp → Qp) : (s.modQp q f).tasks = s.tasks := rfl
@[simp] theorem modQp_admitted (s : State) (q : Nat) (f : Qp → Qp) : (s.modQp q f).admitted = s.admitted := rfl
@[simp] theorem modQp_orders (s : State) (q : Nat) (f : Qp → Qp) : (s.modQp q f).orders = s.orders := rfl
@[simp] theorem modQp_lastPop (s : State) (q : Nat) (f : Qp → Qp) : (s.modQp q f).lastPop = s.lastPop := rfl
@[simp] theorem modQp_rasters (s : State) (q : Nat) (f : Qp → Qp) : (s.modQp q f).rasters = s.rasters := rfl
@[simp] theorem modQp_nlSecure (s : State) (q : Nat) (f : Qp → Qp) : (s.modQp q f).nlSecure = s.nlSecure := rfl
@[simp] theorem modQp_portSecure (s : State) (q : Nat) (f : Qp → Qp) : (s.modQp q f).portSecure = s.portSecure := rfl
@[simp] theorem modQp_regionSecure (s : State) (q : Nat) (f : Qp → Qp) : (s.modQp q f).regionSecure = s.regionSecure := rfl
@[simp] theorem modQp_nl (s : State) (q : Nat) (f : Qp → Qp) : (s.modQp q f).nl = s.nl := rfl
@[simp] theorem modQp_sent (s : State) (q : Nat) (f : Qp → Qp) : (s.modQp q f).sent = s.sent := rfl
@[simp] theorem modQp_framedeadline (s : State) (q : Nat) (f : Qp → Qp) : (s.modQp q f).framedeadline = s.framedeadline := rfl
@[simp] theorem modQp_framecfg (s : State) (q : Nat) (f : Qp → Qp) : (s.modQp q f).framecfg = s.framecfg := rfl
@[simp] theorem modQp_frameOut (s : State) (q : Nat) (f : Qp → Qp) : (s.modQp q f).frameOut = s.frameOut := rfl
@[simp] theorem modQp_flash (s : State) (q : Nat) (f : Qp → Qp) : (s.modQp q f).flash = s.flash := rfl
@[simp] theorem modQp_reports (s : State) (q : Nat) (f : Qp → Qp) : (s.modQp q f).reports = s.reports := rfl
@[simp] theorem modQp_boot (s : State) (q : Nat) (f : Qp → Qp) : (s.modQp q f).boot = s.boot := rfl
@[simp] theorem modQp_limited (s : State) (q : Nat) (f : Qp → Qp) : (s.modQp q f).limited = s.limited := rfl
@[simp] theorem modQp_turns (s : State) (q : Nat) (f : Qp → Qp) : (s.modQp q f).turns = s.turns := rfl
@[simp] theorem modQp_alt (s : State) (q : Nat) (f : Qp → Qp) : (s.modQp q f).alt = s.alt := rfl
@[simp] theorem modQp_free (s : State) (q : Nat) (f : Qp → Qp) : (s.modQp q f).free = s.free := rfl
@[simp] theorem modQp_focus (s : State) (q : Nat) (f : Qp → Qp) : (s.modQp q f).focus = s.focus := rfl
@[simp] theorem modQp_nums (s : State) (q : Nat) (f : Qp → Qp) : (s.modQp q f).nums = s.nums := rfl
@[simp] theorem modQp_bytes (s : State) (q : Nat) (f : Qp → Qp) : (s.modQp q f).bytes = s.bytes := rfl
@[simp] theorem modQp_get_wave (s : State) (q : Nat) (f : Qp → Qp) (i : Nat) : (s.modQp q f).wave i = s.wave i := rfl
@[simp] theorem modQp_get_gang (s : State) (q : Nat) (f : Qp → Qp) (i : Nat) : (s.modQp q f).gang i = s.gang i := rfl
@[simp] theorem modQp_get_gangMx (s : State) (q : Nat) (f : Qp → Qp) (i : Nat) : (s.modQp q f).gangMx i = s.gangMx i := rfl
@[simp] theorem modQp_get_cluster (s : State) (q : Nat) (f : Qp → Qp) (i : Nat) : (s.modQp q f).cluster i = s.cluster i := rfl
@[simp] theorem modQp_get_raster (s : State) (q : Nat) (f : Qp → Qp) (i : Nat) : (s.modQp q f).raster i = s.raster i := rfl
@[simp] theorem modQp_get_task (s : State) (q : Nat) (f : Qp → Qp) (i : Nat) : (s.modQp q f).task i = s.task i := rfl
@[simp] theorem modQp_get_clause (s : State) (q : Nat) (f : Qp → Qp) (i : Nat) : (s.modQp q f).clause i = s.clause i := rfl
@[simp] theorem modQp_readByte (s : State) (q : Nat) (f : Qp → Qp) (a : Nat) : (s.modQp q f).readByte a = s.readByte a := rfl

/-! ### State.writeMem -/

@[simp] theorem writeMem_clk (s : State) (pa : Nat) (bs : List Byte) : (s.writeMem pa bs).clk = s.clk := rfl
@[simp] theorem writeMem_waves (s : State) (pa : Nat) (bs : List Byte) : (s.writeMem pa bs).waves = s.waves := rfl
@[simp] theorem writeMem_gangs (s : State) (pa : Nat) (bs : List Byte) : (s.writeMem pa bs).gangs = s.gangs := rfl
@[simp] theorem writeMem_mx (s : State) (pa : Nat) (bs : List Byte) : (s.writeMem pa bs).mx = s.mx := rfl
@[simp] theorem writeMem_clusters (s : State) (pa : Nat) (bs : List Byte) : (s.writeMem pa bs).clusters = s.clusters := rfl
@[simp] theorem writeMem_ports (s : State) (pa : Nat) (bs : List Byte) : (s.writeMem pa bs).ports = s.ports := rfl
@[simp] theorem writeMem_lastIssue (s : State) (pa : Nat) (bs : List Byte) : (s.writeMem pa bs).lastIssue = s.lastIssue := rfl
@[simp] theorem writeMem_tlbs (s : State) (pa : Nat) (bs : List Byte) : (s.writeMem pa bs).tlbs = s.tlbs := rfl
@[simp] theorem writeMem_merges (s : State) (pa : Nat) (bs : List Byte) : (s.writeMem pa bs).merges = s.merges := rfl
@[simp] theorem writeMem_faults (s : State) (pa : Nat) (bs : List Byte) : (s.writeMem pa bs).faults = s.faults := rfl
@[simp] theorem writeMem_clauses (s : State) (pa : Nat) (bs : List Byte) : (s.writeMem pa bs).clauses = s.clauses := rfl
@[simp] theorem writeMem_bindings (s : State) (pa : Nat) (bs : List Byte) : (s.writeMem pa bs).bindings = s.bindings := rfl
@[simp] theorem writeMem_ctxs (s : State) (pa : Nat) (bs : List Byte) : (s.writeMem pa bs).ctxs = s.ctxs := rfl
@[simp] theorem writeMem_tasks (s : State) (pa : Nat) (bs : List Byte) : (s.writeMem pa bs).tasks = s.tasks := rfl
@[simp] theorem writeMem_admitted (s : State) (pa : Nat) (bs : List Byte) : (s.writeMem pa bs).admitted = s.admitted := rfl
@[simp] theorem writeMem_orders (s : State) (pa : Nat) (bs : List Byte) : (s.writeMem pa bs).orders = s.orders := rfl
@[simp] theorem writeMem_lastPop (s : State) (pa : Nat) (bs : List Byte) : (s.writeMem pa bs).lastPop = s.lastPop := rfl
@[simp] theorem writeMem_rasters (s : State) (pa : Nat) (bs : List Byte) : (s.writeMem pa bs).rasters = s.rasters := rfl
@[simp] theorem writeMem_nlSecure (s : State) (pa : Nat) (bs : List Byte) : (s.writeMem pa bs).nlSecure = s.nlSecure := rfl
@[simp] theorem writeMem_portSecure (s : State) (pa : Nat) (bs : List Byte) : (s.writeMem pa bs).portSecure = s.portSecure := rfl
@[simp] theorem writeMem_regionSecure (s : State) (pa : Nat) (bs : List Byte) : (s.writeMem pa bs).regionSecure = s.regionSecure := rfl
@[simp] theorem writeMem_nl (s : State) (pa : Nat) (bs : List Byte) : (s.writeMem pa bs).nl = s.nl := rfl
@[simp] theorem writeMem_qps (s : State) (pa : Nat) (bs : List Byte) : (s.writeMem pa bs).qps = s.qps := rfl
@[simp] theorem writeMem_sent (s : State) (pa : Nat) (bs : List Byte) : (s.writeMem pa bs).sent = s.sent := rfl
@[simp] theorem writeMem_framedeadline (s : State) (pa : Nat) (bs : List Byte) : (s.writeMem pa bs).framedeadline = s.framedeadline := rfl
@[simp] theorem writeMem_framecfg (s : State) (pa : Nat) (bs : List Byte) : (s.writeMem pa bs).framecfg = s.framecfg := rfl
@[simp] theorem writeMem_frameOut (s : State) (pa : Nat) (bs : List Byte) : (s.writeMem pa bs).frameOut = s.frameOut := rfl
@[simp] theorem writeMem_flash (s : State) (pa : Nat) (bs : List Byte) : (s.writeMem pa bs).flash = s.flash := rfl
@[simp] theorem writeMem_reports (s : State) (pa : Nat) (bs : List Byte) : (s.writeMem pa bs).reports = s.reports := rfl
@[simp] theorem writeMem_boot (s : State) (pa : Nat) (bs : List Byte) : (s.writeMem pa bs).boot = s.boot := rfl
@[simp] theorem writeMem_limited (s : State) (pa : Nat) (bs : List Byte) : (s.writeMem pa bs).limited = s.limited := rfl
@[simp] theorem writeMem_turns (s : State) (pa : Nat) (bs : List Byte) : (s.writeMem pa bs).turns = s.turns := rfl
@[simp] theorem writeMem_alt (s : State) (pa : Nat) (bs : List Byte) : (s.writeMem pa bs).alt = s.alt := rfl
@[simp] theorem writeMem_free (s : State) (pa : Nat) (bs : List Byte) : (s.writeMem pa bs).free = s.free := rfl
@[simp] theorem writeMem_focus (s : State) (pa : Nat) (bs : List Byte) : (s.writeMem pa bs).focus = s.focus := rfl
@[simp] theorem writeMem_nums (s : State) (pa : Nat) (bs : List Byte) : (s.writeMem pa bs).nums = s.nums := rfl
@[simp] theorem writeMem_bytes (s : State) (pa : Nat) (bs : List Byte) : (s.writeMem pa bs).bytes = s.bytes := rfl
@[simp] theorem writeMem_get_wave (s : State) (pa : Nat) (bs : List Byte) (i : Nat) : (s.writeMem pa bs).wave i = s.wave i := rfl
@[simp] theorem writeMem_get_gang (s : State) (pa : Nat) (bs : List Byte) (i : Nat) : (s.writeMem pa bs).gang i = s.gang i := rfl
@[simp] theorem writeMem_get_gangMx (s : State) (pa : Nat) (bs : List Byte) (i : Nat) : (s.writeMem pa bs).gangMx i = s.gangMx i := rfl
@[simp] theorem writeMem_get_cluster (s : State) (pa : Nat) (bs : List Byte) (i : Nat) : (s.writeMem pa bs).cluster i = s.cluster i := rfl
@[simp] theorem writeMem_get_raster (s : State) (pa : Nat) (bs : List Byte) (i : Nat) : (s.writeMem pa bs).raster i = s.raster i := rfl
@[simp] theorem writeMem_get_task (s : State) (pa : Nat) (bs : List Byte) (i : Nat) : (s.writeMem pa bs).task i = s.task i := rfl
@[simp] theorem writeMem_get_clause (s : State) (pa : Nat) (bs : List Byte) (i : Nat) : (s.writeMem pa bs).clause i = s.clause i := rfl
@[simp] theorem writeMem_get_qp (s : State) (pa : Nat) (bs : List Byte) (i : Nat) : (s.writeMem pa bs).qp i = s.qp i := rfl

/-! ### Reading the part that was changed -/

@[simp] theorem setWave_wave (s : State) (w v : Nat) (x : Wave) :
    (s.setWave w x).wave v = if w = v then x else s.wave v := by simp [State.setWave, State.wave]

@[simp] theorem modWave_wave (s : State) (w v : Nat) (f : Wave → Wave) :
    (s.modWave w f).wave v = if w = v then f (s.wave w) else s.wave v := by simp [State.modWave]

theorem modSplit_eq (s : State) (w k : Nat) (f : Split → Split) :
    s.modSplit w k f = s.modWave w (fun x => x.modSplit k f) := rfl

@[simp] theorem modSplit_wave (s : State) (w v k : Nat) (f : Split → Split) :
    (s.modSplit w k f).wave v = if w = v then (s.wave w).modSplit k f else s.wave v := by simp [modSplit_eq]

@[simp] theorem modGang_gang (s : State) (g j : Nat) (f : Gang → Gang) :
    (s.modGang g f).gang j = if g = j then f (s.gang g) else s.gang j := by simp [State.modGang, State.gang]

@[simp] theorem modMx_gangMx (s : State) (g j : Nat) (f : GangMx → GangMx) :
    (s.modMx g f).gangMx j = if g = j then f (s.gangMx g) else s.gangMx j := by simp [State.modMx, State.gangMx]

@[simp] theorem modCluster_cluster (s : State) (c j : Nat) (f : Cluster → Cluster) :
    (s.modCluster c f).cluster j = if c = j then f (s.cluster c) else s.cluster j := by
  simp [State.modCluster, State.cluster]

@[simp] theorem modRaster_raster (s : State) (n j : Nat) (f : Raster → Raster) :
    (s.modRaster n f).raster j = if n = j then f (s.raster n) else s.raster j := by simp [State.modRaster, State.raster]

@[simp] theorem modTask_task (s : State) (n j : Nat) (f : Task → Task) :
    (s.modTask n f).task j = if n = j then f (s.task n) else s.task j := by simp [State.modTask, State.task]

@[simp] theorem setClause_clause (s : State) (e j : Nat) (c : Clause) :
    (s.setClause e c).clause j = if e = j then c else s.clause j := by simp [State.setClause, State.clause]

@[simp] theorem modQp_qp (s : State) (q j : Nat) (f : Qp → Qp) :
    (s.modQp q f).qp j = if q = j then f (s.qp q) else s.qp j := by simp [State.modQp, State.qp]

/-! ### Wave.modSplit -/

@[simp] theorem Wave.modSplit_life (x : Wave) (k : Nat) (f : Split → Split) : (x.modSplit k f).life = x.life := rfl
@[simp] theorem Wave.modSplit_cluster (x : Wave) (k : Nat) (f : Split → Split) : (x.modSplit k f).cluster = x.cluster := rfl
@[simp] theorem Wave.modSplit_core (x : Wave) (k : Nat) (f : Split → Split) : (x.modSplit k f).core = x.core := rfl
@[simp] theorem Wave.modSplit_slot (x : Wave) (k : Nat) (f : Split → Split) : (x.modSplit k f).slot = x.slot := rfl
@[simp] theorem Wave.modSplit_gang (x : Wave) (k : Nat) (f : Split → Split) : (x.modSplit k f).gang = x.gang := rfl
@[simp] theorem Wave.modSplit_idx (x : Wave) (k : Nat) (f : Split → Split) : (x.modSplit k f).idx = x.idx := rfl
@[simp] theorem Wave.modSplit_role (x : Wave) (k : Nat) (f : Split → Split) : (x.modSplit k f).role = x.role := rfl
@[simp] theorem Wave.modSplit_origin (x : Wave) (k : Nat) (f : Split → Split) : (x.modSplit k f).origin = x.origin := rfl
@[simp] theorem Wave.modSplit_blocks (x : Wave) (k : Nat) (f : Split → Split) : (x.modSplit k f).blocks = x.blocks := rfl
@[simp] theorem Wave.modSplit_v (x : Wave) (k : Nat) (f : Split → Split) : (x.modSplit k f).v = x.v := rfl
@[simp] theorem Wave.modSplit_s (x : Wave) (k : Nat) (f : Split → Split) : (x.modSplit k f).s = x.s := rfl
@[simp] theorem Wave.modSplit_p (x : Wave) (k : Nat) (f : Split → Split) : (x.modSplit k f).p = x.p := rfl
@[simp] theorem Wave.modSplit_h (x : Wave) (k : Nat) (f : Split → Split) : (x.modSplit k f).h = x.h := rfl
@[simp] theorem Wave.modSplit_k (x : Wave) (k : Nat) (f : Split → Split) : (x.modSplit k f).k = x.k := rfl
@[simp] theorem Wave.modSplit_mode (x : Wave) (k : Nat) (f : Split → Split) : (x.modSplit k f).mode = x.mode := rfl
@[simp] theorem Wave.modSplit_counters (x : Wave) (k : Nat) (f : Split → Split) : (x.modSplit k f).counters = x.counters := rfl
@[simp] theorem Wave.modSplit_memb (x : Wave) (k : Nat) (f : Split → Split) : (x.modSplit k f).memb = x.memb := rfl
@[simp] theorem Wave.modSplit_csr (x : Wave) (k : Nat) (f : Split → Split) : (x.modSplit k f).csr = x.csr := rfl
@[simp] theorem Wave.modSplit_board (x : Wave) (k : Nat) (f : Split → Split) : (x.modSplit k f).board = x.board := rfl
@[simp] theorem Wave.modSplit_flight (x : Wave) (k : Nat) (f : Split → Split) : (x.modSplit k f).flight = x.flight := rfl
@[simp] theorem Wave.modSplit_hops (x : Wave) (k : Nat) (f : Split → Split) : (x.modSplit k f).hops = x.hops := rfl
@[simp] theorem Wave.modSplit_seq (x : Wave) (k : Nat) (f : Split → Split) : (x.modSplit k f).seq = x.seq := rfl
@[simp] theorem Wave.modSplit_pend (x : Wave) (k : Nat) (f : Split → Split) : (x.modSplit k f).pend = x.pend := rfl
@[simp] theorem Wave.modSplit_preempt (x : Wave) (k : Nat) (f : Split → Split) : (x.modSplit k f).preempt = x.preempt := rfl
@[simp] theorem Wave.modSplit_preemptLater (x : Wave) (k : Nat) (f : Split → Split) : (x.modSplit k f).preemptLater = x.preemptLater := rfl
@[simp] theorem Wave.modSplit_ra (x : Wave) (k : Nat) (f : Split → Split) : (x.modSplit k f).ra = x.ra := rfl
@[simp] theorem Wave.modSplit_age (x : Wave) (k : Nat) (f : Split → Split) : (x.modSplit k f).age = x.age := rfl
@[simp] theorem Wave.modSplit_readySince (x : Wave) (k : Nat) (f : Split → Split) : (x.modSplit k f).readySince = x.readySince := rfl
@[simp] theorem Wave.modSplit_starving (x : Wave) (k : Nat) (f : Split → Split) : (x.modSplit k f).starving = x.starving := rfl
@[simp] theorem Wave.modSplit_fenceSeq (x : Wave) (k : Nat) (f : Split → Split) : (x.modSplit k f).fenceSeq = x.fenceSeq := rfl
@[simp] theorem Wave.modSplit_died (x : Wave) (k : Nat) (f : Split → Split) : (x.modSplit k f).died = x.died := rfl
@[simp] theorem Wave.modSplit_uncs (x : Wave) (k : Nat) (f : Split → Split) : (x.modSplit k f).uncs = x.uncs := rfl
@[simp] theorem Wave.modSplit_badRegs (x : Wave) (k : Nat) (f : Split → Split) : (x.modSplit k f).badRegs = x.badRegs := rfl
@[simp] theorem Wave.modSplit_badCheckpoint (x : Wave) (k : Nat) (f : Split → Split) : (x.modSplit k f).badCheckpoint = x.badCheckpoint := rfl
@[simp] theorem Wave.modSplit_quads (x : Wave) (k : Nat) (f : Split → Split) : (x.modSplit k f).quads = x.quads := rfl
@[simp] theorem Wave.modSplit_locked (x : Wave) (k : Nat) (f : Split → Split) : (x.modSplit k f).locked = x.locked := rfl

@[simp] theorem Wave.modSplit_length (x : Wave) (k : Nat) (f : Split → Split) :
    (x.modSplit k f).splits.length = x.splits.length := by simp [Wave.modSplit]

/-- Reading a split record after a change of one that the wave has. -/
theorem Wave.modSplit_split (x : Wave) (k j : Nat) (f : Split → Split) (h : k < x.splits.length) :
    (x.modSplit k f).split j = if k = j then f (x.split k) else x.split j := by
  simp only [Wave.modSplit, Wave.split, List.getD_eq_getElem?_getD, List.getElem?_set]
  split <;> simp_all

theorem Wave.modSplit_split_ne (x : Wave) (k j : Nat) (f : Split → Split) (h : k ≠ j) :
    (x.modSplit k f).split j = x.split j := by
  simp [Wave.modSplit, Wave.split, List.getD_eq_getElem?_getD, h]

end Sys2Proof.Machine
end

