-- ==== Sys2Proof/Laws/Issue.lean ====
section
/-! SUPPORT. An instruction that nothing stops: what issuing it answers, and what retirement leaves alone. -/

namespace Sys2Proof.Machine

/-- With no neural call, no token stops an instruction. -/
theorem tokenStop_idle (x : Wave) (p : Pre) (h : x.k = []) : x.tokenStop p = .free := by
  have e : ∀ n, mapGet Token.idle x.k n = Token.idle := by intro n; simp [h, mapGet]
  have hp : ∀ n, x.pendingBy n = none := by
    intro n; simp only [Wave.pendingBy, e, List.find?_eq_none]; intro a _; simp [Token.idle]
  have hm : ∀ l, x.pendingTokens l = [] := by
    intro l; simp only [Wave.pendingTokens, List.filterMap_eq_nil_iff]; intro r _; cases r <;> simp [hp]
  unfold Wave.tokenStop
  simp only [hm, e]
  cases p.holds <;> cases p.token <;> simp [Token.idle, lowestOf]

/-- What an instruction states about itself is met. -/
structure Pre.Fits (p : Pre) (s : State) (f : Focus) : Prop where
  priv : p.priv = true → s.mayPriv f = true
  guard : p.lanes = true → guardBad (s.readMode f.wave) = false
  types : ∀ ts, p.types = some ts → ts.contains (modeType (s.readMode f.wave)) = true
  ok : p.ok = true

theorem calm_iff (s : State) (f : Focus) : s.calm f = true ↔
    s.focus = some f ∧ f.split < (s.wave f.wave).splits.length ∧ (s.wave f.wave).ra = none ∧
    (s.wave f.wave).csr.wavectl.getLsbD 0 = false ∧
    (s.wave f.wave).badRegs = [] ∧ (s.wave f.wave).uncs = [] ∧ (s.wave f.wave).k = [] := by
  simp [State.calm, and_assoc]

theorem quiet_iff (s : State) (f : Focus) : s.quiet f = true ↔
    s.calm f = true ∧ guardBad (s.readMode f.wave) = false := by
  simp [State.quiet]

/-- In a calm context no trap condition of R49, items 5 to 8, is met by an instruction that fits. -/
theorem earlyTrap_calm {s : State} {f : Focus} {p : Pre} (hq : s.calm f = true) (hp : p.Fits s f) :
    earlyTrap s f p = none := by
  obtain ⟨-, -, -, hst, -, -, -⟩ := (calm_iff s f).mp hq
  have hpv : (p.priv && !(s.wave f.wave).csr.handler && !(s.wave f.wave).csr.priv) = false := by
    cases h : p.priv with
    | false => simp
    | true => have := hp.priv h; simp only [State.mayPriv, Bool.or_eq_true] at this; cases this <;> simp_all
  have hgd : (p.lanes && guardBad (s.readMode f.wave)) = false := by
    cases h : p.lanes with
    | false => simp
    | true => simp [hp.guard h]
  unfold earlyTrap
  simp only [hpv, hgd, hp.ok, hst, Bool.not_true, Bool.false_eq_true, if_false]
  cases h : p.types with
  | none => simp
  | some ts => simp only [hp.types ts h, Bool.not_true, Bool.false_eq_true, if_false]

/-- In a calm context nothing but a trap condition of R49 stops an instruction before it executes. -/
theorem preStop_calm {s : State} {f : Focus} (p : Pre) (hq : s.calm f = true) :
    preStop s f p = (earlyTrap s f p).map
      (fun e => (s.issued f).raiseTrap f.wave f.split { cause := e.1, pc := f.pc, arg := e.2 }) := by
  obtain ⟨-, -, -, -, hb, hu, hk⟩ := (calm_iff s f).mp hq
  have h3 : badRead (s.wave f.wave) p = none := by simp [badRead, hb, maskAt]
  have h4 : dueUnc (s.wave f.wave) p = none := by simp [dueUnc, hu]
  simp only [preStop, h3, h4, tokenStop_idle _ _ hk]
  cases h : earlyTrap s f p <;> simp

/-- An instruction that fits, issued in a calm context, has its effect. -/
theorem issue_calm {S : Stall} {pre : Focus → State → Pre} {body : Focus → State → Res} {s : State} {f : Focus}
    (hq : s.calm f = true) (hp : (pre f s).Fits s f) :
    issue S pre body s = .next (s.settleRes f S (pre f s) (body f s)) := by
  obtain ⟨hf, -, hra, -⟩ := (calm_iff s f).mp hq
  simp only [issue, hf, hra, preStop_calm _ hq, earlyTrap_calm hq hp, Option.map_none]

/-- An instruction that meets a trap condition of R49 in a calm context takes that trap. -/
theorem issue_calm_trap {S : Stall} {pre : Focus → State → Pre} {body : Focus → State → Res} {s : State} {f : Focus}
    {c : Nat} {a : Dword} (hq : s.calm f = true) (hp : earlyTrap s f (pre f s) = some (c, a)) :
    issue S pre body s = .next ((s.issued f).raiseTrap f.wave f.split { cause := c, pc := f.pc, arg := a }) := by
  obtain ⟨hf, -, hra, -⟩ := (calm_iff s f).mp hq
  simp only [issue, hf, hra, preStop_calm _ hq, hp, Option.map_some]

/-! ### Retirement -/

theorem retire_rest (s : State) (f : Focus) (S : Stall) (p : Pre) :
    s.retire f S p = { s with
      waves := (s.retire f S p).waves, ports := (s.retire f S p).ports, lastIssue := (s.retire f S p).lastIssue } := rfl

/-- The wave of the context after retirement. -/
theorem retire_wave (s : State) (f : Focus) (S : Stall) (p : Pre) (w : Nat) :
    (s.retire f S p).wave w = if f.wave = w then
      { (s.wave f.wave).modSplit f.split (fun q =>
          { q with next := max q.next (s.nextIssue f.wave f.split S), wait := .none }) with
        readySince := s.clk, starving := false,
        badRegs := tokenErrors p.writes (s.wave f.wave).badRegs }
    else s.wave w := by
  exact modWave_wave s f.wave w (fun x =>
    { x.modSplit f.split (fun q => { q with next := max q.next (s.nextIssue f.wave f.split S), wait := .none }) with
      readySince := s.clk, starving := false, badRegs := tokenErrors p.writes x.badRegs })

end Sys2Proof.Machine
end

