-- ==== Sys2Proof/Laws/Memory.lean ====
section
/-! SUPPORT. Physical memory: what each operation over it leaves in a byte, and that all of them keep its canonical form. -/

namespace Sys2Proof.Machine

/-- Writing bytes gives each of its places its byte and leaves every other place alone. -/
theorem mapGet_memPut (bs : List Byte) (m : List Host.Cell) (pa q : Nat) :
    mapGet 0 (memPut m pa bs) q = if pa ≤ q ∧ q < pa + bs.length then bs.getD (q - pa) 0 else mapGet 0 m q := by
  induction bs generalizing m pa with
  | nil => simp [memPut] <;> omega
  | cons b r ih =>
    rw [memPut, ih, mapGet_mapSet, List.length_cons]
    by_cases h : pa = q
    · subst h; simp <;> omega
    · by_cases h2 : pa + 1 ≤ q ∧ q < pa + 1 + r.length
      · have h3 : pa ≤ q ∧ q < pa + (r.length + 1) := ⟨by omega, by omega⟩
        rw [if_pos h2, if_pos h3, show q - pa = (q - (pa + 1)) + 1 by omega, List.getD_cons_succ]
      · have h3 : ¬ (pa ≤ q ∧ q < pa + (r.length + 1)) := by omega
        rw [if_neg h2, if_neg h3, if_neg h]

theorem memPut_wf (bs : List Byte) (m : List Host.Cell) (pa : Nat) (h : Memory.wf m = true) :
    Memory.wf (memPut m pa bs) = true := by
  induction bs generalizing m pa with
  | nil => exact h
  | cons b r ih => exact ih _ _ (mapSet_wf 0 m pa b h)

theorem writeMem_wf (s : State) (pa : Nat) (bs : List Byte) (h : Memory.wf s.mem = true) :
    Memory.wf (s.writeMem pa bs).mem = true := memPut_wf bs s.mem pa h

theorem writeBy_mem (s : State) (c pa : Nat) (bs : List Byte) : (s.writeBy c pa bs).mem = memPut s.mem pa bs := by
  unfold State.writeBy
  dsimp only
  split <;> rfl

theorem writeBy_wf (s : State) (c pa : Nat) (bs : List Byte) (h : Memory.wf s.mem = true) :
    Memory.wf (s.writeBy c pa bs).mem = true := by
  rw [writeBy_mem]; exact memPut_wf bs s.mem pa h

theorem homeWrite_mem (s : State) (c : Option Nat) (pa : Nat) (bs : List Byte) :
    (s.homeWrite c pa bs).mem = memPut s.mem pa bs := by
  cases c
  · rfl
  · exact writeBy_mem s _ pa bs

theorem homeWrite_wf (s : State) (c : Option Nat) (pa : Nat) (bs : List Byte) (h : Memory.wf s.mem = true) :
    Memory.wf (s.homeWrite c pa bs).mem = true := by
  rw [homeWrite_mem]; exact memPut_wf bs s.mem pa h

theorem putPieces_wf (ps : List (Nat × Nat)) (s : State) (bs : List Byte) (h : Memory.wf s.mem = true) :
    Memory.wf (s.putPieces ps bs).mem = true := by
  induction ps generalizing s bs with
  | nil => exact h
  | cons p r ih => exact ih _ _ (writeMem_wf s _ _ h)

theorem engWrite_wf (s t : State) (sp : Space) (va : Dword) (bs : List Byte) (h : Memory.wf s.mem = true)
    (e : s.engWrite sp va bs = .ok t) : Memory.wf t.mem = true := by
  unfold State.engWrite at e
  split at e
  · cases e
  · cases e; exact putPieces_wf _ _ _ h

theorem fwStore_wf (s : State) (pa : Nat) (bs : List Byte) (h : Memory.wf s.mem = true) :
    Memory.wf (s.fwStore pa bs).mem = true := by
  unfold State.fwStore
  split
  · exact writeMem_wf s pa bs h
  · exact h

/-- A region set to zero lists no byte. -/
theorem zeroRegion_wf (s : State) (n : Nat) (h : Memory.wf s.mem = true) : Memory.wf (s.zeroRegion n).mem = true :=
  mapWf_filter 0 s.mem _ h

/-- Memory lists nothing at reset. -/
theorem reset_memory_listed : State.reset.mem = [] := rfl

end Sys2Proof.Machine
end

