-- ==== Sys2Proof/Laws/Regs.lean ====
section
/-! SUPPORT. Results and the scoreboard: what a register reads once its result is there (R41, R42), and what the writes of
registers leave alone. -/

namespace Sys2Proof.Machine

@[simp] theorem lo_setWidth (x : Word) : Dword.lo (x.setWidth 64) = x := by
  apply BitVec.eq_of_getLsbD_eq
  intro i hi
  simp only [Dword.lo, BitVec.getLsbD_extractLsb', BitVec.getLsbD_setWidth, hi, decide_true, Bool.true_and, Nat.zero_add]
  rw [decide_eq_true (by omega), Bool.true_and]

/-- Where every result that covers the element is readable, the element reads as it stands. -/
theorem earlyVal_settled (s : State) (r : Reg) (lane i : Nat) (old : Producer → Dword) (b : List Producer) (cur : Dword)
    (h : ∀ p ∈ b, p.covers r lane = true → p.ready ≤ s.clk) : earlyVal s r lane i old b cur = cur := by
  induction b generalizing i with
  | nil => rfl
  | cons p b ih =>
    simp only [earlyVal]
    split
    · rw [if_pos (h p List.mem_cons_self ‹_›)]
    · exact ih _ (fun q hq => h q (List.mem_cons_of_mem _ hq))

/-- Where the newest result that covers the element is readable, the element reads as it stands. -/
theorem earlyVal_newest (s : State) (r : Reg) (lane i : Nat) (old : Producer → Dword) (p : Producer) (b : List Producer)
    (cur : Dword) (hc : p.covers r lane = true) (hp : p.ready ≤ s.clk) : earlyVal s r lane i old (p :: b) cur = cur := by
  simp [earlyVal, hc, hp]

theorem produce_wave (s : State) (w k lat : Nat) (r : Reg) (m : Mask) (old : Map Word) (ov : Dword) (v : Nat) :
    (s.produce w k lat r m old ov).wave v = if w = v then
      { s.wave w with board := ((s.produce w k lat r m old ov).wave w).board, badRegs := dropBad r m (s.wave w).badRegs }
    else s.wave v := by
  simp only [State.produce, modWave_wave]
  split
  · subst_vars; simp only [ite_true]
  · rfl

/-- The scoreboard after a result: either the result is on top, or nothing of the register is on its way and it is readable
at the next clk. -/
theorem produce_board (s : State) (w k lat : Nat) (r : Reg) (m : Mask) (old : Map Word) (ov : Dword) :
    (∃ p b, ((s.produce w k lat r m old ov).wave w).board = p :: b ∧ p.reg = r ∧ p.lanes = m ∧ p.ready = s.clk + lat) ∨
    (lat ≤ 1 ∧ ∀ p ∈ ((s.produce w k lat r m old ov).wave w).board, p.reg ≠ r) := by
  simp only [State.produce, modWave_wave, if_true]
  split
  · left; exact ⟨_, _, rfl, rfl, rfl, rfl⟩
  · rename_i h
    right
    simp only [Bool.or_eq_true, decide_eq_true_eq, List.any_eq_true, not_or, not_exists, not_and] at h
    exact ⟨by omega, fun p hp => h.2 p hp⟩

theorem writeS_wave (s : State) (w k lat n : Nat) (x : Word) (v : Nat) :
    (s.writeS w k lat n x).wave v = if w = v then
      { s.wave w with s := mapSet 0 (s.wave w).s n x, board := ((s.writeS w k lat n x).wave w).board,
                      badRegs := dropBad (.s n) (BitVec.allOnes 64) (s.wave w).badRegs,
                      flight := killLanes (s.wave w).ra.isSome (.s n) (BitVec.allOnes 64) (s.wave w).flight }
    else s.wave v := by
  unfold State.writeS
  rw [modWave_wave]
  split
  · subst_vars; rw [modWave_wave, if_pos rfl, produce_wave, if_pos rfl]
  · rename_i h; rw [produce_wave, if_neg h]

theorem writeS_board (s : State) (w k lat n : Nat) (x : Word) :
    ((s.writeS w k lat n x).wave w).board =
      ((s.produce w k lat (.s n) (BitVec.allOnes 64) [] ((mapGet 0 (s.wave w).s n).setWidth 64)).wave w).board := by
  unfold State.writeS
  rw [modWave_wave, if_pos rfl]

/-- After a write's result is on the scoreboard, an element reads as it stands from the clk of its latency on. -/
theorem earlyVal_produced (s t : State) (w k lat : Nat) (r : Reg) (lane : Nat) (m : Mask) (om : Map Word) (ov : Dword)
    (old : Producer → Dword) (cur : Dword) (hm : m.getLsbD lane = true) (c : Nat) (hc : s.clk + lat ≤ c) :
    earlyVal { t with clk := c } r lane 0 old ((s.produce w k lat r m om ov).wave w).board cur = cur := by
  rcases produce_board s w k lat r m om ov with ⟨p, b, h, h1, h2, h3⟩ | ⟨_, h2⟩
  · rw [h]; exact earlyVal_newest _ _ _ _ _ _ _ _ (by simp [Producer.covers, h1, h2, hm]) (by rw [h3]; exact hc)
  · apply earlyVal_settled
    intro p hp hcov
    simp [Producer.covers] at hcov
    exact absurd hcov.1 (h2 p hp)

/-- A scalar register reads its result from the clk of its latency on. -/
theorem reads_writeS (s t : State) (w k lat n : Nat) (x : Word)
    (hb : (t.wave w).board = ((s.writeS w k lat n x).wave w).board) (hs : mapGet 0 (t.wave w).s n = x) :
    t.readsS w n (s.clk + lat) x := by
  intro c hc
  have e : ({ t with clk := c } : State).wave w = t.wave w := rfl
  unfold State.readS
  rw [e, hs, hb, writeS_board, earlyVal_produced s t w k lat (.s n) 0 _ _ _ _ _ (by simp) c hc, lo_setWidth]

theorem writeMode_wave (s : State) (w k lat : Nat) (x : Word) (v : Nat) :
    (s.writeMode w k lat x).wave v = if w = v then
      { s.wave w with mode := x, board := ((s.writeMode w k lat x).wave w).board,
                      badRegs := dropBad .mode (BitVec.allOnes 64) (s.wave w).badRegs } else s.wave v := by
  unfold State.writeMode
  rw [modWave_wave]
  split
  · subst_vars; rw [modWave_wave, if_pos rfl, produce_wave, if_pos rfl]
  · rename_i h; rw [produce_wave, if_neg h]

theorem writeMode_board (s : State) (w k lat : Nat) (x : Word) :
    ((s.writeMode w k lat x).wave w).board =
      ((s.produce w k lat .mode (BitVec.allOnes 64) [] ((s.wave w).mode.setWidth 64)).wave w).board := by
  unfold State.writeMode
  rw [modWave_wave, if_pos rfl]

/-- MODE reads its result from the clk of its latency on. -/
theorem reads_writeMode (s t : State) (w k lat : Nat) (x : Word)
    (hb : (t.wave w).board = ((s.writeMode w k lat x).wave w).board) (hm : (t.wave w).mode = x) :
    t.readsMode w (s.clk + lat) x := by
  intro c hc
  have e : ({ t with clk := c } : State).wave w = t.wave w := rfl
  unfold State.readMode
  rw [e, hm, hb, writeMode_board, earlyVal_produced s t w k lat .mode 0 _ _ _ _ _ (by simp) c hc, lo_setWidth]

/-! ### Vector registers -/

theorem writeV_wave (s : State) (w k lat n : Nat) (m : Mask) (g : Nat → Word) (v : Nat) :
    (s.writeV w k lat n m g).wave v = if w = v then
      { s.wave w with v := (Mask.lanes m).foldl (fun a L => mapSet 0 a (64 * n + L) (g L)) (s.wave w).v,
                      board := ((s.writeV w k lat n m g).wave w).board,
                      badRegs := dropBad (.v n) m (s.wave w).badRegs,
                      flight := killLanes (s.wave w).ra.isSome (.v n) m (s.wave w).flight }
    else s.wave v := by
  unfold State.writeV
  rw [modWave_wave]
  split
  · subst_vars; rw [modWave_wave, if_pos rfl, produce_wave, if_pos rfl]
  · rename_i h; rw [produce_wave, if_neg h]

/-- Reading one lane after lanes of one register were written in turn. -/
theorem mapGet_foldl_lanes (n r L : Nat) (g : Nat → Word) (ls : List Nat) (a : Map Word) (hl : ∀ j ∈ ls, j < 64)
    (hL : L < 64) :
    mapGet 0 (ls.foldl (fun a L => mapSet 0 a (64 * n + L) (g L)) a) (64 * r + L) =
      if r = n ∧ L ∈ ls then g L else mapGet 0 a (64 * r + L) := by
  induction ls generalizing a with
  | nil => simp
  | cons j ls ih =>
    simp only [List.foldl_cons]
    rw [ih _ (fun i hi => hl i (List.mem_cons_of_mem _ hi))]
    have hj := hl j List.mem_cons_self
    by_cases h : r = n ∧ L ∈ ls
    · rw [if_pos h, if_pos ⟨h.1, List.mem_cons_of_mem _ h.2⟩]
    · rw [if_neg h, mapGet_mapSet]
      by_cases hk : 64 * n + j = 64 * r + L
      · have hr : r = n := by omega
        have hjL : j = L := by omega
        subst hjL
        rw [if_pos hk, if_pos ⟨hr, List.mem_cons_self⟩]
      · rw [if_neg hk, if_neg]
        rintro ⟨h1, h2⟩
        rcases List.mem_cons.mp h2 with h2 | h2
        · apply hk; rw [h1, h2]
        · exact h ⟨h1, h2⟩

theorem mem_lanes (m : Mask) (L : Nat) : L ∈ Mask.lanes m ↔ L < 64 ∧ m.getLsbD L = true := by
  simp [Mask.lanes, allLanes]

/-- A lane of a vector register after a write of lanes of one register. -/
theorem vReg_writeV (s : State) (w k lat n : Nat) (m : Mask) (g : Nat → Word) (r L : Nat) (hL : L < 64) :
    (s.writeV w k lat n m g).vReg w r L = if r = n ∧ m.getLsbD L = true then g L else s.vReg w r L := by
  unfold State.vReg
  rw [writeV_wave, if_pos rfl]
  show mapGet 0 (List.foldl _ _ _) _ = _
  rw [mapGet_foldl_lanes n r L g _ _ (fun j hj => ((mem_lanes m j).mp hj).1) hL]
  simp only [mem_lanes, hL, true_and]

end Sys2Proof.Machine
end

