-- ==== Sys2Proof/Laws/Put.lean ====
section
/-! SUPPORT. The writes of destinations, said once: only registers change, and the destination reads its result. -/

namespace Sys2Proof.Machine

/-- What a result's write changes before its instruction retires. -/
structure RegsWritten (s t : State) (w k : Nat) : Prop where
  rest : t = { s with waves := t.waves }
  waves : ∀ v, v ≠ w → t.wave v = s.wave v
  wave : t.wave w = { s.wave w with
    v := (t.wave w).v, s := (t.wave w).s, p := (t.wave w).p, mode := (t.wave w).mode,
    csr := { (s.wave w).csr with fpstat := (t.wave w).csr.fpstat }, board := (t.wave w).board,
    splits := (t.wave w).splits, flight := (t.wave w).flight, badRegs := (t.wave w).badRegs }
  errors : (s.wave w).badRegs = [] → (t.wave w).badRegs = []
  flight : (t.wave w).flight.map Flight.bare = (s.wave w).flight.map Flight.bare
  length : (t.wave w).splits.length = (s.wave w).splits.length
  splits : ∀ j, j ≠ k → (t.wave w).split j = (s.wave w).split j
  split : (t.wave w).split k = { (s.wave w).split k with exec := ((t.wave w).split k).exec }

theorem RegsWritten.refl (s : State) (w k : Nat) : RegsWritten s s w k :=
  ⟨rfl, fun _ _ => rfl, rfl, id, rfl, rfl, fun _ _ => rfl, rfl⟩

theorem RegsWritten.trans {s t u : State} {w k : Nat} (h : RegsWritten s t w k) (g : RegsWritten t u w k) :
    RegsWritten s u w k := by
  refine ⟨?_, fun v hv => (g.waves v hv).trans (h.waves v hv), ?_, g.errors ∘ h.errors, g.flight.trans h.flight, g.length.trans h.length,
    fun j hj => (g.splits j hj).trans (h.splits j hj), ?_⟩
  · rw [g.rest, h.rest]
  · rw [g.wave, h.wave]
  · rw [g.split, h.split]

theorem killLanes_bare (ra : Bool) (r : Reg) (m : Mask) (fs : List Flight) :
    (killLanes ra r m fs).map Flight.bare = fs.map Flight.bare := by
  simp only [killLanes, List.map_map, List.map_inj_left, Function.comp_apply]
  intro a _
  split <;> (try split) <;> rfl

theorem produce_rest (s : State) (w k lat : Nat) (r : Reg) (m : Mask) (old : Map Word) (ov : Dword) :
    s.produce w k lat r m old ov = { s with waves := (s.produce w k lat r m old ov).waves } := rfl

theorem written_produce (s : State) (w k j lat : Nat) (r : Reg) (m : Mask) (old : Map Word) (ov : Dword) :
    RegsWritten s (s.produce w k lat r m old ov) w j := by
  have hw := produce_wave s w k lat r m old ov
  have h := hw w
  rw [if_pos rfl] at h
  refine ⟨rfl, fun v hv => by rw [hw, if_neg (Ne.symm hv)], by rw [h], fun e => by rw [h, e]; rfl, ?_, ?_, ?_, ?_⟩
  · rw [h]
  · rw [h]
  · intro i _; rw [h]; rfl
  · rw [h]; rfl

theorem written_writeS (s : State) (w k j lat n : Nat) (x : Word) : RegsWritten s (s.writeS w k lat n x) w j := by
  have hw := writeS_wave s w k lat n x
  have h := hw w
  rw [if_pos rfl] at h
  refine ⟨rfl, fun v hv => by rw [hw, if_neg (Ne.symm hv)], by rw [h], fun e => by rw [h, e]; rfl, ?_, ?_, ?_, ?_⟩
  · rw [h]; exact killLanes_bare _ _ _ _
  · rw [h]
  · intro i _; rw [h]; rfl
  · rw [h]; rfl

theorem written_writeV (s : State) (w k j lat n : Nat) (m : Mask) (g : Nat → Word) :
    RegsWritten s (s.writeV w k lat n m g) w j := by
  have hw := writeV_wave s w k lat n m g
  have h := hw w
  rw [if_pos rfl] at h
  refine ⟨rfl, fun v hv => by rw [hw, if_neg (Ne.symm hv)], by rw [h], fun e => by rw [h, e]; rfl, ?_, ?_, ?_, ?_⟩
  · rw [h]; exact killLanes_bare _ _ _ _
  · rw [h]
  · intro i _; rw [h]; rfl
  · rw [h]; rfl

theorem written_writeExec (s : State) (w k lat : Nat) (bits m : Mask) (hk : k < (s.wave w).splits.length) :
    RegsWritten s (s.writeExec w k lat bits m) w k := by
  have h := written_produce s w k k lat (.exec k) bits [] ((s.wave w).split k).exec
  refine h.trans ?_
  unfold State.writeExec
  generalize s.produce w k lat (.exec k) bits [] ((s.wave w).split k).exec = t at h ⊢
  have hl : k < (t.wave w).splits.length := by rw [h.length]; exact hk
  refine ⟨rfl, fun v hv => by simp [Ne.symm hv], ?_, ?_, ?_, ?_, ?_, ?_⟩
  · simp only [modSplit_wave, if_true]; rfl
  · intro e; rw [modSplit_wave, if_pos rfl, Wave.modSplit_badRegs]; exact e
  · rw [modSplit_wave, if_pos rfl]; rfl
  · rw [modSplit_wave, if_pos rfl]; simp
  · intro i hi; rw [modSplit_wave, if_pos rfl, Wave.modSplit_split_ne _ _ _ _ (Ne.symm hi)]
  · rw [modSplit_wave, if_pos rfl, Wave.modSplit_split _ _ _ _ hl, if_pos rfl]

theorem written_writeMode (s : State) (w k j lat : Nat) (x : Word) : RegsWritten s (s.writeMode w k lat x) w j := by
  have hw := writeMode_wave s w k lat x
  have h := hw w
  rw [if_pos rfl] at h
  refine ⟨rfl, fun v hv => by rw [hw, if_neg (Ne.symm hv)], by rw [h], fun e => by rw [h, e]; rfl, ?_, ?_, ?_, ?_⟩
  · rw [h]
  · rw [h]
  · intro i _; rw [h]; rfl
  · rw [h]; rfl

theorem written_writeDst (s : State) (w k lat : Nat) (d : Code) (x : Word) (hk : k < (s.wave w).splits.length) :
    RegsWritten s (s.writeDst w k lat d x) w k := by
  unfold State.writeDst
  simp only
  split
  · exact written_writeS _ _ _ _ _ _ _
  · split
    · exact written_writeExec _ _ _ _ _ _ hk
    · split
      · exact written_writeExec _ _ _ _ _ _ hk
      · split
        · exact written_writeMode _ _ _ _ _ _
        · exact .refl _ _ _

/-- After the results, an instruction goes on at the next address and retires: only registers have changed. -/
theorem onlyRegs_retire {s t : State} {f : Focus} (h : RegsWritten s t f.wave f.split)
    (hk : f.split < (s.wave f.wave).splits.length) (hb : (s.wave f.wave).badRegs = []) (S : Stall) (p : Pre) :
    OnlyRegs s ((t.setPc f f.next).retire f S p) f := by
  have hl : f.split < (t.wave f.wave).splits.length := by rw [h.length]; exact hk
  have hx : (t.setPc f f.next).wave f.wave = (t.wave f.wave).modSplit f.split (fun q => { q with pc := f.next }) := by
    unfold State.setPc; rw [modSplit_wave, if_pos rfl]
  have hv : ∀ j, j ≠ f.wave → (t.setPc f f.next).wave j = s.wave j := by
    intro j hj; unfold State.setPc; rw [modSplit_wave, if_neg (Ne.symm hj)]; exact h.waves j hj
  have ht : t.setPc f f.next = { s with waves := (t.setPc f f.next).waves } := by
    have e : t.setPc f f.next = { t with waves := (t.setPc f f.next).waves } := rfl
    rw [e, h.rest]
  generalize t.setPc f f.next = u at hx hv ht ⊢
  have hr := retire_wave u f S p f.wave
  rw [if_pos rfl] at hr
  have hbt : (u.wave f.wave).badRegs = [] := by rw [hx, Wave.modSplit_badRegs]; exact h.errors hb
  have hs : ∀ j, ((u.retire f S p).wave f.wave).split j =
      ((u.wave f.wave).modSplit f.split (fun q =>
        { q with next := max q.next (u.nextIssue f.wave f.split S), wait := .none })).split j := by
    intro j; rw [hr]; rfl
  refine ⟨?_, ?_, ?_, ?_, ?_, ?_⟩
  · rw [retire_rest, ht]
  · intro j hj; rw [retire_wave, if_neg (Ne.symm hj)]; exact hv j hj
  · rw [hr, hbt, hx]
    have h1 := h.wave
    generalize t.wave f.wave = x at h1 ⊢
    generalize s.wave f.wave = y at h1 hb ⊢
    rw [h1]
    cases y
    simp only at hb
    rw [hb]; rfl
  · rw [hr, hx]; exact h.flight
  · intro j hj
    rw [hs, Wave.modSplit_split_ne _ _ _ _ (Ne.symm hj), hx, Wave.modSplit_split_ne _ _ _ _ (Ne.symm hj)]
    exact h.splits j hj
  · rw [hs, Wave.modSplit_split _ _ _ _ (by rw [hx]; simpa using hl), if_pos rfl, hx, Wave.modSplit_split _ _ _ _ hl, if_pos rfl,
      h.split]

/-! ### What stands after retirement -/

theorem done_v (t : State) (f : Focus) (S : Stall) (p : Pre) :
    (((t.setPc f f.next).retire f S p).wave f.wave).v = (t.wave f.wave).v := by
  rw [retire_wave, if_pos rfl]; unfold State.setPc; rw [modSplit_wave, if_pos rfl]; rfl

theorem done_s (t : State) (f : Focus) (S : Stall) (p : Pre) :
    (((t.setPc f f.next).retire f S p).wave f.wave).s = (t.wave f.wave).s := by
  rw [retire_wave, if_pos rfl]; unfold State.setPc; rw [modSplit_wave, if_pos rfl]; rfl

theorem done_p (t : State) (f : Focus) (S : Stall) (p : Pre) :
    (((t.setPc f f.next).retire f S p).wave f.wave).p = (t.wave f.wave).p := by
  rw [retire_wave, if_pos rfl]; unfold State.setPc; rw [modSplit_wave, if_pos rfl]; rfl

theorem done_h (t : State) (f : Focus) (S : Stall) (p : Pre) :
    (((t.setPc f f.next).retire f S p).wave f.wave).h = (t.wave f.wave).h := by
  rw [retire_wave, if_pos rfl]; unfold State.setPc; rw [modSplit_wave, if_pos rfl]; rfl

theorem done_k (t : State) (f : Focus) (S : Stall) (p : Pre) :
    (((t.setPc f f.next).retire f S p).wave f.wave).k = (t.wave f.wave).k := by
  rw [retire_wave, if_pos rfl]; unfold State.setPc; rw [modSplit_wave, if_pos rfl]; rfl

theorem done_mode (t : State) (f : Focus) (S : Stall) (p : Pre) :
    (((t.setPc f f.next).retire f S p).wave f.wave).mode = (t.wave f.wave).mode := by
  rw [retire_wave, if_pos rfl]; unfold State.setPc; rw [modSplit_wave, if_pos rfl]; rfl

theorem done_csr (t : State) (f : Focus) (S : Stall) (p : Pre) :
    (((t.setPc f f.next).retire f S p).wave f.wave).csr = (t.wave f.wave).csr := by
  rw [retire_wave, if_pos rfl]; unfold State.setPc; rw [modSplit_wave, if_pos rfl]; rfl

theorem done_board (t : State) (f : Focus) (S : Stall) (p : Pre) :
    (((t.setPc f f.next).retire f S p).wave f.wave).board = (t.wave f.wave).board := by
  rw [retire_wave, if_pos rfl]; unfold State.setPc; rw [modSplit_wave, if_pos rfl]; rfl

theorem done_memb (t : State) (f : Focus) (S : Stall) (p : Pre) :
    (((t.setPc f f.next).retire f S p).wave f.wave).memb = (t.wave f.wave).memb := by
  rw [retire_wave, if_pos rfl]; unfold State.setPc; rw [modSplit_wave, if_pos rfl]; rfl

theorem done_counters (t : State) (f : Focus) (S : Stall) (p : Pre) :
    (((t.setPc f f.next).retire f S p).wave f.wave).counters = (t.wave f.wave).counters := by
  rw [retire_wave, if_pos rfl]; unfold State.setPc; rw [modSplit_wave, if_pos rfl]; rfl

theorem done_flight (t : State) (f : Focus) (S : Stall) (p : Pre) :
    (((t.setPc f f.next).retire f S p).wave f.wave).flight = (t.wave f.wave).flight := by
  rw [retire_wave, if_pos rfl]; unfold State.setPc; rw [modSplit_wave, if_pos rfl]; rfl

theorem done_exec (t : State) (f : Focus) (S : Stall) (p : Pre) (hl : f.split < (t.wave f.wave).splits.length) :
    ((((t.setPc f f.next).retire f S p).wave f.wave).split f.split).exec = ((t.wave f.wave).split f.split).exec := by
  have hx : (t.setPc f f.next).wave f.wave = (t.wave f.wave).modSplit f.split (fun q => { q with pc := f.next }) := by
    unfold State.setPc; rw [modSplit_wave, if_pos rfl]
  generalize t.setPc f f.next = u at hx ⊢
  have hs : ((u.retire f S p).wave f.wave).split f.split =
      ((u.wave f.wave).modSplit f.split (fun q =>
        { q with next := max q.next (u.nextIssue f.wave f.split S), wait := .none })).split f.split := by
    rw [retire_wave, if_pos rfl]; rfl
  rw [hs, Wave.modSplit_split _ _ _ _ (by rw [hx]; simpa using hl), if_pos rfl, hx, Wave.modSplit_split _ _ _ _ hl, if_pos rfl]

/-! ### Scalar destinations -/

@[simp] theorem writeS_v (s : State) (w k lat n : Nat) (x : Word) : ((s.writeS w k lat n x).wave w).v = (s.wave w).v := by
  rw [writeS_wave, if_pos rfl]

@[simp] theorem writeS_s (s : State) (w k lat n : Nat) (x : Word) :
    ((s.writeS w k lat n x).wave w).s = mapSet 0 (s.wave w).s n x := by rw [writeS_wave, if_pos rfl]

@[simp] theorem writeS_p (s : State) (w k lat n : Nat) (x : Word) : ((s.writeS w k lat n x).wave w).p = (s.wave w).p := by
  rw [writeS_wave, if_pos rfl]

@[simp] theorem writeS_mode (s : State) (w k lat n : Nat) (x : Word) :
    ((s.writeS w k lat n x).wave w).mode = (s.wave w).mode := by rw [writeS_wave, if_pos rfl]

@[simp] theorem writeS_csr (s : State) (w k lat n : Nat) (x : Word) :
    ((s.writeS w k lat n x).wave w).csr = (s.wave w).csr := by rw [writeS_wave, if_pos rfl]

@[simp] theorem writeS_split (s : State) (w k lat n : Nat) (x : Word) (j : Nat) :
    ((s.writeS w k lat n x).wave w).split j = (s.wave w).split j := by rw [writeS_wave, if_pos rfl]; rfl

theorem writeExec_wave (s : State) (w k lat : Nat) (bits m : Mask) :
    (s.writeExec w k lat bits m).wave w =
      { (s.wave w).modSplit k (fun p => { p with exec := m &&& s.arm w k }) with
        board := ((s.writeExec w k lat bits m).wave w).board, badRegs := dropBad (.exec k) bits (s.wave w).badRegs } := by
  unfold State.writeExec
  simp only
  rw [modSplit_wave, if_pos rfl, produce_wave, if_pos rfl]
  rfl

@[simp] theorem writeExec_v (s : State) (w k lat : Nat) (bits m : Mask) : ((s.writeExec w k lat bits m).wave w).v = (s.wave w).v := by
  rw [writeExec_wave]; rfl

@[simp] theorem writeExec_s (s : State) (w k lat : Nat) (bits m : Mask) : ((s.writeExec w k lat bits m).wave w).s = (s.wave w).s := by
  rw [writeExec_wave]; rfl

@[simp] theorem writeExec_p (s : State) (w k lat : Nat) (bits m : Mask) : ((s.writeExec w k lat bits m).wave w).p = (s.wave w).p := by
  rw [writeExec_wave]; rfl

@[simp] theorem writeExec_mode (s : State) (w k lat : Nat) (bits m : Mask) :
    ((s.writeExec w k lat bits m).wave w).mode = (s.wave w).mode := by rw [writeExec_wave]; rfl

@[simp] theorem writeExec_csr (s : State) (w k lat : Nat) (bits m : Mask) :
    ((s.writeExec w k lat bits m).wave w).csr = (s.wave w).csr := by rw [writeExec_wave]; rfl

theorem writeExec_exec (s : State) (w k lat : Nat) (bits m : Mask) (h : k < (s.wave w).splits.length) :
    (((s.writeExec w k lat bits m).wave w).split k).exec = m &&& s.arm w k := by
  have e : ((s.writeExec w k lat bits m).wave w).split k =
      ((s.wave w).modSplit k (fun p => { p with exec := m &&& s.arm w k })).split k := by rw [writeExec_wave]; rfl
  rw [e, Wave.modSplit_split _ _ _ _ h, if_pos rfl]

@[simp] theorem writeMode_v (s : State) (w k lat : Nat) (x : Word) :
    ((s.writeMode w k lat x).wave w).v = (s.wave w).v := by rw [writeMode_wave, if_pos rfl]

@[simp] theorem writeMode_s (s : State) (w k lat : Nat) (x : Word) :
    ((s.writeMode w k lat x).wave w).s = (s.wave w).s := by rw [writeMode_wave, if_pos rfl]

@[simp] theorem writeMode_p (s : State) (w k lat : Nat) (x : Word) :
    ((s.writeMode w k lat x).wave w).p = (s.wave w).p := by rw [writeMode_wave, if_pos rfl]

@[simp] theorem writeMode_mode (s : State) (w k lat : Nat) (x : Word) :
    ((s.writeMode w k lat x).wave w).mode = x := by rw [writeMode_wave, if_pos rfl]

@[simp] theorem writeMode_csr (s : State) (w k lat : Nat) (x : Word) :
    ((s.writeMode w k lat x).wave w).csr = (s.wave w).csr := by rw [writeMode_wave, if_pos rfl]

@[simp] theorem writeMode_split (s : State) (w k lat : Nat) (x : Word) (j : Nat) :
    ((s.writeMode w k lat x).wave w).split j = (s.wave w).split j := by rw [writeMode_wave, if_pos rfl]; rfl

/-- What a 32-bit destination's write does to the register files. -/
theorem writeDst_cases (s : State) (w k lat : Nat) (d : Code) (x : Word) :
    (d.toNat < 96 ∧ s.writeDst w k lat d x = s.writeS w k lat d.toNat x) ∨
    (d = 96 ∧ s.writeDst w k lat d x = s.writeExec w k lat 0xFFFFFFFF#64 (Dword.ofWords x (Dword.hi ((s.wave w).split k).exec))) ∨
    (d = 97 ∧ s.writeDst w k lat d x = s.writeExec w k lat 0xFFFFFFFF00000000#64 (Dword.ofWords (Dword.lo ((s.wave w).split k).exec) x)) ∨
    (d = 98 ∧ s.writeDst w k lat d x = s.writeMode w k lat x) ∨
    (98 < d.toNat ∧ s.writeDst w k lat d x = s) := by
  have hd : ∀ n : Nat, n < 128 → d.toNat = n → d = BitVec.ofNat 7 n := by
    intro n hn h; apply BitVec.eq_of_toNat_eq; rw [h]; simp; omega
  unfold State.writeDst
  simp only
  split
  · exact .inl ⟨‹_›, rfl⟩
  · split
    · exact .inr (.inl ⟨hd 96 (by omega) ‹_›, rfl⟩)
    · split
      · exact .inr (.inr (.inl ⟨hd 97 (by omega) ‹_›, rfl⟩))
      · split
        · exact .inr (.inr (.inr (.inl ⟨hd 98 (by omega) ‹_›, rfl⟩)))
        · exact .inr (.inr (.inr (.inr ⟨by omega, rfl⟩)))

/-- A 32-bit destination written with latency 1 (R31, R41), in the words of the claims. -/
theorem putScalar_done {s : State} {f : Focus} (hq : s.calm f = true) (S : Stall) (p : Pre) (d : Code) (x : Word) :
    PutScalar s (((s.writeDst f.wave f.split 1 d x).setPc f f.next).retire f S p) f d x := by
  obtain ⟨-, hk, -, -, hb, -, -⟩ := (calm_iff s f).mp hq
  have hw := written_writeDst s f.wave f.split 1 d x hk
  have hl : f.split < ((s.writeDst f.wave f.split 1 d x).wave f.wave).splits.length := by rw [hw.length]; exact hk
  refine ⟨onlyRegs_retire hw hk hb S p, ?_, ?_, ?_, ?_, ?_, ?_, ?_, ?_⟩
  · intro n L; unfold State.vReg; rw [done_v]
    rcases writeDst_cases s f.wave f.split 1 d x with ⟨h, e⟩ | ⟨h, e⟩ | ⟨h, e⟩ | ⟨h, e⟩ | ⟨h, e⟩ <;> rw [e] <;> simp
  · intro n hn; unfold State.sReg; rw [done_s]
    rcases writeDst_cases s f.wave f.split 1 d x with ⟨h, e⟩ | ⟨h, e⟩ | ⟨h, e⟩ | ⟨h, e⟩ | ⟨h, e⟩ <;> rw [e] <;> simp
    intro h1; simp [h1] at hn
  · intro n _; unfold State.pReg; rw [done_p]
    rcases writeDst_cases s f.wave f.split 1 d x with ⟨h, e⟩ | ⟨h, e⟩ | ⟨h, e⟩ | ⟨h, e⟩ | ⟨h, e⟩ <;> rw [e] <;> simp
  · intro h
    have e : s.writeDst f.wave f.split 1 d x = s.writeS f.wave f.split 1 d.toNat x := by simp [State.writeDst, h]
    rw [e]
    exact reads_writeS s _ f.wave f.split 1 d.toNat x (done_board _ _ _ _) (by rw [done_s, writeS_s]; simp)
  · rw [done_exec _ _ _ _ hl]
    rcases writeDst_cases s f.wave f.split 1 d x with ⟨h, e⟩ | ⟨h, e⟩ | ⟨h, e⟩ | ⟨h, e⟩ | ⟨h, e⟩ <;> rw [e]
    · rw [writeS_split, if_neg (by rintro rfl; simp at h), if_neg (by rintro rfl; simp at h)]
    · rw [writeExec_exec _ _ _ _ _ _ hk, if_pos h]
    · rw [writeExec_exec _ _ _ _ _ _ hk, if_neg (by rintro rfl; simp at h), if_pos h]
    · rw [if_neg (by rintro rfl; simp at h), if_neg (by rintro rfl; simp at h), writeMode_split]
    · rw [if_neg (by rintro rfl; simp at h), if_neg (by rintro rfl; simp at h)]
  · rw [done_mode]
    rcases writeDst_cases s f.wave f.split 1 d x with ⟨h, e⟩ | ⟨h, e⟩ | ⟨h, e⟩ | ⟨h, e⟩ | ⟨h, e⟩ <;> rw [e]
    · rw [writeS_mode, if_neg (by rintro rfl; simp at h)]
    · rw [writeExec_mode, if_neg (by rintro rfl; simp at h)]
    · rw [writeExec_mode, if_neg (by rintro rfl; simp at h)]
    · rw [if_pos h, writeMode_mode]
    · rw [if_neg (by rintro rfl; simp at h)]
  · intro h
    have e : s.writeDst f.wave f.split 1 d x = s.writeMode f.wave f.split 1 x := by subst h; rfl
    rw [e]
    exact reads_writeMode s _ f.wave f.split 1 x (done_board _ _ _ _) (by rw [done_mode, writeMode_mode])
  · rw [done_csr]
    rcases writeDst_cases s f.wave f.split 1 d x with ⟨h, e⟩ | ⟨h, e⟩ | ⟨h, e⟩ | ⟨h, e⟩ | ⟨h, e⟩ <;> rw [e] <;> simp

end Sys2Proof.Machine
end

