-- ==== Sys2Proof/Laws/Scratch.lean ====
section
/-! SUPPORT. Scratch windows: what reading after a write gives. -/

namespace Sys2Proof.Machine

/-- Writing bytes gives each of its places its byte and leaves every other place alone. -/
theorem mapGet_scrPut (bs : List Byte) (m : Map Byte) (off q : Nat) :
    mapGet 0 (scrPut m off bs) q = if off ≤ q ∧ q < off + bs.length then bs.getD (q - off) 0 else mapGet 0 m q := by
  induction bs generalizing m off with
  | nil => simp [scrPut] <;> omega
  | cons b r ih =>
    rw [scrPut, ih, mapGet_mapSet, List.length_cons]
    by_cases h : off = q
    · subst h; simp <;> omega
    · by_cases h2 : off + 1 ≤ q ∧ q < off + 1 + r.length
      · have h3 : off ≤ q ∧ q < off + (r.length + 1) := ⟨by omega, by omega⟩
        rw [if_pos h2, if_pos h3, show q - off = (q - (off + 1)) + 1 by omega, List.getD_cons_succ]
      · have h3 : ¬ (off ≤ q ∧ q < off + (r.length + 1)) := by omega
        rw [if_neg h2, if_neg h3, if_neg h]

/-- A byte of a window after a write. -/
theorem scratch_scrWrite (s : State) (g off q : Nat) (bs : List Byte) :
    mapGet 0 ((s.scrWrite g off bs).gang g).scratch q =
      if off ≤ q ∧ q < off + bs.length then bs.getD (q - off) 0 else mapGet 0 (s.gang g).scratch q := by
  simp only [State.scrWrite, State.gang, State.modGang, mapGet_mapSet, if_true]
  exact mapGet_scrPut bs _ off q

/-- Bytes written to a window read back. -/
theorem scrRead_scrWrite (s : State) (g off : Nat) (bs : List Byte) : (s.scrWrite g off bs).scrRead g off bs.length = bs := by
  unfold State.scrRead
  apply List.ext_getElem (by simp)
  intro i h1 h2
  rw [List.getElem_map, List.getElem_range, scratch_scrWrite]
  have h3 : off ≤ off + i ∧ off + i < off + bs.length := ⟨by omega, by omega⟩
  rw [if_pos h3, show off + i - off = i by omega, List.getD_eq_getElem?_getD, List.getElem?_eq_getElem h2]
  rfl

end Sys2Proof.Machine
end

