-- ==== Sys2Proof/Machine/Object.lean ====
section
/-! DEFINITION. Objects and images (R54 to R58): the file format, what wnld makes of objects, and the stores by which it loads an
image; and how wnas encodes a written value (R51). -/

namespace Sys2Proof.Machine

/-! ### The file format (R54 to R57) -/

/-- A section (R55): kinds 1 code, 2 data, 3 rodata, 4 bss, 5 scratch. Bss and scratch have no contents. -/
structure ObjSection where
  name : List Byte
  kind : Nat
  alignLog2 : Nat
  size : Nat
  data : List Byte
  addr : Nat
  deriving DecidableEq, Repr

/-- A symbol (R56). -/
structure ObjSymbol where
  name : List Byte
  /-- A section's index; 0xFFFF undefined; 0xFFFE absolute. -/
  section_ : Nat
  global : Bool
  kind : Nat
  value : Nat
  size : Nat
  deriving DecidableEq, Repr

/-- A relocation (R57): kinds 1 OFF15, 2 OFF14, 3 ABS32, 4 ABS64, 5 SCR32. -/
structure ObjReloc where
  section_ : Nat
  kind : Nat
  symbol : Nat
  site : Nat
  site2 : Nat
  addend : Int
  deriving DecidableEq, Repr

/-- An object or an image. -/
structure ObjFile where
  image : Bool
  sections : List ObjSection
  symbols : List ObjSymbol
  relocs : List ObjReloc
  entry : Option Nat
  deriving DecidableEq, Repr

/-- Why wnld rejects its input (R57, R58); a message names the relocation kind, the symbol, the site and the value. -/
inductive LdError where
  /-- A file that is not of the format. -/
  | file
  | undef (name : List Byte)
  | dup (name : List Byte)
  | ovf (kind : Nat) (symbol : List Byte) (site : Nat) (value : Int)
  | align (kind : Nat) (symbol : List Byte) (site : Nat) (value : Int)
  | reloc (kind : Nat)
  deriving DecidableEq, Repr

/-- A kind of section has contents in the file. -/
def kindHasData (kind : Nat) : Bool := decide (kind ≤ 3)

/-- The `n` bytes at an offset, where the file has them. -/
def sliceAt (bs : List Byte) (o n : Nat) : Option (List Byte) :=
  if o + n ≤ bs.length then some ((bs.drop o).take n) else none

/-- A NUL-terminated name in the string table. -/
def nameAt (strs : List Byte) (o : Nat) : Option (List Byte) :=
  let r := strs.drop o
  let n := r.takeWhile (fun b => b ≠ 0)
  if n.length < r.length then some n else none

/-- A signed 64-bit number. -/
def signed64 (n : Nat) : Int := (BitVec.ofNat 64 n).toInt

/-- A section header of 32 bytes (R55). -/
def sectionOfBytes (file strs bs : List Byte) : Option ObjSection :=
  let n := fieldNat bs
  let kind := n 4 2
  let size := n 8 8
  match nameAt strs (n 0 4), (if kindHasData kind then sliceAt file (n 0x10 8) size else some []) with
  | some name, some data =>
    if 1 ≤ kind ∧ kind ≤ 5 ∧ n 6 1 ≤ 16 ∧ n 7 1 = 0 ∧ (kind = 1 → 2 ≤ n 6 1 ∧ size % 4 = 0) ∧
        (kindHasData kind = false → n 0x10 8 = 0) then
      some { name, kind, alignLog2 := n 6 1, size, data, addr := n 0x18 8 }
    else none
  | _, _ => none

/-- A symbol of 24 bytes (R56), of a file of `count` sections. -/
def symbolOfBytes (strs : List Byte) (count : Nat) (bs : List Byte) : Option ObjSymbol :=
  let n := fieldNat bs
  match nameAt strs (n 0 4) with
  | some name =>
    if (n 4 2 < count ∨ n 4 2 = 0xFFFE ∨ n 4 2 = 0xFFFF) ∧ n 6 1 ≤ 1 ∧ n 7 1 ≤ 3 then
      some { name, section_ := n 4 2, global := n 6 1 = 1, kind := n 7 1, value := n 8 8, size := n 0x10 8 }
    else none
  | none => none

/-- A relocation of 24 bytes (R57). -/
def relocOfBytes (bs : List Byte) : ObjReloc :=
  let n := fieldNat bs
  { section_ := n 0 2, kind := n 2 1, symbol := n 4 4, site := n 8 4, site2 := n 12 4, addend := signed64 (n 0x10 8) }

/-- The records of a table of `k` records of `n` bytes. -/
def tableAt (file : List Byte) (o n k : Nat) : Option (List (List Byte)) :=
  if o + n * k ≤ file.length then some ((List.range k).map (fun i => (file.drop (o + n * i)).take n)) else none

/-- Reads a file (R54 to R57). -/
def readObject (file : List Byte) : Except LdError ObjFile :=
  let n := fieldNat file
  if file.length < 64 ∨ n 0 4 ≠ 0x464F4E57 ∨ n 4 2 ≠ 1 ∨ n 6 2 = 0 ∨ 2 < n 6 2 ∨ n 0x3C 4 ≠ 0 ∨ (n 6 2 = 2 ∧ n 0x10 4 ≠ 0) then
    .error .file
  else match sliceAt file (n 0x30 8) (n 0x14 4), tableAt file (n 0x18 8) 32 (n 8 4), tableAt file (n 0x20 8) 24 (n 12 4),
      tableAt file (n 0x28 8) 24 (n 0x10 4) with
    | some strs, some ss, some ys, some rs =>
      (match allSome (ss.map (sectionOfBytes file strs)), allSome (ys.map (symbolOfBytes strs (n 8 4))) with
        | some sections, some symbols =>
          let relocs := rs.map relocOfBytes
          (match relocs.find? (fun r => r.kind = 0 || decide (5 < r.kind)) with
            | some r => .error (.reloc r.kind)
            | none =>
              if relocs.any (fun r => decide (n 8 4 ≤ r.section_) || decide (n 12 4 ≤ r.symbol)) ||
                  rs.any (fun b => fieldNat b 3 1 ≠ 0) || (n 0x38 4 ≠ 0xFFFFFFFF && decide (n 12 4 ≤ n 0x38 4)) then .error .file
              else .ok { image := n 6 2 = 2, sections, symbols, relocs,
                         entry := if n 0x38 4 = 0xFFFFFFFF then none else some (n 0x38 4) })
        | _, _ => .error .file)
    | _, _, _, _ => .error .file

/-- Names one after another, each with its NUL, and the offset of each. -/
def placeNames (names : List (List Byte)) : List Byte × List Nat :=
  names.foldl (fun e x => (e.1 ++ x ++ [0], e.2 ++ [e.1.length])) ([], [])

/-- Writes a file: header, section table, symbols, relocations, names, contents. -/
def writeObject (f : ObjFile) : List Byte :=
  let (strs, offs) := placeNames (f.sections.map ObjSection.name ++ f.symbols.map ObjSymbol.name)
  let ns := f.sections.length
  let ny := f.symbols.length
  let symOff := 64 + 32 * ns
  let relOff := symOff + 24 * ny
  let strOff := relOff + 24 * f.relocs.length
  let start := strOff + strs.length
  let places := (f.sections.foldl (fun e s => (e.1 + s.data.length, e.2 ++ [e.1])) (start, ([] : List Nat))).2
  leBytes 4 0x464F4E57 ++ leBytes 2 1 ++ leBytes 2 (if f.image then 2 else 1) ++ leBytes 4 ns ++ leBytes 4 ny ++
    leBytes 4 f.relocs.length ++ leBytes 4 strs.length ++ leBytes 8 64 ++ leBytes 8 symOff ++ leBytes 8 relOff ++
    leBytes 8 strOff ++ leBytes 4 (f.entry.getD 0xFFFFFFFF) ++ leBytes 4 0 ++
    ((List.range ns).zip f.sections).flatMap (fun e =>
      leBytes 4 (offs.getD e.1 0) ++ leBytes 2 e.2.kind ++ leBytes 1 e.2.alignLog2 ++ leBytes 1 0 ++ leBytes 8 e.2.size ++
        leBytes 8 (if kindHasData e.2.kind then places.getD e.1 0 else 0) ++ leBytes 8 e.2.addr) ++
    ((List.range ny).zip f.symbols).flatMap (fun e =>
      leBytes 4 (offs.getD (ns + e.1) 0) ++ leBytes 2 e.2.section_ ++ leBytes 1 (if e.2.global then 1 else 0) ++
        leBytes 1 e.2.kind ++ leBytes 8 e.2.value ++ leBytes 8 e.2.size) ++
    f.relocs.flatMap (fun r =>
      leBytes 2 r.section_ ++ leBytes 1 r.kind ++ leBytes 1 0 ++ leBytes 4 r.symbol ++ leBytes 4 r.site ++ leBytes 4 r.site2 ++
        leBytes 8 (BitVec.ofInt 64 r.addend).toNat) ++
    strs ++ f.sections.flatMap ObjSection.data

/-! ### Linking (R57, R58) -/

/-- The next multiple of 2^k. -/
def alignUp (n k : Nat) : Nat := (n + 2 ^ k - 1) / 2 ^ k * 2 ^ k

/-- Where an input section went: the merged section, and the offset in it. -/
structure Piece where
  merged : Nat
  off : Nat
  deriving DecidableEq, Repr

/-- A section joins those of its name and kind, aligned (R58). What fills the padding before a piece the spec does not say:
zero bytes, in code too (DESIGN CHOICE, log 59). -/
def mergeOne (e : List ObjSection × List Piece) (s : ObjSection) : List ObjSection × List Piece :=
  match e.1.findIdx? (fun m => m.name = s.name && m.kind = s.kind) with
  | none => (e.1 ++ [{ s with addr := 0 }], e.2 ++ [{ merged := e.1.length, off := 0 }])
  | some i =>
    let m := e.1.getD i s
    let off := alignUp m.size s.alignLog2
    (e.1.set i { m with
        alignLog2 := max m.alignLog2 s.alignLog2, size := off + s.size,
        data := if kindHasData m.kind then m.data ++ List.replicate (off - m.size) 0 ++ s.data else [] },
      e.2 ++ [{ merged := i, off }])

/-- All sections of the objects, in command-line order, merged; and where each went. -/
def mergeSections (objs : List ObjFile) : List ObjSection × List Piece :=
  (objs.flatMap ObjFile.sections).foldl mergeOne ([], [])

/-- Addresses: those that wnld has chosen for code, data, rodata and bss, and offsets from 0 in the scratch window for scratch
sections, in order. -/
def placeSections (addrs : List Nat) (ms : List ObjSection) : List ObjSection :=
  (((List.range ms.length).zip ms).foldl (fun (e : Nat × List ObjSection) m =>
    if m.2.kind = 5 then
      let o := alignUp e.1 m.2.alignLog2
      (o + m.2.size, e.2 ++ [{ m.2 with addr := o }])
    else (e.1, e.2 ++ [{ m.2 with addr := addrs.getD m.1 0 }])) (0, [])).2

/-- Placed sections are aligned, and no two in memory share a byte. -/
def placesOk (ms : List ObjSection) : Bool :=
  let inMem := ms.filter (fun m => m.kind ≠ 5)
  inMem.all (fun m => m.addr % 2 ^ m.alignLog2 = 0) &&
    decide (inMem.Pairwise (fun a b => a.addr + a.size ≤ b.addr ∨ b.addr + b.size ≤ a.addr))

/-- What a link has found: the objects, the placed sections, and where each object's sections went. -/
structure Linking where
  objs : List ObjFile
  sections : List ObjSection
  pieces : List Piece
  deriving DecidableEq, Repr

/-- The piece of section `i` of object `o`. -/
def Linking.piece (l : Linking) (o i : Nat) : Piece :=
  l.pieces.getD (((l.objs.take o).map (fun f => f.sections.length)).sum + i) { merged := 0, off := 0 }

/-- The final address of a place in a section of an object. -/
def Linking.addr (l : Linking) (o i v : Nat) : Nat :=
  let p := l.piece o i
  (l.sections.getD p.merged { name := [], kind := 0, alignLog2 := 0, size := 0, data := [], addr := 0 }).addr + p.off + v

/-- The global definitions of a name: the final address of each. -/
def Linking.globals (l : Linking) (name : List Byte) : List Nat :=
  ((List.range l.objs.length).zip l.objs).flatMap (fun e => e.2.symbols.filterMap (fun y =>
    if y.global && y.name = name && y.section_ ≠ 0xFFFF then
      some (if y.section_ = 0xFFFE then y.value else l.addr e.1 y.section_ y.value)
    else none))

/-- The final address of a symbol of an object: an undefined one has exactly one global definition. Whether the VALUE of an
absolute symbol is signed the spec does not say: the model takes it unsigned (DESIGN CHOICE, log 59). -/
def Linking.symbol (l : Linking) (o : Nat) (y : ObjSymbol) : Except LdError Nat :=
  if y.section_ = 0xFFFE then .ok y.value
  else if y.section_ ≠ 0xFFFF then .ok (l.addr o y.section_ y.value)
  else match l.globals y.name with
    | [] => .error (.undef y.name)
    | [v] => .ok v
    | _ => .error (.dup y.name)

/-- Words of the instruction that begins at an offset of code; one where it is none. -/
def instrWords (data : List Byte) (o : Nat) : Nat :=
  let ws := wordsOfBytes ((data.drop o).take 12)
  match decodeWords ws with
  | .ok (_, r) => ws.length - r.length
  | .error _ => 1

/-- Bytes put into contents at an offset. -/
def patch (data : List Byte) (o : Nat) (bs : List Byte) : List Byte := data.take o ++ bs ++ data.drop (o + bs.length)

/-- A signed field of `n` bits from bit 3 of a word. -/
def patchField (data : List Byte) (o n : Nat) (q : Int) : List Byte :=
  let w := fieldNat data o 4
  let f := (q % 2 ^ n).toNat
  patch data o (leBytes 4 (w / 2 ^ (3 + n) * 2 ^ (3 + n) + f * 8 + w % 8))

/-- The relocation `r` of object `o` (R57): V is the symbol's final address plus ADDEND, P the final address of the site. Of a
branch value that is both out of range and no multiple of 4 the spec does not say which error is reported: the model reports
LDALIGN (DESIGN CHOICE, log 59). -/
def Linking.relocate (l : Linking) (o : Nat) (r : ObjReloc) (y : ObjSymbol) (v0 : Nat) : Except LdError (List ObjSection) :=
  let p := l.piece o r.section_
  match l.sections[p.merged]? with
  | none => .error .file
  | some m =>
    let v : Int := (v0 : Int) + r.addend
    let site := p.off + r.site
    let put := fun (d : List Byte) => Except.ok (l.sections.set p.merged { m with data := d })
    if m.data.length < site + 4 ∨ (r.kind = 4 ∧ m.data.length < p.off + r.site2 + 4) then .error .file
    else if r.kind = 1 ∨ r.kind = 2 then
      let n : Int := ((m.addr + site + 4 * instrWords m.data site : Nat) : Int)
      let bits := if r.kind = 1 then 15 else 14
      if (v - n) % 4 ≠ 0 then .error (.align r.kind y.name r.site (v - n))
      else
        let q := (v - n) / 4
        if q < -2 ^ (bits - 1) ∨ 2 ^ (bits - 1) ≤ q then .error (.ovf r.kind y.name r.site q)
        else put (patchField m.data site bits q)
    else if r.kind = 4 then
      let x := (v % 2 ^ 64).toNat
      put (patch (patch m.data site (leBytes 4 x)) (p.off + r.site2) (leBytes 4 (x / 2 ^ 32)))
    else
      let lo : Int := if r.kind = 3 then -2 ^ 31 else 0
      if v < lo ∨ 2 ^ 32 ≤ v then .error (.ovf r.kind y.name r.site v)
      else put (patch m.data site (leBytes 4 (v % 2 ^ 32).toNat))

/-- All relocations of all objects, in order. -/
def Linking.relocateAll (l : Linking) : List (Nat × ObjReloc) → Except LdError Linking
  | [] => .ok l
  | (o, r) :: rest =>
    match (l.objs[o]?).bind (fun f => f.symbols[r.symbol]?) with
    | none => .error .file
    | some y =>
      match l.symbol o y with
      | .error e => .error e
      | .ok v =>
        match l.relocate o r y v with
        | .error e => .error e
        | .ok sections => { l with sections }.relocateAll rest

/-- The symbols of the image: those of the objects in order, each at its place in a merged section. -/
def Linking.symbols (l : Linking) : List ObjSymbol :=
  ((List.range l.objs.length).zip l.objs).flatMap (fun e => e.2.symbols.map (fun y =>
    if y.section_ = 0xFFFE ∨ y.section_ = 0xFFFF then y
    else { y with section_ := (l.piece e.1 y.section_).merged, value := (l.piece e.1 y.section_).off + y.value }))

/-- The entry symbol. Which object's stands where several name one the spec does not say: the first object's (DESIGN CHOICE,
log 59). -/
def Linking.entry (l : Linking) : Option Nat :=
  ((List.range l.objs.length).zip l.objs).findSome? (fun e =>
    e.2.entry.map (fun i => ((l.objs.take e.1).map (fun f => f.symbols.length)).sum + i))

/-- wnld links objects (R58) at the addresses it has chosen for their merged sections. A rejected link makes no image. -/
def link (addrs : List Nat) (objs : List ObjFile) : Except LdError ObjFile :=
  let (ms, pieces) := mergeSections objs
  let l : Linking := { objs, sections := placeSections addrs ms, pieces }
  if !(placesOk l.sections) then .error .file
  else match ((List.range objs.length).zip objs).findSome? (fun e => e.2.symbols.findSome? (fun y =>
      match l.symbol e.1 y with
      | .error x => some x
      | .ok _ => none)) with
    | some e => .error e
    | none =>
      match l.relocateAll (((List.range objs.length).zip objs).flatMap (fun e => e.2.relocs.map (fun r => (e.1, r)))) with
      | .error e => .error e
      | .ok l => .ok { image := true, sections := l.sections, symbols := l.symbols, relocs := [], entry := l.entry }

/-! ### Loading (R58) -/

/-- The stores of bytes at a virtual address in a space's tables, page by page; none where a page is not there. -/
def loadStores (s : State) (ttbase : Dword) : Nat → Dword → List Byte → Option (List Turn)
  | 0, _, _ => some []
  | fuel + 1, va, bs =>
    if bs.isEmpty then some []
    else
      let n := 65536 - va.toNat % 65536
      match canonical va, walk s ttbase va with
      | true, .page pa _ units =>
        (loadStores s ttbase fuel (va + BitVec.ofNat 64 n) (bs.drop n)).map
          (Turn.fwStore (pa + va.toNat % (65536 * units)) (bs.take n) :: ·)
      | _, _ => none

/-- What a section of an image puts in memory: its contents; zeros for bss; nothing for scratch. -/
def ObjSection.image (m : ObjSection) : List Byte :=
  if m.kind = 4 then List.replicate m.size 0 else if m.kind = 5 then [] else m.data

/-- The stores by which an image comes into the module's memory (R58): no store at all where one of its pages is not there. -/
def loadTurns (s : State) (ttbase : Dword) (img : ObjFile) : Option (List Turn) :=
  (allSome (img.sections.map (fun m =>
    loadStores s ttbase (m.size / 65536 + 2) (BitVec.ofNat 64 m.addr) m.image))).map List.flatten

/-! ### Written values (R51) -/

/-- A value as source text gives it: an integer, or a decimal fraction with a point or an exponent; and whether `=` stands
before it. -/
inductive Written where
  | int (n : Int) (literal : Bool)
  | float (neg : Bool) (num den : Nat) (literal : Bool)
  deriving DecidableEq, Repr

/-- A decimal fraction as F32, rounded RNE. -/
def writtenF32 (neg : Bool) (num den : Nat) : Word :=
  if num = 0 ∨ den = 0 then (if neg then 0x80000000 else 0) else BitVec.ofNat 32 (roundNum fmtF32 envRNE neg num den).1

/-- The inline code of an integer: 0 to 15, −1 and 64. -/
def inlineCode (n : Int) : Option Code :=
  if 0 ≤ n ∧ n ≤ 15 then some (BitVec.ofNat 7 (104 + n.toNat)) else if n = -1 then some 120 else if n = 64 then some 123 else none

/-- The code and literal that wnas chooses for a scalar source (R51, steps 1 to 5); none for an integer that fits no literal. -/
def sourceCode : Written → Option (Code × Option Word)
  | .int n lit =>
    match lit, inlineCode n with
    | false, some c => some (c, none)
    | _, _ => if -2 ^ 31 ≤ n ∧ n < 2 ^ 32 then some (126, some (BitVec.ofInt 32 n)) else none
  | .float neg num den lit =>
    let signed : Int := if neg then -(num : Int) else num
    let whole := if den = 0 ∨ num % den ≠ 0 then none else inlineCode (signed / den)
    match lit, whole with
    | false, some c => if neg ∧ num = 0 then some (126, some (writtenF32 neg num den)) else some (c, none)
    | false, none =>
      if neg = false ∧ 2 * num = den then some (121, none)
      else if neg = false ∧ 4 * num = den then some (122, none)
      else some (126, some (writtenF32 neg num den))
    | true, _ => some (126, some (writtenF32 neg num den))

end Sys2Proof.Machine
end

