-- ==== Sys2Proof/Tests/Slice0.lean ====
section
/-! SUPPORT. Tests: terms that are no instruction, words of the spec that decode, single steps whose results the spec gives, and a
state that meets the hypotheses of each statement. -/

open Sys2Proof Sys2Proof.Machine

namespace Sys2Proof.Tests

set_option Elab.async false

/-! ### Small states -/

/-- The context of the small states: split 0 of wave 0. -/
def f0 : Focus := { wave := 0, split := 0, pc := 0x10000, next := 0x10004 }

/-- Wave 0, privileged, at 0x10000, whose page lies at 0x40000. -/
def one : State := { State.reset.placeWord 32 0 with focus := some f0 }

/-- `one` with its wave changed. -/
def oneBy (g : Wave → Wave) : State := one.modWave 0 g

/-- Scalar registers set. -/
def scalars (l : List (Nat × Word)) (x : Wave) : Wave := { x with s := l.foldl (fun m e => mapSet 0 m e.1 e.2) x.s }

/-- Lanes 0 and on of vector register `n` set. -/
def lanes (n : Nat) (l : List Word) (x : Wave) : Wave :=
  { x with v := (List.range l.length).foldl (fun m L => mapSet 0 m (64 * n + L) (l.getD L 0)) x.v }

/-- EXEC of split 0 set. -/
def execs (m : Mask) (x : Wave) : Wave := x.modSplit 0 (fun p => { p with exec := m })

/-- Bytes put into memory at once, in its canonical form. -/
def putBytes (s : State) (pa : Nat) (bs : List Byte) : State :=
  { s with mem := s.mem.takeWhile (fun c => decide (c.1 < pa)) ++
      (((List.range bs.length).map (pa + ·)).zip bs).filter (fun c => c.2 ≠ 0) ++
      s.mem.dropWhile (fun c => decide (c.1 < pa + bs.length)) }

/-- The state after a step, or the reset state where there is none. -/
def after : Host.Outcome State Fault Refusal → State
  | .next t => t
  | _ => State.reset

/-- s2 = 7, s3 = 5, s4:s5 = 0x1_0000_0010, s6:s7 = 0x10200; EXEC lanes 0 to 2; v1 = 1, 2, 3; v2 = 10, 20, 30. -/
def regs : State := oneBy (fun x => execs 7 (lanes 1 [1, 2, 3] (lanes 2 [10, 20, 30]
  (scalars [(2, 7), (3, 5), (4, 16), (5, 1), (6, 0x10200)] x))))

/-! ### Terms that are no instruction (R27, R48): one for each kind of check -/

theorem test_illformed_literals : (Instr.sadd 0 126 0 0 none).wellFormed = false ∧ (Instr.sadd 0 1 2 0 (some 3)).wellFormed = false ∧
    (Instr.vaddVS 0 0 126 0 none).wellFormed = false ∧ (Instr.ret 126 0 none).wellFormed = false ∧
    (Instr.sadd 0 126 126 0 (some 9)).wellFormed = true := by decide

theorem test_illformed_functions : (Instr.sun 0 0 14 0 none).wellFormed = false ∧ (Instr.vunVV 0 0 24 0).wellFormed = false ∧
    (Instr.vunVV 0 1 26 0).wellFormed = false ∧ (Instr.vcvtVV 0 0 14 0).wellFormed = false ∧ (Instr.vquadVV 0 0 3 0).wellFormed = false ∧
    (Instr.vquadVV 0 0 12 0).wellFormed = false ∧ (Instr.vpfxVV 0 0 3 0).wellFormed = false := by decide

theorem test_illformed_memory : (Instr.ldg 0 0 7 0 0).wellFormed = false ∧ (Instr.stg 0 0 1 0 0).wellFormed = false ∧
    (Instr.stg 0 0 3 0 0).wellFormed = false ∧ (Instr.ldgs 0 0 3 0 0).wellFormed = false ∧
    (Instr.atomg 0 0 0 15 0 0 0 0 0).wellFormed = false ∧ (Instr.atomg 0 0 0 11 0 1 0 0 0).wellFormed = false ∧
    (Instr.atomg 0 0 0 0 0 0 0 1 0).wellFormed = false ∧ (Instr.atomg 0 0 0 0 5 0 0 0 0).wellFormed = false ∧
    (Instr.atoms 0 0 0 0 3 0 0 0 0).wellFormed = false ∧ (Instr.sld 0 0 0 5 0 0 none).wellFormed = false ∧
    (Instr.fetch 0 0 0 3 0).wellFormed = false ∧ (Instr.pref 0 0 2 0 0).wellFormed = false ∧ (Instr.pref 0 0 1 1 0).wellFormed = false ∧
    (Instr.cmaint 0 0 4 0 none).wellFormed = false := by decide

theorem test_illformed_engines : (Instr.cpy 0 0 0 0 0 0 3 0 0 0 none).wellFormed = false ∧ (Instr.pack 0 0 0 0 0 0 0 none).wellFormed = false ∧
    (Instr.mloadw 0 0 0 8 1 0 none).wellFormed = false ∧ (Instr.mstream 0 0 0 0 5 0 0 1 0 none).wellFormed = false ∧
    (Instr.mdrain 0 0 0 0 7 0 0 0 1 0 0 0 none).wellFormed = false ∧ (Instr.mdrain 0 0 0 0 0 7 0 0 1 0 0 0 none).wellFormed = false ∧
    (Instr.mdrain 0 0 0 1 0 1 0 0 1 0 0 0 none).wellFormed = false ∧ (Instr.ncall 0 0 0 0 0 3 0 0 0).wellFormed = false ∧
    (Instr.spawn 0 0 9 0).wellFormed = false ∧ (Instr.spawn 1 0 0 0).wellFormed = false := by decide

theorem test_illformed_units : (Instr.primemit 0 0 3 0 none).wellFormed = false ∧ (Instr.trace 0 0 0 3 0 0 0 0).wellFormed = false ∧
    (Instr.attr 0 0 0 0 0 2 0 0 1 0).wellFormed = false ∧ (Instr.attr 0 0 0 0 0 1 1 0 1 0).wellFormed = false ∧
    (Instr.attr 0 0 0 0 0 0 0 0 0 0).wellFormed = false ∧ (Instr.nlgrid 0 0 2 0).wellFormed = false ∧
    (Instr.nlins 0 0 0 2 0).wellFormed = false := by decide

theorem test_illformed_sync : (Instr.clvote 0 0 0 3 0 0).wellFormed = false ∧ (Instr.clred 0 0 0 9 0 0 0).wellFormed = false ∧
    (Instr.clred 0 0 0 6 1 0 0).wellFormed = false ∧ (Instr.bind 0 0 0 0 5 0 0 none).wellFormed = false ∧
    (Instr.fenceH 0 0).wellFormed = false ∧ (Instr.hmake 0 0 9 0 none).wellFormed = false := by decide

theorem test_illformed_flow : (Instr.bra 1 0 0 0 0).wellFormed = false ∧ (Instr.bra 0 1 0 0 0).wellFormed = false ∧
    (Instr.sramcfg 0 0 3 0 none).wellFormed = false ∧ (Instr.smcPower 0 104 0 0 none).wellFormed = false ∧
    (Instr.smcVersion 0 105 0 0 none).wellFormed = false ∧ (Instr.unassignedEncoding 0).wellFormed = false ∧
    Instr.waveStart.wellFormed = false ∧ (Instr.cycleLatchRead 0 0).wellFormed = false := by decide

/-! ### Words of the spec (R25 to R30, R48): one for each class at least -/

theorem test_decode_scalar : decodeWords [0x00041FF3, 0x12345678] = .ok (.sadd 2 7 126 3 (some 0x12345678), []) := rfl

theorem test_decode_vector : decodeWords [0x2002081B] = .ok (.vaddVV 1 2 3 3, []) ∧
    decodeWords [0x420807F3, 0x40200000] = .ok (.vmulVS 4 1 126 3 (some 0x40200000), []) := ⟨rfl, rfl⟩

theorem test_decode_memory : decodeWords [0x60020C29] = .ok (.ldg 1 3 0 5 1, []) ∧
    decodeWords [0x6B184021, 0] = .ok (.fetch 12 16 4 0 1, []) ∧ decodeWords [0x6C000000] = .error .truncated := ⟨rfl, rfl, rfl⟩

theorem test_decode_sync : decodeWords [0xAD002C02] = .ok (.gbar 11 2, []) ∧ decodeWords [0xAD000001] = .ok (.gbar 0 1, []) := ⟨rfl, rfl⟩

theorem test_decode_flow : decodeWords [0xC0A3FFB9] = .ok (.bra 10 0 0 0x7FF7 1, []) ∧
    decodeWords [0xC8000421] = .ok (.setmode 0x84 1, []) := ⟨rfl, rfl⟩

theorem test_decode_system : decodeWords [0xE1000001] = .ok (.rte 1, []) ∧ decodeWords [0xF0000001] = .ok (.park 1, []) ∧
    decodeWords [0xF0000009] = .error .reserved ∧ decodeWords [0x70000000] = .ok (.unassignedEncoding 0x70000000, []) :=
  ⟨rfl, rfl, rfl, rfl⟩

theorem test_encode_is_the_words : encode (.vaddVV 1 2 3 3) = [0x2002081B] ∧
    encode (.sadd 2 7 126 3 (some 0x12345678)) = [0x00041FF3, 0x12345678] := ⟨rfl, rfl⟩

/-- `step` runs a placed instruction. -/
theorem test_step_runs_the_placed_word :
    ((after (step (State.reset.withFetchWord 32 0x2002081B))).wave 0).splits.length = 5 ∧
    (((after (step (State.reset.withFetchWord 32 0x2002081B))).wave 0).split 0).pc = 0x10004 := by decide

/-- An ALU word at a placed page: fetch, pick and decode all succeed (the premises of StepRunsTheDecodedInstruction). -/
theorem test_witness_step : let s := State.reset.withFetchWord 32 0x2002081B
    let u : State := { s.fresh with turns := [] }
    s.turns = [.issue 0] ∧ s.boot = .runtime ∧ u.pick 0 = some (0, 0, 0) ∧ u.fetch 0 0 = .ok (.vaddVV 1 2 3 3) 1 :=
  ⟨rfl, by decide, by decide, rfl⟩

theorem test_witness_event_turn : let s : State := { State.reset with turns := [.event .frameDrop [] []] }
    s.turns = .event .frameDrop [] [] :: [] ∧ Instr.isEvent .frameDrop = true := ⟨rfl, rfl⟩

theorem test_witness_encoding : (Instr.sadd 2 7 126 3 (some 0x12345678)).WellFormed ∧
    decodeWords [0x00041FF3, 0x12345678, 1] = .ok (.sadd 2 7 126 3 (some 0x12345678), [1]) := ⟨rfl, rfl⟩

/-- Memory in its canonical form, and tables of their sizes, in a state that takes a step. -/
theorem test_witness_invariants : let s := State.reset.withFetchWord 32 0x2002081B
    s.MemoryWf ∧ s.TablesWf ∧ (after (step s)).orders = s.orders := by
  refine ⟨by show Memory.wf _ = true; decide, ⟨?_, ?_, ?_, by decide⟩, by decide⟩
  · rintro (_ | w)
    · exact .inr rfl
    · exact .inl rfl
  · rintro (_ | w)
    · rfl
    · rfl
  · rintro (_ | w) r h
    · cases h
    · cases h

/-! ### Registers and flow of control: results by hand from the rules, and the statements' hypotheses -/

/-- R80: 7 + 5, and 5 − 7 modulo 2^32. -/
theorem test_sadd : (after (exec (.sadd 1 2 3 0 none) regs)).sReg 0 1 = 12 ∧
    (after (exec (.ssub 1 3 2 0 none) regs)).sReg 0 1 = 0xFFFFFFFE := by decide

/-- R82: 7 = 111b has 3 ones; R83: the pair 0x1_0000_0010 doubled; R31: −1 is code 120. -/
theorem test_sun_and_pairs : (after (exec (.sun 1 2 3 0 none) regs)).sReg 0 1 = 3 ∧
    (after (exec (.sadd64 8 4 4 0 none) regs)).sReg 0 8 = 32 ∧ (after (exec (.sadd64 8 4 4 0 none) regs)).sReg 0 9 = 2 := by decide

/-- R109 in I32: lanes 0 to 2 of v3 get the sums, and lane 3, which EXEC leaves out, keeps 0. -/
theorem test_vadd : let t := after (exec (.vaddVV 3 1 2 0) regs)
    [t.vReg 0 3 0, t.vReg 0 3 1, t.vReg 0 3 2, t.vReg 0 3 3] = [11, 22, 33, 0] := by decide

/-- R113, R35: v1 < 3 in lanes 0 and 1 only; only the bits of ACTIVE are written. -/
theorem test_vclt : (after (exec (.vcltVS 1 1 107 0 none) regs)).pReg 0 1 = 3 := by decide

/-- R120: every lane reads lane 2; R121: the first active lane is lane 0. -/
theorem test_vshuf_vrfirst : (after (exec (.vshufVS 3 2 106 0 none) regs)).vReg 0 3 1 = 30 ∧
    (after (exec (.vrfirst 1 2 0) regs)).sReg 0 1 = 10 := by decide

/-- R109 in F32 (MODE.TYPE 4): 1.5 + 2.25 = 3.75. -/
theorem test_vadd_f32 : let s := oneBy (fun x => lanes 1 [0x3FC00000] (lanes 2 [0x40100000] { x with mode := 4 }))
    (after (exec (.vaddVV 3 1 2 0) s)).vReg 0 3 0 = 0x40700000 := by decide

theorem test_witness_scalar : regs.calm f0 = true ∧ dstOk 1 = true ∧ srcOk false 2 = true ∧ srcOk false 126 = true ∧
    litOnce [2, 126] = true ∧ dstBad 1 (regs.readSrc 0 0 (some 3) 2 + regs.readSrc 0 0 (some 3) 126) = false ∧
    pairSrcOk false 4 = true ∧ pairDstOk 8 = true ∧ predDstOk 8 = true ∧ predSrcOk 64 = true := by decide

/-- Destinations at the ends of their range: s0, s95, EXEC, MODE with a value it takes, NULL. -/
theorem test_witness_scalar_destinations : (∀ d ∈ [0, 95, 96, 97, 98, 127], dstOk d = true) ∧ dstBad 98 (12 : Word) = false ∧
    dstBad 98 (0x1FFF : Word) = false ∧ dstBad 98 (0x2000 : Word) = true ∧ (after (exec (.sadd 98 2 3 0 none) regs)).wave 0 ≠ regs.wave 0 ∧
    ((after (exec (.sadd 98 2 3 0 none) regs)).wave 0).mode = 12 := by decide

/-- A written EXEC keeps ARM's lanes; NULL discards (R31, R87). -/
theorem test_exec_and_null : (((after (exec (.smov 96 107 0 none) regs)).wave 0).split 0).exec = 3 ∧
    ((after (exec (.smov 127 107 0 none) regs)).wave 0).s = (regs.wave 0).s := by decide

theorem test_witness_scalar_traps : (dstOk 99 && srcOk false 2 && srcOk false 3 && litOnce [2, 3]) = false ∧
    (dstOk 1 && srcOk false 126 && srcOk false 126 && litOnce [126, 126]) = false ∧ regs.calm f0 = true ∧
    ((after (exec (.sadd 99 2 3 0 none) regs)).wave 0).csr.trapcause = 2 ∧
    2 ^ 13 ≤ (regs.readSrc 0 0 (some 0x4000) 126).toNat ∧ 2 ^ 13 ≤ (regs.readSrc 0 0 (some 0x4000) 126 + 7).toNat := by decide

theorem test_witness_reserved_guard : let s := oneBy (fun x => { x with mode := 0x10 })
    s.calm f0 = true ∧ guardBad (s.wave 0).mode = true := by decide

/-- R68, R69: +inf + −inf raises IO, which FPEN's bit 0 enables; lane 0 is the lowest ACTIVE lane that raised it. -/
theorem test_witness_flag_trap : let s := oneBy (fun x => execs 1 (lanes 1 [0x7F800000] (lanes 2 [0xFF800000]
      { x with mode := 4, csr := { x.csr with wavectl := 0x100 } })))
    s.quiet f0 = true ∧ modeType (s.wave 0).mode < 12 ∧ vOk (s.wave 0) 3 1 = true ∧ (s.active 0 0).getLsbD 0 = true ∧
    (byElems 4 (addElem (modeEnv 4) 4) (s.readVn 0 1 1 0) (s.readVn 0 1 2 0) 0).2 &&& (s.wave 0).fpen = 1 ∧
    ((after (exec (.vaddVV 3 1 2 0) s)).wave 0).csr.trapcause = 0x0E ∧
    ((after (exec (.vaddVV 3 1 2 0) s)).wave 0).csr.traparg = 1 := by decide

theorem test_witness_vector : regs.quiet f0 = true ∧ (regs.wave 0).fpen = 0 ∧ modeType (regs.wave 0).mode = 0 ∧ tyRegs 0 = 1 ∧
    vOk (regs.wave 0) 0 1 = true ∧ vOk (regs.wave 0) 127 1 = true ∧ typedOk 0 126 = true ∧ litOnce [126] = true ∧
    regs.active 0 0 = 7 := by decide

/-- The types that a clause of the statement on arithmetic takes, each in a state of its own. -/
theorem test_witness_vector_types : ∀ t ∈ [0, 1, 2, 3, 4, 5, 6, 7, 8, 9, 10, 11, 12, 13],
    let s := oneBy (fun x => { x with mode := BitVec.ofNat 32 t })
    s.quiet f0 = true ∧ (s.wave 0).fpen = 0 ∧ modeType (s.wave 0).mode = t ∧ vOk (s.wave 0) 2 (tyRegs t) = true ∧ typedOk t 126 = true := by
  decide

theorem test_witness_elements : (0 : Nat) ∈ [0, 1, 2, 3, 8, 9, 10, 11] ∧ 2 ^ 31 < 2 ^ tyWidth 0 ∧ 2 ^ 64 - 1 < 2 ^ tyWidth 2 ∧
    127 < 2 ^ tyWidth 11 ∧ (addElem { rm := 0, sat := false, ftz := false } 0 (2 ^ 31 - 1) 1 0).1 = 2 ^ 31 ∧
    (addElem { rm := 0, sat := true, ftz := false } 0 (2 ^ 31 - 1) 1 0).1 = 2 ^ 31 - 1 := by decide

theorem test_witness_nan : (decodeNum fmtF32 0x7F800001).isNan = true ∧ (decodeNum fmtF64 0xFFF8000000000001).isNan = true ∧
    (decodeNum fmtF16 0x7C01).isNan = true ∧ (decodeNum fmtBF16 0xFFFF).isNan = true := by decide

theorem test_witness_moves : regs.quiet f0 = true ∧ vOk (regs.wave 0) 3 1 = true ∧ srcOk false 126 = true ∧ litOnce [126] = true ∧
    (∀ p : Code, p ∈ [0, 1, 2, 4, 7] → p.toNat ∈ [0, 1, 2, 4, 5, 6, 7]) ∧
    [0, 1, 2, 3].map (fun L => (after (exec (.vquadVV 3 2 0 0) regs)).vReg 0 3 L) = [20, 10, 0, 0] := by decide

theorem test_witness_quad : let s := oneBy (fun x => lanes 1 [0x3F800000, 0x40400000, 0x40A00000, 0x41100000] { x with mode := 4 })
    s.quiet f0 = true ∧ (s.wave 0).fpen = 0 ∧ modeType (s.wave 0).mode ∈ [4, 6, 7] ∧ vOk (s.wave 0) 3 1 = true ∧
    vOk (s.wave 0) 1 1 = true ∧ typedOk 4 126 = true ∧
    [8, 9, 10, 11].map (fun p => (after (exec (.vquadVV 3 1 p 0) s)).vReg 0 3 2) = [0x40800000, 0x40800000, 0x40000000, 0x40800000] := by
  decide

theorem test_witness_compare : regs.quiet f0 = true ∧ (regs.wave 0).fpen = 0 ∧ (8 : Code).toNat < 9 ∧ modeType (regs.wave 0).mode < 6 ∧
    vOk (regs.wave 0) 1 1 = true ∧ typedOk 0 107 = true := by decide

/-- R114: the class of +0 is 6, of −inf 2. -/
theorem test_witness_class : let s := oneBy (fun x => execs 3 (lanes 1 [0, 0xFF800000] { x with mode := 4 }))
    s.quiet f0 = true ∧ modeType (s.wave 0).mode = 4 ∧ vOk (s.wave 0) 1 1 = true ∧
    (after (exec (.vclassVS 1 1 126 0 (some 0x40)) s)).pReg 0 1 = 1 ∧ (after (exec (.vclassVS 1 1 126 0 (some 4)) s)).pReg 0 1 = 2 := by
  decide

theorem test_witness_vun : let s := oneBy (fun x => execs 3 (lanes 1 [0x40800000, 0xC1100000] { x with mode := 4 }))
    s.quiet f0 = true ∧ (s.wave 0).fpen = 0 ∧ vOk (s.wave 0) 3 1 = true ∧ (litOnce [126] && typedOk 4 126) = true ∧
    (after (exec (.vunVV 3 1 1 0) s)).vReg 0 3 1 = 0x41100000 ∧ (after (exec (.vunVV 3 0 26 0) s)).vReg 0 3 1 = 1 := by decide

/-- R117: I32 3 to F32 3.0. -/
theorem test_witness_vcvt : let s := oneBy (fun x => execs 1 (lanes 1 [3] { x with mode := 4 }))
    s.quiet f0 = true ∧ (s.wave 0).fpen = 0 ∧ vOk (s.wave 0) 3 1 = true ∧ vOk (s.wave 0) 1 1 = true ∧ typedOk 0 126 = true ∧
    (after (exec (.vcvtVV 3 1 0 0) s)).vReg 0 3 0 = 0x40400000 := by decide

/-- R122: 1, 1 + 2, 1 + 2 + 3. -/
theorem test_witness_prefix : regs.quiet f0 = true ∧ (regs.wave 0).fpen = 0 ∧ modeType (regs.wave 0).mode < 5 ∧ (2 : Code).toNat < 3 ∧
    vOk (regs.wave 0) 3 1 = true ∧
    [0, 1, 2].map (fun L => (after (exec (.vpfxVV 3 1 0 0) regs)).vReg 0 3 L) = [1, 3, 6] := by decide

theorem test_witness_lane_moves : regs.quiet f0 = true ∧ regs.active 0 0 ≠ 0 ∧ (oneBy (execs 0)).active 0 0 = 0 ∧
    (oneBy (execs 0)).quiet f0 = true ∧ dstOk 1 = true ∧ vOk (regs.wave 0) 2 1 = true ∧
    dstBad 1 (regs.readV 0 2 0) = false ∧ (after (exec (.vwlane 3 126 106 0 (some 9)) regs)).vReg 0 3 2 = 9 ∧
    dstOk 98 = true ∧ dstBad 98 (regs.readV 0 1 0) = false ∧ ((after (exec (.vrfirst 98 1 0) regs)).wave 0).mode = 1 := by decide

/-! #### Flow of control -/

/-- p1 holds in lane 0 of EXEC's lanes 0 to 2. -/
def pred : State := oneBy (fun x => { execs 7 x with p := [(1, 1)] })

theorem test_witness_branch : pred.calm f0 = true ∧ f0.split < 4 ∧ (pred.wave 0).splits.length = 5 ∧
    (pred.wave 0).csr.handler = false ∧
    pred.readExec 0 0 &&& pred.readP 0 1 = 1 ∧ pred.readExec 0 0 &&& ~~~ (pred.readP 0 1) = 6 ∧
    ((pred.wave 0).split 1).state = 0 ∧
    (((after (exec (.bra 9 0 0 4 0) pred)).wave 0).split 0).pc = 0x10014 ∧
    (((after (exec (.bra 9 0 0 4 0) pred)).wave 0).split 1).pc = 0x10004 ∧
    (((after (exec (.bra 9 0 0 4 0) pred)).wave 0).split 1).own = 6 := by decide

/-- With no split FREE the other arm goes to a P entry; with 32 entries there is no room for it. -/
theorem test_witness_branch_full : let full := fun (d : Nat) => pred.modWave 0 (fun x =>
      ((x.modSplit 0 (fun p => { p with depth := d })).modSplit 1 (fun p => { p with state := 1 })).modSplit 2 (fun p =>
        { p with state := 1 }) |>.modSplit 3 (fun p => { p with state := 1 }))
    (full 0).calm f0 = true ∧ (∀ k, k < 4 → (((full 0).wave 0).split k).state ≠ 0) ∧ (((full 0).wave 0).split 0).depth < 8 ∧
    (((after (exec (.bra 9 0 0 4 0) (full 0))).wave 0).split 0).depth = 1 ∧ (((full 32).wave 0).split 0).depth = 32 ∧
    (full 32).calm f0 = true ∧ (full 32).readExec 0 0 &&& (full 32).readP 0 1 = 1 ∧
    ((after (exec (.bra 9 0 0 4 0) (full 32))).wave 0).csr.trapcause = 15 := by decide

/-- R98: s3 = 5 is no zero, the literal 0 is one. -/
theorem test_witness_scalar_branch : regs.calm f0 = true ∧ srcOk false 126 = true ∧
    (((after (exec (.braz 3 4 0 none) regs)).wave 0).split 0).pc = 0x10004 ∧
    (((after (exec (.braz 126 4 0 (some 0)) regs)).wave 0).split 0).pc = 0x10014 ∧
    (((after (exec (.branz 3 4 0 none) regs)).wave 0).split 0).pc = 0x10014 := by decide

theorem test_witness_ret : (6 : Code).toNat < 95 ∧ (6 : Code).toNat % 2 = 0 ∧ (regs.readPair 0 0 none 6).toNat % 4 = 0 ∧
    (((after (exec (.ret 6 0 none) regs)).wave 0).split 0).pc = 0x10200 ∧
    (regs.readPair 0 0 none 2).toNat % 4 = 3 ∧ ((after (exec (.ret 2 0 none) regs)).wave 0).csr.trapcause = 5 ∧
    (((after (exec (.jmpi 6 107 0 none) regs)).wave 0).split 0).pc = 0x1020C := by decide

theorem test_witness_call : regs.calm f0 = true ∧ (after (exec (.call 4 0) regs)).sReg 0 94 = 0x10004 ∧
    ((after (exec (.setmode 0x84 0) regs)).wave 0).mode = 0x84 ∧ (0x1FFF : BitVec 21).toNat < 2 ^ 13 ∧
    2 ^ 13 ≤ (0x2000 : BitVec 21).toNat ∧ ((after (exec (.setmode 0x2000 0) regs)).wave 0).csr.trapcause = 1 := by decide

/-- A stack of `d` entries with the last on top. -/
def stacked (d : Nat) (e : Entry) (x : Wave) : Wave :=
  x.modSplit 0 (fun p => { p with depth := d, stack := mapSet Entry.zero p.stack (d - 1) e })

/-- An entry J of EXEC whose join is at `pc` (R89, R90). -/
def joinEntry (m : Mask) (pc : Dword) : Entry := { mask := m, word := pc ||| 1 }

theorem test_witness_setj : (oneBy (stacked 1 (joinEntry 3 0x10000))).calm f0 = true ∧ f0.split < 4 ∧
    ((one.wave 0).split 0).depth = 0 ∧ (((oneBy (stacked 32 (joinEntry 3 0))).wave 0).split 0).depth = 32 ∧
    ((after (exec (.setj 4 0) (oneBy (stacked 32 (joinEntry 3 0))))).wave 0).csr.trapcause = 15 ∧
    (((after (exec (.setj 4 0) one)).wave 0).split 0).depth = 1 := by decide

/-- With 8 entries in the core, and SAVEAREA of a page that can be written, the bottom one goes to the spill region. -/
theorem test_witness_spill : let s := oneBy (fun x => { stacked 8 (joinEntry 3 0x10000) x with
      csr := { x.csr with savearea := 0x11000, savesize := 0x8000 } })
    s.calm f0 = true ∧ ((s.wave 0).split 0).depth = 8 ∧ s.spillPa 0 0 0 .write = some [(0x41540, 16)] ∧
    (((after (exec (.setj 4 0) s)).wave 0).split 0).depth = 9 := by decide

theorem test_witness_no_spill : let s := oneBy (stacked 8 (joinEntry 3 0x10000))
    s.spillPa 0 0 0 .write = none ∧ ((after (exec (.setj 4 0) s)).wave 0).csr.trapcause = 15 := by decide

/-- A JOIN at its own address with no other split reconverges at once; one of another address traps; a P entry is run. -/
theorem test_witness_join : let j := oneBy (stacked 1 (joinEntry 7 0x10000))
    j.calm f0 = true ∧ (j.wave 0).splits.length = 5 ∧ (j.stackAt 0 0 0).kind = 1 ∧ (j.stackAt 0 0 0).target = f0.pc ∧
    (((after (exec (.join 0) j)).wave 0).split 0).depth = 0 ∧ (((after (exec (.join 0) j)).wave 0).split 0).exec = 7 ∧
    ((after (exec (.join 0) (oneBy (stacked 1 (joinEntry 7 0x10010))))).wave 0).csr.trapcause = 15 ∧
    (((after (exec (.join 0) one)).wave 0).split 0).pc = 0x10004 := by decide

theorem test_witness_join_of_a_path : let s := oneBy (stacked 1 { mask := 5, word := 0x10042 })
    s.calm f0 = true ∧ (s.stackAt 0 0 0).kind = 2 ∧ (((after (exec (.join 0) s)).wave 0).split 0).pc = 0x10040 ∧
    (((after (exec (.join 0) s)).wave 0).split 0).exec = 5 := by decide

/-- Another split holds a LINK to the instance: the arrival waits. -/
theorem test_witness_join_waits : let s := oneBy (fun x => (stacked 1 (joinEntry 7 0x10000) x).modSplit 1 (fun p => { p with
      state := 1, depth := 1, stack := [(0, { mask := 7, word := 0x10003 })] }))
    s.calm f0 = true ∧ (s.stackAt 0 1 0).kind = 3 ∧ (((after (exec (.join 0) s)).wave 0).split 0).state = 2 := by decide

theorem test_witness_exit : let some' := regs.modWave 0 (fun x => x.modSplit 0 (fun p => { p with exec := 7 }))
    some'.calm f0 = true ∧ f0.split < 4 ∧ some'.readExec 0 0 = 7 ∧ some'.arm 0 0 &&& ~~~ 7 ≠ 0 ∧
    (((after (exec (.exit 0) some')).wave 0).split 0).exec = 0 ∧ one.arm 0 0 &&& ~~~ (one.readExec 0 0) = 0 ∧
    ((one.wave 0).split 0).depth = 0 ∧ (((after (exec (.exit 0) one)).wave 0).split 0).state = 0 := by decide

theorem test_witness_sleep : regs.calm f0 = true ∧ srcOk false 2 = true ∧ (regs.readSrc 0 0 none 2).toNat = 7 ∧
    (((after (exec (.sleep 2 0 none) regs)).wave 0).split 0).wake = 6 ∧ (regs.readSrc 0 0 none 104) = 0 := by decide

theorem test_witness_sleep_wake : let s : State := { oneBy (fun x => x.modSplit 0 (fun p => { p with state := 3, wakeAt := 50 })) with nums := [0, 0] }
    s.nums = [0, 0] ∧ 0 < (s.wave 0).splits.length ∧ (s.wave 0).running = true ∧ (s.wave 0).ra = none ∧ ((s.wave 0).split 0).state = 3 ∧
    (after (exec .sleepWake s)).clk = 50 := by decide

theorem test_witness_reggive : let s := oneBy (fun x => scalars [(2, 7)] x)
    s.calm f0 = true ∧ (s.readSrc 0 0 none 2).toNat < (s.wave 0).blocks ∧ (s.wave 0).targetsFrom (8 * (16 - 7)) = false ∧
    ((after (exec (.reggive 2 0 none) s)).wave 0).blocks = 9 ∧
    ((after (exec (.reggive 120 0 none) s)).wave 0).csr.trapcause = 0x18 := by decide

/-- A wave of 9 blocks in a gang of one wave with 16 reserved claims 7 more. -/
theorem test_witness_regclaim : let s := oneBy (fun x => { scalars [(2, 7), (3, 8)] x with blocks := 9 })
    s.calm f0 = true ∧ (s.wave 0).blocks + 7 ≤ 16 ∧
    (s.wave 0).blocks + 7 + ((s.gangOn 0 0).filter (fun w => w ≠ 0)).length + s.unstarted 0 0 ≤ mapGet 0 (s.gang 0).quota 0 ∧ 7 ≤ s.pool 0 0 ∧
    s.olderClaim 0 0 s.orders = false ∧ ((after (exec (.regclaim 2 0 none) s)).wave 0).blocks = 16 ∧
    16 < (s.wave 0).blocks + (s.readSrc 0 0 none 3).toNat ∧ ((after (exec (.regclaim 3 0 none) s)).wave 0).csr.trapcause = 0x18 := by decide

/-- Beside a wave of 8 blocks, a wave of 4 waits for 5 of the 4 that are free. -/
theorem test_witness_regclaim_waits :
    let s := (oneBy (fun x => { scalars [(2, 5)] x with blocks := 4 })).modWave 1 (fun _ => { one.wave 0 with idx := 1, blocks := 8 })
    s.calm f0 = true ∧ (s.readSrc 0 0 none 2).toNat = 5 ∧ s.pool 0 0 = 4 ∧ s.unstarted 0 0 = 0 ∧
    4 + 5 + ((s.gangOn 0 0).filter (fun w => w ≠ 0)).length ≤ mapGet 0 (s.gang 0).quota 0 ∧
    (((after (exec (.regclaim 2 0 none) s)).wave 0).split 0).claim = some (5, 0, 0x10004, 0) := by decide

theorem test_witness_regclaim_grant : let s : State := { oneBy (fun x => { x.modSplit 0 (fun p => { p with
      state := 4, claim := some (7, 0, 0x10004, 0) }) with blocks := 9 }) with nums := [0, 0] }
    s.nums = [0, 0] ∧ (s.wave 0).running = true ∧ ((s.wave 0).split 0).state = 4 ∧ 7 ≤ s.pool 0 0 ∧ s.olderClaim 0 0 0 = false ∧
    ((after (exec .regclaimGrant s)).wave 0).blocks = 16 := by decide

/-! ### Memory -/

/-- `regs` with the offsets 0, 4 and 8 in v1, addresses 0x10200 and on in v4:v5, and a scratch window of 4 KiB. -/
def mem : State := regs.modWave 0 (fun x => lanes 1 [0, 4, 8] (lanes 4 [0x10200, 0x10204, 0x10208]
  { x with csr := { x.csr with scrsize := 0x1000 } }))

/-- The bytes at 0x10200: 0x44332211, 0xFFFFFFFF. -/
def memory : State := mem.writeMem 0x40200 (leBytes 4 0x44332211 ++ leBytes 4 0xFFFFFFFF)

/-- The physical address of an access, where it is granted. -/
def placeOf (s : State) (acc : Access) (n : Nat) (va : Dword) : Option Nat :=
  match checkVa s (s.space 0) acc n va with
  | .ok pa => some pa
  | _ => none

/-- The oldest operation of wave 0. -/
def oldest (s : State) : Flight :=
  match (s.wave 0).flight with
  | a :: _ => a
  | [] => { seq := 0, path := 0, kind := .other, scratch := false, accs := [], begun := false, after := 0, killed := [], raKilled := [],
            op := .nop 0, split := 0, dests := [], act := 0, vals := [], lanesLeft := 0, page := none, refused := false, lines := [] }

theorem test_witness_memory_write : (one.writeMem 0x40200 [1, 2]).readByte 0x40201 = 2 ∧ one.readByte 0x40201 = 0 := by decide

theorem test_witness_lane_access : mem.quiet f0 = true ∧ (4 : BitVec 3).toNat < 7 ∧ vOk (mem.wave 0) 3 1 = true ∧ vOk (mem.wave 0) 1 1 = true ∧
    (mem.wave 0).counter 0 < 63 ∧ mem.active 0 0 ≠ 0 ∧ mem.live 0 0 ≠ 0 ∧
    (∀ L ∈ Mask.lanes (mem.active 0 0), placeOf mem .read 4
      (Dword.ofWords (mem.readS 0 6) (mem.readS 0 7) + (mem.readV 0 1 L).setWidth 64) = some (0x40200 + 4 * L)) ∧
    (∀ L ∈ Mask.lanes (mem.active 0 0), placeOf mem .write 4
      (Dword.ofWords (mem.readV 0 4 L) (mem.readV 0 5 L)) = some (0x40200 + 4 * L)) ∧
    (∀ L ∈ Mask.lanes (mem.active 0 0), (mem.readV 0 1 L).toNat % 4 = 0 ∧ (mem.readV 0 1 L).toNat + 4 ≤ (mem.wave 0).csr.scrsize.toNat) := by
  decide

/-- Each lane instruction puts its operation on its path (R130). -/
theorem test_lane_paths : [Instr.ldg 3 1 4 3 0, .ldga 3 4 4 0, .lds 3 1 4 15 0, .stg 3 1 4 3 0, .stga 3 4 4 0, .sts 3 1 4 15 0,
      .ldgs 1 1 4 3 0, .atomg 3 1 3 0 0 0 1 0 0, .atoms 3 1 15 0 0 0 1 0 0].map (fun i =>
        let a := oldest (after (exec i mem)); (a.path, a.accs.length)) =
    [(0, 3), (0, 3), (2, 3), (1, 3), (1, 3), (1, 3), (7, 3), (0, 3), (2, 3)] := by decide

theorem test_witness_scalar_access : mem.calm f0 = true ∧ pairSrcOk false 6 = true ∧ srcOk false 104 = true ∧ litOnce [6, 104] = true ∧
    (3 : BitVec 3).toNat < 5 ∧ (8 : Code).toNat + 8 ≤ 96 ∧ (8 : Code).toNat % 2 = 0 ∧
    (∀ i, i < 2 → placeOf mem .read 16 (0x10200 + BitVec.ofNat 64 (16 * i)) = some (0x40200 + 16 * i)) ∧
    (oldest (after (exec (.sld 8 6 104 3 0 0 none) mem))).accs.length = 4 ∧ (oldest (after (exec (.sst 8 6 104 3 0 0 none) mem))).path = 1 := by
  decide

/-- CMAINT ZERO of one line, and of none (R140). -/
theorem test_witness_cmaint : (2 : BitVec 4).toNat < 4 ∧ mem.mayPriv f0 = true ∧ (mem.readPair 0 0 (some 128) 6).toNat % 128 = 0 ∧
    0 < (mem.readSrc 0 0 (some 128) 126).toNat ∧ 0x10200 % 65536 + 128 ≤ 65536 ∧ placeOf mem .write 1 0x10200 = some 0x40200 ∧
    (oldest (after (exec (.cmaint 6 126 2 0 (some 128)) mem))).accs.length = 1 ∧
    ((after (exec (.cmaint 6 104 2 0 none) mem)).wave 0).flight = [] := by decide

theorem test_witness_idle_lanes : let s := mem.modWave 0 (execs 0)
    s.quiet f0 = true ∧ vOk (s.wave 0) 1 1 = true ∧ s.active 0 0 = 0 ∧ vOk (s.wave 0) 3 1 = true ∧
    ((after (exec (.ldg 3 1 4 3 0) s)).wave 0).flight = [] := by decide

theorem test_witness_atomic : mem.quiet f0 = true ∧ mem.live 0 0 ≠ 0 ∧ vOk (mem.wave 0) 3 1 = true ∧ vOk (mem.wave 0) 1 1 = true ∧
    vOk (mem.wave 0) 2 1 = true ∧ (mem.wave 0).counter 0 < 63 ∧
    (∀ L ∈ Mask.lanes (mem.live 0 0), placeOf mem .readWrite 4
      (Dword.ofWords (mem.readS 0 6) (mem.readS 0 7) + (mem.readV 0 1 L).setWidth 64) = some (0x40200 + 4 * L)) ∧
    (oldest (after (exec (.atomg 3 1 3 10 0 0 1 2 0) mem))).accs.map (fun c => leNat c.cmp) = [10, 20, 30] := by decide

theorem alone_of {s : State} {w : Nat} {a : Flight} (h : ((s.wave w).flight = [a] ∧ (s.wave w).hops = [] ∧ (s.wave w).ra = none ∧
    (a.killed = [] ∧ a.raKilled = []) ∧ a.lanesLeft = 0) ∧ (∀ c ∈ a.accs, c.fixed = false) ∧ (s.badSectors = [] ∧ s.badScratch = []) ∧
    (a.scratch = false → ∀ c ∈ a.accs, s.lineOwned (c.pa / 128) = false) ∧ (s.cluster (s.wave w).cluster).copies = [] ∧ a.accs.Nodup) :
    Alone s w a :=
  ⟨h.1.1, h.1.2.1, h.1.2.2.1, h.1.2.2.2.1, h.1.2.2.2.2, h.2.1, h.2.2.1, h.2.2.2.1, h.2.2.2.2.1, h.2.2.2.2.2⟩

/-- A load of two bytes sign-extended, and one of four, on their way. -/
def loading : State := { after (exec (.ldg 3 1 4 3 0) (memory.modWave 0 (execs 3))) with nums := [0, 0, 0] }

theorem test_witness_load : loading.nums = [0, (oldest loading).path, 0] ∧ Alone loading 0 (oldest loading) ∧ (oldest loading).kind = .load ∧
    (oldest loading).scratch = false ∧ (∀ c ∈ (oldest loading).accs, c.lane < 64 ∧ c.size ∈ [1, 2, 4, 8]) ∧
    (∀ c ∈ (oldest loading).accs, ∀ e ∈ (oldest loading).accs, c ≠ e → c.lane ≠ e.lane ∨ c.reg + max 1 (c.size / 4) ≤ e.reg ∨
      e.reg + max 1 (e.size / 4) ≤ c.reg) :=
  ⟨by decide, alone_of (by decide), by decide⟩

/-- R129, R131: the loaded words arrive, little-endian. -/
theorem test_load_returns : let t := after (exec .loadReturn loading)
    t.vReg 0 3 0 = 0x44332211 ∧ t.vReg 0 3 1 = 0xFFFFFFFF ∧ (t.wave 0).counter 0 = 0 := by decide

/-- R129: a byte with its sign (code 1) and without (code 0). -/
theorem test_load_extends : let go := fun (z : BitVec 3) => (after (exec .loadReturn { after (exec (.ldg 3 1 z 3 0)
      (memory.modWave 0 (fun x => execs 1 (lanes 1 [4] x)))) with nums := [0, 0, 0] })).vReg 0 3 0
    go 0 = 0xFF ∧ go 1 = 0xFFFFFFFF ∧ go 2 = 0xFFFF ∧ go 3 = 0xFFFFFFFF := by decide

def storing : State := { after (exec (.stg 2 1 4 3 0) mem) with nums := [0] }

theorem test_witness_store : storing.nums = [0] ∧ Alone storing 0 (oldest storing) ∧ (oldest storing).kind = .store ∧
    (oldest storing).scratch = false ∧ (oldest storing).path = 1 ∧ (∀ c ∈ (oldest storing).accs, c.data.length = c.size) ∧
    (∀ c ∈ (oldest storing).accs, ∀ e ∈ (oldest storing).accs, c ≠ e → c.pa + c.size ≤ e.pa ∨ e.pa + e.size ≤ c.pa) ∧
    (after (exec .storePerformed storing)).readNat 0x40204 4 = 20 :=
  ⟨by decide, alone_of (by decide), by decide⟩

/-- Three lanes add 10, 20 and 30 to one word that holds 5 (R137): each reads what the one before left. -/
def adding : State := { after (exec (.atomg 2 1 3 0 0 0 1 0 0)
  ((mem.modWave 0 (lanes 1 [0, 0, 0])).writeMem 0x40200 [5])) with nums := [0, 0, 0] }

theorem test_witness_atomic_order : Alone adding 0 (oldest adding) ∧ (oldest adding).kind = .atom 0 4 true ∧ (oldest adding).scratch = false ∧
    (∀ c ∈ (oldest adding).accs, c.pa = 0x40200 ∧ c.size = 4 ∧ c.lane < 64) ∧ ((oldest adding).accs.map Acc.lane).Nodup ∧
    adding.nums = [0, (oldest adding).path, 0] ∧
    [0, 1, 2].map (fun L => (after (exec .loadReturn adding)).vReg 0 2 L) = [5, 15, 35] ∧
    (after (exec .loadReturn adding)).readNat 0x40200 4 = 65 :=
  ⟨alone_of (by decide), by decide⟩

theorem test_witness_atomic_values : (4 : Nat) ∈ [4, 8] ∧ 5 < 2 ^ (8 * 4) ∧ 2 ^ 32 - 1 < 2 ^ (8 * 4) ∧ atomVal 14 4 5 3 0 = 0 ∧
    atomVal 2 4 5 (2 ^ 32 - 1) 0 = 2 ^ 32 - 1 := by decide

/-- A load that meets an uncorrectable sector (R132, R141). -/
def meetsBad : State := { loading with badSectors := [0x40200 / 64] }

theorem test_witness_uncorrectable : (meetsBad.wave 0).onPath 0 0 = some (oldest meetsBad) ∧ (meetsBad.flightBad 0 (oldest meetsBad)).isSome = true ∧
    (meetsBad.wave 0).ra = none ∧ meetsBad.nums = [0, 0, 0] ∧ ((after (exec .memUncorr meetsBad)).wave 0).uncs.length = 1 := by decide

theorem test_witness_discard : let s : State := { (one.modCluster 0 (fun c => { c with copies := [(5, [1])] })) with nums := [0, 5] }
    s.nums = [0, 5] ∧ ((after (exec .sharedCopyDiscard s)).cluster 0).copies = [] := by decide

/-- R128: each item of the check fails for lane 1 first: an address that is not canonical, one that is misaligned, one whose page is
not there, one whose page may not be read. -/
theorem test_witness_lane_checks :
    let at' := fun (lo hi : Word) => mem.modWave 0 (lanes 4 [0x10200, lo] ∘ lanes 5 [0, hi] ∘ execs 3)
    let va := fun (s : State) (L : Nat) => Dword.ofWords (s.readV 0 4 L) (s.readV 0 5 L)
    (at' 0 0x01000000).quiet f0 = true ∧ vOk ((at' 0 0).wave 0) 2 1 = true ∧ vOk ((at' 0 0).wave 0) 4 2 = true ∧
    canonical (va (at' 0 0x01000000) 1) = false ∧ ((after (exec (.ldga 2 4 4 0) (at' 0 0x01000000))).wave 0).csr.trapcause = 7 ∧
    (va (at' 0x10202 0) 1).toNat % 4 = 2 ∧ ((after (exec (.ldga 2 4 4 0) (at' 0x10202 0))).wave 0).csr.trapcause = 5 ∧
    placeOf (at' 0x20000 0) .read 4 (va (at' 0x20000 0) 1) = none ∧ (at' 0x20000 0).hasMerge 0 0 2 = false ∧
    (at' 0x20000 0).mergeFull 0 = false := by decide

theorem test_witness_merge : let s := mem.modWave 0 (fun x => (lanes 4 [0x10200, 0x20000] ∘ execs 3) { x with csr := { x.csr with wavectl := 2 } })
    s.quiet f0 = true ∧ (s.wave 0).csr.wavectl.getLsbD 1 = true ∧ s.mergeFull (sectionOf (s.wave 0).cluster) = false ∧
    (after (exec (.ldga 2 4 4 0) s)).merges = [{ sec := 0, asid := 0, page := 2 }] := by decide

theorem test_witness_protected : let s := (mem.modWave 0 (lanes 4 [0x10200, 0x20000] ∘ execs 3)).writeMem 0x30010 (leBytes 8 0x50001)
    s.quiet f0 = true ∧ placeOf s .read 4 0x20000 = none ∧ ((after (exec (.ldga 2 4 4 0) s)).wave 0).csr.trapcause = 7 ∧
    ((after (exec (.ldga 2 4 4 0) s)).wave 0).csr.traparg = 0x20000 := by decide

/-- SLD of two registers on its way (R135). -/
def scalarLoading : State := { after (exec (.sld 8 6 104 1 0 0 none) memory) with nums := [0, 0, 0] }

theorem test_witness_scalar_load : Alone scalarLoading 0 (oldest scalarLoading) ∧ scalarLoading.nums = [0, (oldest scalarLoading).path, 0] ∧
    (oldest scalarLoading).kind = .sload ∧ (oldest scalarLoading).scratch = false ∧
    (∀ c ∈ (oldest scalarLoading).accs, c.sgn = false ∧ c.size ∈ [1, 2, 4, 8]) ∧
    (after (exec .loadReturn scalarLoading)).sReg 0 8 = 0x44332211 ∧ (after (exec .loadReturn scalarLoading)).sReg 0 9 = 0xFFFFFFFF :=
  ⟨alone_of (by decide), by decide⟩

/-- STS of v2 and LDGS of memory to offsets of the scratch window, LDS from it, and an atomic on it (R129, R134, R137). -/
def scratchStoring : State := { after (exec (.sts 2 1 4 15 0) mem) with nums := [0] }
def scratchFilling : State := { after (exec (.ldgs 1 1 4 3 0) memory) with nums := [0, 7, 0] }
def scratchLoading : State := { after (exec (.lds 3 1 4 15 0) (mem.scrWrite 0 0 (leBytes 4 9))) with nums := [0, 2, 0] }
def scratchAdding : State := { after (exec (.atoms 2 1 15 0 0 0 1 0 0) ((mem.modWave 0 (lanes 1 [0, 0, 0])).scrWrite 0 0 [5])) with nums := [0, 2, 0] }

theorem test_witness_scratch : Alone scratchStoring 0 (oldest scratchStoring) ∧ Alone scratchFilling 0 (oldest scratchFilling) ∧
    Alone scratchLoading 0 (oldest scratchLoading) ∧ Alone scratchAdding 0 (oldest scratchAdding) :=
  ⟨alone_of (by decide), alone_of (by decide), alone_of (by decide), alone_of (by decide)⟩

theorem test_scratch : ((oldest scratchStoring).kind = .store ∧ (oldest scratchStoring).scratch = true ∧ (oldest scratchStoring).path = 1 ∧
      (∀ c ∈ (oldest scratchStoring).accs, c.data.length = c.size) ∧ (after (exec .storePerformed scratchStoring)).scrRead 0 4 4 = leBytes 4 20) ∧
    ((oldest scratchFilling).kind = .gs ∧ (oldest scratchFilling).path = 7 ∧ (∀ c ∈ (oldest scratchFilling).accs, c.size % 4 = 0) ∧
      (after (exec .loadReturn scratchFilling)).scrRead 0 0 4 = leBytes 4 0x44332211) ∧
    ((oldest scratchLoading).kind = .load ∧ (after (exec .loadReturn scratchLoading)).vReg 0 3 0 = 9) ∧
    ((oldest scratchAdding).kind = .atom 0 4 true ∧ (after (exec .loadReturn scratchAdding)).scrRead 0 0 4 = leBytes 4 65) := by decide

/-- An atomic that returns nothing goes on ST (R130, R136). -/
theorem test_witness_atomic_alone : let s : State := { after (exec (.atomg 2 1 3 9 0 0 0 0 0) (mem.modWave 0 (execs 1))) with nums := [0] }
    (oldest s).kind = .atom 9 4 false ∧ (oldest s).path = 1 ∧ (after (exec .storePerformed s)).readNat 0x40200 4 = 10 := by decide

/-- CMAINT EVICT and FLUSH on their way, over a shared copy in cluster 0 and one in cluster 1 (R140). -/
def maintaining (op : BitVec 4) : State :=
  let s := (mem.modCluster 0 (fun c => { c with copies := [(0x40200 / 128, [1])] })).modCluster 1 (fun c => { c with copies := [(0x40200 / 128, [1])] })
  { after (exec (.cmaint 6 126 op 0 (some 128)) s) with nums := [0] }

theorem test_witness_maintenance : ∀ op ∈ [1, 3], let s := maintaining op
    (s.wave 0).flight = [oldest s] ∧ (s.wave 0).hops = [] ∧ (oldest s).lanesLeft = 0 ∧ (oldest s).kind = .maint op.toNat ∧ (oldest s).path = 1 ∧
    (∀ c ∈ (oldest s).accs, c.fixed = false ∧ s.lineOwned (c.pa / 128) = false) ∧ (oldest s).accs.Nodup ∧
    ((after (exec .storePerformed s)).cluster 0).copies = [] ∧
    ((after (exec .storePerformed s)).cluster 1).copies.length = (if op = 1 then 1 else 0) := by decide

/-- CMAINT ZERO from the last line of a page on to the next page. -/
theorem test_witness_cmaint_pages : let s := (mem.modWave 0 (scalars [(6, 0x1FF80)])).writeMem 0x30010 (leBytes 8 0x5001D)
    (s.readPair 0 0 (some 256) 6).toNat % 128 = 0 ∧ (s.readSrc 0 0 (some 256) 126).toNat % 128 = 0 ∧ 65536 - 0x1FF80 % 65536 = 128 ∧
    placeOf s .write 1 0x1FF80 = some 0x4FF80 ∧ placeOf s .write 1 (0x1FF80 + 128) = some 0x50000 ∧
    (oldest (after (exec (.cmaint 6 126 2 0 (some 256)) s))).accs.map Acc.pa = [0x4FF80, 0x50000] := by decide

/-! ### Traps, CSRs and the state that firmware handles -/

/-- `regs` outside the world of privilege, and in a handler. -/
def user : State := regs.modWave 0 (fun x => { x with csr := { x.csr with priv := false } })

def inHandler : State := regs.modWave 0 (fun x => { x with
  csr := { x.csr with handler := true, trapcause := 0x12, trappc := 0x10010, savearea := 0x11000, tsave := [80, 81, 82, 83, 84, 85, 86, 87] },
  splits := x.splits.set 4 { handlerContext 0x10000 with next := 0 } })

def f4 : Focus := { f0 with split := 4 }

/-- The handler's context issues. -/
def handling : State := { inHandler with focus := some f4 }

/-- R280, R284: TRAP 5 is SWTRAP with the next instruction's address; BRK has its own. -/
theorem test_witness_trap : regs.calm f0 = true ∧ f0.split < 4 ∧ (regs.wave 0).splits.length = 5 ∧ (regs.wave 0).csr.handler = false ∧
    (regs.wave 0).csr.trapvec ≠ 0 ∧ regs.nlBusy 0 = false ∧ srcOk false 3 = true ∧
    (let c := ((after (exec (.trap 3 0 none) regs)).wave 0).csr
     c.trapcause = 0x11 ∧ c.trappc = 0x10004 ∧ c.traparg = 5 ∧ c.handler = true) ∧
    (((after (exec (.brk 0) regs)).wave 0).split 4).pc = 0x10100 ∧ ((after (exec (.brk 0) regs)).wave 0).csr.trappc = 0x10000 ∧
    ((after (exec (.unassignedEncoding 0x70000000) regs)).wave 0).csr.trapcause = 1 := by decide

theorem test_witness_death : handling.calm f4 = true ∧ (handling.wave 0).csr.handler = true ∧ handling.mayPriv f4 = true ∧
    ((after (exec (.brk 0) handling)).wave 0).died = true ∧ (after (exec (.brk 0) handling)).faults.length = 1 ∧
    (let s := regs.modWave 0 (fun x => { x with csr := { x.csr with trapvec := 0 } })
     s.calm f0 = true ∧ (s.wave 0).csr.trapvec = 0 ∧ ((after (exec (.brk 0) s)).wave 0).died = true ∧ (after (exec (.brk 0) s)).faults = []) ∧
    ((after (exec (.halt 0) regs)).wave 0).died = true := by decide

theorem test_witness_firmware_kill : let s : State := { regs with nums := [0] }
    s.nums = [0] ∧ (s.wave 0).died = false ∧ (s.wave 0).life = .resident ∧ (s.wave 0).ended = false ∧
    ((after (exec .firmwareKill s)).wave 0).died = true := by decide

/-- R281: s88 to s95 come back, and split 0 goes on at TRAPPC. -/
theorem test_witness_rte : let s := handling.modWave 0 (fun x => { x with csr := { x.csr with trapsplit := 0 } })
    s.calm f4 = true ∧ f4.split = 4 ∧ s.tableOk 0 = true ∧ (s.wave 0).nextPend = none ∧ ((s.wave 0).split 0).state ≠ 0 ∧
    (after (exec (.rte 0) s)).sReg 0 90 = 82 ∧ (((after (exec (.rte 0) s)).wave 0).split 0).pc = 0x10010 ∧
    (let u := s.modWave 0 (fun x => x.modSplit 1 (fun p => { p with state := 1, own := 7 }))
     u.calm f4 = true ∧ u.tableOk 0 = false ∧ ((after (exec (.rte 0) u)).wave 0).died = true) ∧
    (regs.wave 0).csr.priv = true ∧ ((after (exec (.rte 0) regs)).wave 0).csr.trapcause = 1 := by decide

theorem test_witness_privilege : user.calm f0 = true ∧ (user.wave 0).csr.handler = false ∧ (user.wave 0).csr.priv = false ∧
    ((after (exec (.halt 0) user)).wave 0).csr.trapcause = 3 ∧ ((after (exec (.csrr 1 0x110 0) user)).wave 0).csr.traparg = 0x110 := by decide

theorem test_witness_csr_read : regs.calm f0 = true ∧ dstOk 1 = true ∧ csrKnown 0x005 = false ∧ regs.mayPriv f0 = true ∧
    dstBad 1 (regs.wave 0).csr.launchid = false ∧ (after (exec (.csrr 1 0x106 0) regs)).sReg 0 1 = 0x10100 ∧
    (after (exec (.csrr 1 0 0) { regs with clk := 2 ^ 32 + 9 })).sReg 0 1 = 9 ∧
    ((after (exec (.cycleLatchRead 1 0) { regs with clk := 2 ^ 32 + 9 })).wave 0).csr.cycleLatch = 1 := by decide

/-- R285, R68: WAVECTL takes a value it has bits for; FPSTAT loses what is written as 1; TRAPPC is privileged. -/
theorem test_witness_csr_write : regs.calm f0 = true ∧ srcOk false 3 = true ∧ (regs.wave 0).csr.tsave.length = 8 ∧
    csrKnown 0x101 = true ∧ regs.readSrc 0 0 none 3 &&& csrZero 0x020 ≠ 0 ∧ (108 : Code).toNat = 108 ∧
    regs.readSrc 0 0 none 107 &&& csrZero 0x020 = 0 ∧
    ((after (exec (.csrw 107 0x020 0 none) regs)).wave 0).csr.wavectl = 3 ∧
    (let s := regs.modWave 0 (fun x => { x with csr := { x.csr with fpstat := 7 } })
     s.calm f0 = true ∧ (s.readSrc 0 0 none 3).toNat < 64 ∧ ((after (exec (.csrw 3 0x021 0 none) s)).wave 0).csr.fpstat = 2 ∧
     ((after (exec (.fpstatWrite 3 0 none) s)).wave 0).csr.fpstat = 2) ∧
    (after (exec (.framedeadlineWrite 3 1 0 none) regs)).framedeadline = 0x500000000 := by decide

theorem test_witness_counters : let s := regs.modWave 0 (fun x => { x with counters := [(0, 63), (7, 1)] })
    s.calm f0 = true ∧ pairDstOk 8 = true ∧ (∀ i, i < 8 → (s.wave 0).counter i < 64) ∧
    (∀ i, i < 8 → (63 + 2 ^ 42) / 2 ^ (6 * i) % 64 = (s.wave 0).counter i) ∧
    (after (exec (.cntrd 8 0) s)).sReg 0 8 = 63 ∧ (after (exec (.cntrd 8 0) s)).sReg 0 9 = 1024 := by decide

/-- A translation of page 1 in a TLB, and a split that waits on page 2 (R298). -/
def translating : State := { regs.keepTlb 0 0 0x10000 0x10000 with merges := [{ sec := 0, asid := 0, page := 2 }] }

theorem test_witness_tlbinv : translating.calm f0 = true ∧ translating.mayPriv f0 = true ∧ pairSrcOk false 6 = true ∧
    (mapGet [] translating.tlbs 0).length = 1 ∧ (after (exec (.tlbinvPage 6 0 0 none) translating)).tlbs = [] ∧
    pageOf (translating.readPair 0 0 (some 0x20000) 126) = 2 ∧
    (after (exec (.tlbinvResolve 126 0 0 (some 0x20000)) translating)).merges = [] := by decide

theorem test_witness_tables : translating.TablesWf := by
  refine ⟨?_, ?_, ?_, by decide⟩
  · rintro (_ | w)
    · exact .inr rfl
    · exact .inl rfl
  · rintro (_ | w)
    · rfl
    · rfl
  · rintro (_ | w) r h
    · cases h
    · cases h

/-- R302: bank 3 of CACHE banks becomes SCRATCH; bank 32 is no bank; the last CACHE bank stays. -/
theorem test_witness_banks : regs.calm f0 = true ∧ regs.mayPriv f0 = true ∧ dstOk 1 = true ∧ srcOk false 107 = true ∧
    31 < (regs.readSrc 0 0 (some 32) 126).toNat ∧ ((after (exec (.sramcfg 1 126 1 0 (some 32)) regs)).wave 0).csr.trapcause = 1 ∧
    (regs.sweep.cluster 0).banks.getD 3 0 = 0 ∧ ((regs.sweep.cluster 0).banks.filter (fun k => k = 0)).length = 32 ∧
    (let s := regs.modCluster 0 (fun c => { c with banks := 0 :: List.replicate 31 1 })
     s.calm f0 = true ∧ ((s.sweep.cluster 0).banks.filter (fun k => k = 0)).length = 1 ∧
     (after (exec (.sramcfg 1 104 1 0 none) s)).sReg 0 1 = 2) := by decide

/-- R291: split 0's record goes to 0x10200; index 4 is no split. -/
theorem test_witness_save : regs.calm f0 = true ∧ regs.mayPriv f0 = true ∧ pairSrcOk false 6 = true ∧ srcOk false 104 = true ∧
    litOnce [6, 104] = true ∧ (regs.wave 0).counter 1 < 63 ∧ (regs.readSrc 0 0 none 104).toNat < 4 ∧
    (∀ j, j < 8 → placeOf regs .write 16 (0x10200 + BitVec.ofNat 64 (16 * j)) = some (0x40200 + 16 * j)) ∧
    ((oldest (after (exec (.splitrd 6 104 0 none) regs))).accs.flatMap Acc.data).length = 32 ∧
    ((oldest (after (exec (.clmemb 6 104 0 none) regs))).accs.flatMap Acc.data).length = 64 ∧
    4 ≤ (regs.readSrc 0 0 none 108).toNat ∧ ((after (exec (.dstkrd 6 108 0 none) regs)).wave 0).csr.trapcause = 1 ∧
    8 ≤ (regs.readSrc 0 0 none 112).toNat ∧ ((after (exec (.clmemb 6 112 0 none) regs)).wave 0).csr.trapcause = 1 := by decide

/-- The image of a split READY at 0x10020 with no entries, at 0x10200. -/
def image : State := regs.writeMem 0x40200 (leBytes 8 0x10020 ++ leBytes 8 7 ++ leBytes 8 5 ++ [1, 0, 0, 0] ++ leBytes 4 0)

theorem test_witness_restore : image.calm f0 = true ∧ image.mayPriv f0 = true ∧ Plain image 0 ∧ (image.wave 0).splits.length = 5 ∧
    (image.readSrc 0 0 none 105).toNat < 4 ∧ f0.split ≠ (image.readSrc 0 0 none 105).toNat ∧
    (∀ j, j < 8 → placeOf image .read 16 (0x10200 + BitVec.ofNat 64 (16 * j)) = some (0x40200 + 16 * j)) ∧
    leNat (image.readBytes (0x40200 + 0x18) 1) ≤ 4 ∧ canonical (BitVec.ofNat 64 (leNat (image.readBytes 0x40200 8))) = true ∧
    (((after (exec (.splitwr 6 105 0 none) image)).wave 0).split 1).pc = 0x10020 ∧
    (((after (exec (.splitwr 6 105 0 none) image)).wave 0).split 1).exec = 5 :=
  ⟨by decide, by decide, ⟨by decide, by decide, by decide, by decide, fun _ => rfl⟩, by decide⟩

/-- A stack entry J at 0x10200 for a split of one entry, and a membership of a live clause there (R291, R292). -/
theorem test_witness_restore_stack : let s := (regs.modWave 0 (fun x => x.modSplit 1 (fun p => { p with depth := 1 }))).writeMem 0x40200 (leBytes 8 3 ++ leBytes 8 0x10031)
    s.calm f0 = true ∧ min ((s.wave 0).split 1).depth 8 = 1 ∧
    (s.readNat 0x40208 8) % 4 ≠ 0 ∧ (((after (exec (.dstkwr 6 105 0 none) s)).wave 0).split 1).stack.length = 1 ∧
    ((after (exec (.dstkwr 6 105 0 none) (regs.modWave 0 (fun x => x.modSplit 1 (fun p => { p with depth := 1 }))))).wave 0).csr.trapcause = 1 := by
  decide

/-- A live clause, entry 5 of generation 0, of the wave's space and world, in phase 9. -/
def clause5 (c : Clause) (s : State) : State :=
  s.setClause 5 { c with live := true, asid := 0, world := 1, phase := 9, refs := 1 }

set_option maxRecDepth 16384 in
theorem test_witness_restore_membership : let bs := leBytes 8 (clauseHandle 5 0).toNat ++ leBytes 8 3 ++ List.replicate 32 0 ++ leBytes 4 9
    let s := (clause5 { Clause.empty with parked := 1 } regs).writeMem 0x40200 bs
    let h := clauseHandle 5 0
    s.calm f0 = true ∧ leNat (s.readBytes 0x40200 8) = h.toNat ∧ h ≠ 0 ∧ handleType h = 1 ∧ s.clauseLive h 0 1 = true ∧
    (s.clause (handleEntry h)).phase = BitVec.ofNat 32 (leNat (s.readBytes (0x40200 + 0x30) 4)) ∧
    ((after (exec (.clrestore 6 104 0 none) s)).clause 5).parked = 0 ∧
    (mapGet Memb.empty ((after (exec (.clrestore 6 104 0 none) s)).wave 0).memb 0).mask = 3 ∧
    regs.clauseLive h 0 1 = false := by decide

set_option maxRecDepth 16384 in
theorem test_witness_park : handling.calm f4 = true ∧ handling.mayPriv f4 = true ∧ (handling.wave 0).csr.trapcause = 0x12 ∧
    (handling.wave 0).counter 1 = 0 ∧ Plain handling 0 ∧ placeOf handling .write 64 (handling.wave 0).csr.savearea = some 0x41000 ∧
    ((after (exec (.park 0) handling)).wave 0).life = .parked ∧ (after (exec (.park 0) handling)).readNat 0x41000 4 = 0x4B524150 ∧
    ((after (exec (.park 0) regs)).wave 0).csr.trapcause = 1 :=
  ⟨by decide, by decide, by decide, by decide, ⟨by decide, by decide, by decide, by decide, fun _ => rfl⟩, by decide⟩

/-- R298: split 1 waits on page 2, which TLBINV REFUSE answers: it takes XLATE at its instruction. -/
theorem test_witness_refuse : let s := { regs.modWave 0 (fun x => x.modSplit 1 (fun p => { p with state := 1, pc := 0x10040, wait := .merge 0 2 0x20008 }))
      with merges := [{ sec := 0, asid := 0, page := 2 }] }
    s.calm f0 = true ∧ s.mayPriv f0 = true ∧ pageOf (s.readPair 0 0 (some 0x20000) 126) = 2 ∧
    ((s.wave 0).split 1).wait = .merge 0 2 0x20008 ∧ (s.wave 0).life = .resident ∧ (s.wave 0).died = false ∧ (s.wave 0).csr.handler = false ∧
    (s.wave 0).csr.trapvec ≠ 0 ∧ (s.wave 0).ra = none ∧ (s.wave 0).nextPend = none ∧ s.nlBusy 0 = false ∧
    (∀ j, j = 0 ∨ j = 4 → ((s.wave 0).split j).wait = .none) ∧
    (let x := (after (exec (.tlbinvRefuse 126 0 0 (some 0x20000)) s)).wave 0
     x.csr.handler = true ∧ x.csr.trapcause = 6 ∧ x.csr.trappc = 0x10040 ∧ x.csr.traparg = 0x20008 ∧ (x.split 1).wait = .none) := by
  and_intros <;> first | decide | (rintro j (rfl | rfl) <;> rfl)

set_option maxRecDepth 8192 in
/-- R297: a record of two pages. -/
theorem test_witness_fault_record : let r : FaultRec := { kind := 1, req := 0, access := 2, asid := 7, cluster := 3, world := 1, launchid := 9, cause := 0, va := 0x20008,
                                                          scope := 0xFF, pages := [2, 5] }
    r.kind < 256 ∧ r.pages.length ≤ 16 ∧ r.asid < 65536 ∧ (∀ p ∈ r.pages, p < 2 ^ 39) ∧ r.bytes.length = 192 ∧
    leNat ((r.bytes.drop 16).take 8) = 0x20008 ∧ leNat ((r.bytes.drop 72).take 8) = 0x50000 := by decide

/-- R302: a CACHE bank becomes SCRATCH; a SCRATCH bank whose space is taken stays, with 1. -/
theorem test_witness_bank_switch : regs.sweep.bankBusy 0 0 = false ∧ regs.sweep.bankBusy 0 1 = false ∧ (regs.sweep.cluster 0).banks.getD 3 0 ≠ 1 ∧
    ((after (exec (.sramcfg 1 126 1 0 (some 3)) regs)).cluster 0).banks.getD 3 0 = 1 ∧ (after (exec (.sramcfg 1 126 1 0 (some 3)) regs)).sReg 0 1 = 0 ∧
    (let s := (regs.modCluster 0 (fun c => { c with banks := c.banks.set 3 1 })).modGang 0 (fun y => { y with scrKib := 128 })
     s.calm f0 = true ∧ s.sweep.bankBusy 0 1 = true ∧ (s.sweep.cluster 0).banks.getD 3 0 = 1 ∧
     (after (exec (.sramcfg 1 126 0 0 (some 3)) s)).sReg 0 1 = 1) := by decide

/-- R157: a handle of type 0 is NULL whatever its payload: CLRESTORE empties the slot (R292). -/
theorem test_witness_restore_null : let s := (regs.modWave 0 (fun x => { x with memb := [(0, { Memb.empty with handle := clauseHandle 5 0, mask := 1 })] })).writeMem 0x40200 (leBytes 8 0x55)
    s.calm f0 = true ∧ handleType 0x55 = 0 ∧ (mapGet Memb.empty ((after (exec (.clrestore 6 104 0 none) s)).wave 0).memb 0).handle = 0 := by decide

/-! ### Clauses, objects and barriers -/

/-- A handle (R157). -/
def handle (ty va : Nat) : Dword := BitVec.ofNat 64 (ty * 2 ^ 60 + va)

/-- h1: clause 5; h2: a queue at 0x10400 of four entries of 16 bytes, entries 3 and 4 filled; h3: a launch queue at 0x10480; h4: a ring
at 0x10500 of four slots, reserved to 6, filled to 5, released to 4; h5: a lock word at 0x10600 that holds 9. Wave 0's lanes 0 to 2 are
members of clause 5. -/
def objects : State :=
  let s := mem.modWave 0 (fun x => { x with
    h := [(1, clauseHandle 5 0), (2, handle 3 0x10400), (3, handle 3 0x10480), (4, handle 2 0x10500), (5, handle 4 0x10600)],
    memb := [(0, { Memb.empty with handle := clauseHandle 5 0, mask := 7, phase := 9 })] })
  let s := clause5 { Clause.empty with exp0 := 4, exp1 := 4, members := 4 } s
  let s := putBytes s 0x40400 (leBytes 8 0x10800 ++ leBytes 4 4 ++ leBytes 4 2 ++ leBytes 8 3 ++ leBytes 8 5)
  let s := putBytes s 0x40480 (leBytes 8 0x10800 ++ leBytes 4 4 ++ leBytes 4 2 ++ leBytes 16 0 ++ leBytes 4 1)
  let s := putBytes s 0x40500 (leBytes 8 0x10A00 ++ leBytes 4 6 ++ leBytes 4 2 ++ leBytes 8 6 ++ leBytes 8 5 ++ leBytes 8 4 ++
    leBytes 16 0 ++ leBytes 8 0x10900)
  putBytes s 0x40600 [9]

/-- The operation sent to a home by `i`, about to act. -/
def sentBy (i : Instr) (s : State) : State := { after (exec i s) with nums := [0, 0] }

/-- The oldest operation of wave 0 at a home. -/
def hop (s : State) : HomeOp :=
  match (s.wave 0).hops with
  | h :: _ => h
  | [] => hopOf f0 0 (.nop 0) 0 0 0 [] false

theorem test_witness_clause_issue : objects.quiet f0 = true ∧ hOk 1 = true ∧ dstOk 1 = true ∧ srcOk false 3 = true ∧ (8 : Code).toNat < 96 ∧
    objects.active 0 0 = 7 ∧ handleType (objects.readH 0 1) = 1 ∧ (objects.readH 0 1).extractLsb' 32 28 = 0 ∧
    7 &&& ~~~ ((objects.wave 0).members (objects.readH 0 1)) = 0 ∧ (objects.wave 0).hopsFull = false ∧ (objects.wave 0).hops = [] ∧
    (mapGet Memb.empty (objects.wave 0).memb 1).handle = 0 ∧ predSrcOk 8 = true ∧ stOk 127 = true ∧ vOk (objects.wave 0) 3 (clauseRegs 0) = true ∧
    (objects.readSrc 0 0 none 110).toNat ≤ 6 ∧ 6 < (objects.readSrc 0 0 none 111).toNat ∧
    [Instr.clopen 6 3 8 0 none, .cljoin 8 1 0, .clleave 1 0, .clarrive 1 0, .clwait 8 1 0, .clbar 8 1 0, .clvote 8 1 8 0 127 0,
      .clred 3 1 2 0 0 127 0, .clclose 1 0, .clinfo 8 1 104 0 none].map (fun i => ((after (exec i objects)).wave 0).hops.length) =
      List.replicate 10 1 := by decide

/-- The checks of a handle (R158): no CLAUSE handle, bits that must be 0, and lanes that are no members. -/
theorem test_witness_clause_checks : handleType (objects.readH 0 2) ≠ 1 ∧
    ((after (exec (.clarrive 2 0) objects)).wave 0).csr.traparg = 1 ∧
    (let s := objects.modWave 0 (fun x => { x with h := [(1, clauseHandle 5 0 ||| 1#64 <<< 32)] })
     s.quiet f0 = true ∧ (s.readH 0 1).extractLsb' 32 28 ≠ 0 ∧ ((after (exec (.clarrive 1 0) s)).wave 0).csr.traparg = 2) ∧
    (let s := objects.modWave 0 (execs 15)
     s.active 0 0 &&& ~~~ ((s.wave 0).members (s.readH 0 1)) = 8 ∧ ((after (exec (.clarrive 1 0) s)).wave 0).csr.traparg = 5) ∧
    (let s := objects.modWave 0 (fun x => { x with memb := (List.range 8).map (fun j =>
        (j, { Memb.empty with handle := clauseHandle 6 j, mask := 1 })) })
     (∀ j, j < 8 → (mapGet Memb.empty (s.wave 0).memb j).handle ≠ s.readH 0 1 ∧ (mapGet Memb.empty (s.wave 0).memb j).handle ≠ 0) ∧
     ((after (exec (.cljoin 8 1 0) s)).wave 0).csr.traparg = 3) := by decide

set_option maxRecDepth 16384 in
theorem test_witness_object_issue : objects.quiet f0 = true ∧ hOk 5 = true ∧ pairSrcOk false 6 = true ∧ pairDstOk 8 = true ∧
    handleType (objects.readH 0 5) = 4 ∧ handleType (objects.readH 0 2) = 3 ∧ handleType (objects.readH 0 4) = 2 ∧
    placeOf objects .readWrite 8 (handleAddr (objects.readH 0 5)) = some 0x40600 ∧
    placeOf objects .readWrite 1 (handleAddr (objects.readH 0 2)) = some 0x40400 ∧
    placeOf objects .readWrite 1 (handleAddr (objects.readH 0 4)) = some 0x40500 ∧
    (objects.queueHead 0x40400).sub = 0 ∧ (objects.queueHead 0x40400).watched = false ∧ (objects.queueHead 0x40480).watched = true ∧
    (objects.ringHead 0x40500).ok = true ∧ vOk (objects.wave 0) 4 4 = true := by decide

set_option maxRecDepth 16384 in
theorem test_object_instructions_are_sent :
    [Instr.bind 5 6 126 0 0 0 0 (some 128), .acq 8 5 4 0 none, .rel 5 4 0 none, .qenq 1 2 4 0, .qpop 4 2 1 0, .qenqu 8 2 8 0,
      .rares 8 4 0, .rawait 8 4 108 0 none, .rarel 4 108 0 none, .fenceH 1 0].map (fun i => ((after (exec i objects)).wave 0).hops.length) =
      List.replicate 10 1 := by decide

set_option maxRecDepth 16384 in
/-- The traps of objects: a bound range that is no whole number of lines, a handle that is no lock, a QPOP of a launch queue, a slot that
is not reserved, and a release beyond what is filled. -/
theorem test_witness_object_traps :
    [Instr.bind 5 6 126 0 0 0 0 (some 130), .rel 2 4 0 none, .qpop 4 3 1 0, .rawait 8 4 110 0 none, .rarel 4 110 0 none].map (fun i =>
      let c := ((after (exec i objects)).wave 0).csr
      (c.trapcause, c.traparg)) = [(0x05, 0x10200), (0x0B, 1), (0x0D, 3), (0x0C, 3), (0x0C, 4)] := by decide

/-- A gang of two waves: the first arrival does not complete the barrier, the second does (R174). -/
def gang2 (others : Nat) : State := objects.modGang 0 (fun g => { g with
  waves := 2, ids := [(0, 0), (1, 1)], bars := [(3, { phase := 6, arr := if others = 0 then [] else [(1, others)], last := 0 })] })

theorem test_witness_local : objects.calm f0 = true ∧ kOk 1 = true ∧ srcOk false 104 = true ∧
    (objects.wave 0).counter 0 ≤ min (objects.readSrc 0 0 none 104).toNat 63 ∧
    (let s := objects.modWave 0 (fun x => { x with counters := [(0, 2)] })
     s.calm f0 = true ∧ min (s.readSrc 0 0 none 104).toNat 63 < (s.wave 0).counter 0 ∧
     (((after (exec (.waitc 0 104 0 none) s)).wave 0).split 0).pc = 0x10000) ∧
    ((after (exec (.hmake 7 6 4 0 none) objects)).readH 0 7 = handle 4 0x10200) ∧ (after (exec (.hread 8 5 0) objects)).sReg 0 8 = 0x10600 ∧
    ((after (exec (.fenceL 0) objects)).wave 0).fenceSeq = (objects.wave 0).seq := by decide

/-- The phase of barrier 3 at the next clk. -/
def phaseOf (s : State) : Nat := ((s.gang 0).barAt 3 (s.clk + 1)).phase

/-- R174: a GARRIVE counts when it is delivered, the last arrival completes the phase at the next clk, and a GBAR keeps its arrival
until it issues again after that. -/
theorem test_witness_gang_barrier : (gang2 0).calm f0 = true ∧ (gang2 0).gangArrivals 0 3 = 0 ∧
    ((gang2 0).gang 0).arrivals 3 ((gang2 0).wave 0).idx (gang2 0).clk = 0 ∧
    ((gang2 0).wave 0).accessesDone ((gang2 0).wave 0).seq = true ∧ ((gang2 0).wave 0).garrives 3 = 0 ∧ ((gang2 0).wave 0).hopsFull = false ∧
    ((gang2 0).wave 0).idx ∈ ((gang2 0).gang 0).expected ∧ ((gang2 0).wave 0).keptArrival f0 3 = none ∧
    (let sent := fun n => after (exec (.garrive 3 0) (gang2 n))
     ((sent 0).wave 0).hops.map HomeOp.op = [.garrive 3 0] ∧ ((sent 0).wave 0).ended = false ∧ ((sent 0).wave 0).accessesDone (hop (sent 0)).seq = true ∧
     (sent 0).gangArrivals 0 3 = 1 ∧ phaseOf (sent 1) = 6 ∧ phaseOf ((sent 0).gangArrive 0 0) = 6 ∧ phaseOf ((sent 1).gangArrive 0 0) = 7 ∧
     ((after (exec (.gbar 3 0) (sent 0))).wave 0).keptArrival f0 3 = none) ∧
    (let t := after (exec (.gbar 3 0) (gang2 0))
     (t.wave 0).keptArrival f0 3 = some 6 ∧ (((after (exec (.gbar 3 0) t)).wave 0).split 0).pc = 0x10000) ∧
    (let t := after (exec (.gbar 3 0) (gang2 1))
     let u : State := { t with clk := t.clk + 1 }
     (t.wave 0).keptArrival f0 3 = some 6 ∧ ((t.wave 0).split 0).pc = 0x10000 ∧ (u.gang 0).barAt 3 u.clk ≠ (t.gang 0).barAt 3 t.clk ∧
     (((after (exec (.gbar 3 0) u)).wave 0).split 0).pc = 0x10004 ∧ ((after (exec (.gbar 3 0) u)).wave 0).gbars = []) ∧
    (((after (exec (.gwait 3 0) (gang2 0))).wave 0).split 0).pc = 0x10004 := by decide

/-- The operation just sent stands at its home with nothing in its way. -/
theorem atHome_of (s : State) (h1 : (s.nums == [0, 0]) && decide ((s.wave 0).hops = [hop s]) && (s.wave 0).flight.isEmpty && (s.wave 0).ra.isNone &&
    decide ((s.wave 0).life ≠ .none) && (hop s).arrived.isNone && decide ((s.wave 0).splits.length = 5 ∧ (hop s).split < 5) &&
    decide ((s.cluster (s.wave 0).cluster).copies = []) && !(s.lineOwned ((hop s).pa / 128)) = true)
    (h2 : ∀ v, (s.wave (v + 1)).hops = []) : AtHome s 0 (hop s) := by
  simp only [Bool.and_eq_true, beq_iff_eq, decide_eq_true_eq, List.isEmpty_iff, Option.isNone_iff_eq_none, Bool.not_eq_true'] at h1
  obtain ⟨⟨⟨⟨⟨⟨⟨⟨a, b⟩, c⟩, d⟩, e⟩, g⟩, i⟩, j⟩, k⟩ := h1
  exact ⟨a, b, fun v hv => match v, hv with
    | 0, hv => absurd rfl hv
    | v + 1, _ => h2 v, c, d, e, g, i, j, by simpa using k⟩

set_option maxRecDepth 16384 in
theorem test_witness_clause_homes : ∀ i ∈ [Instr.clopen 6 3 8 0 none, .cljoin 8 1 0, .clarrive 1 0, .clbar 8 1 0, .clclose 1 0,
    .clinfo 8 1 104 0 none], AtHome (sentBy i objects) 0 (hop (sentBy i objects)) := by
  intro i hi
  simp only [List.mem_cons, List.not_mem_nil, or_false] at hi
  obtain rfl | rfl | rfl | rfl | rfl | rfl := hi <;> exact atHome_of _ (by decide) (fun _ => rfl)

/-- R160 to R165: a new key makes an entry; a key that is there is found; the last arrival completes the phase; a third reference is
given up; and the phase is told. Entry `lo` of the key 5's slice is the first one that is free. -/
theorem test_clause_homes :
    (let t := after (exec .clauseHomeOp (sentBy (.clopen 6 3 8 0 none) objects))
     (t.clause (64 * keySlice 5)).refs = 1 ∧ t.sReg 0 8 = 2 ∧
       (after (exec .clauseHomeOp (sentBy (.clopen 7 3 8 0 none) { t with focus := some f0 }))).sReg 0 8 = 0) ∧
    ((after (exec .clauseHomeOp (sentBy (.clarrive 1 0) objects))).clause 5).arr0 = 3 ∧
    (let s := sentBy (.clbar 8 1 0) (clause5 { Clause.empty with exp0 := 4, exp1 := 4, members := 4, arr0 := 1 } objects)
     ((after (exec .clauseHomeOp s)).clause 5).phase = 10 ∧ (((after (exec .clauseHomeOp s)).wave 0).split 0).wait = .none) ∧
    (after (exec .clauseHomeOp (sentBy (.clinfo 8 1 104 0 none) objects))).sReg 0 8 = 9 := by decide

/-- The premises of the join's and the arrivals' clauses. -/
theorem test_witness_clause_home_states : objects.clauseLive (clauseHandle 5 0) 0 1 = true ∧ (objects.clause 5).exp0 ≠ 0 ∧
    (objects.clause 5).arr0 ≠ (objects.clause 5).exp0 ∧ (objects.clause 5).refs ≠ 0 ∧ (objects.clause 5).op0 = none ∧
    (objects.clause 5).arr1 < (objects.clause 5).exp1 ∧ (objects.wave 0).findMemb (clauseHandle 5 0) = some 0 ∧ (objects.wave 0).life = .resident ∧
    (let m := mapGet Memb.empty (objects.wave 0).memb 0
     (7 : Mask) &&& ~~~ m.mask = 0 ∧ 7 &&& (m.arrived ||| m.pending) = 0 ∧ m.early = 0) ∧
    (hop (sentBy (.clarrive 1 0) objects)).arr = 7 ∧ (hop (sentBy (.clarrive 1 0) objects)).holding = false ∧
    (let s := objects.modWave 0 (fun x => { x with memb := [] })
     mapGet Memb.empty (s.wave 0).memb 0 = Memb.empty ∧
     (mapGet Memb.empty ((after (exec .clauseHomeOp (sentBy (.cljoin 8 1 0) s))).wave 0).memb 0).pending = 7) ∧
    (let s := clause5 { Clause.empty with refs := 2 } objects
     ((after (exec .clauseHomeOp (sentBy (.clclose 1 0) { s with clauses := [(5, { s.clause 5 with refs := 2 })] }))).clause 5).refs = 1) ∧
    (let s : State := { sentBy (.clinfo 8 1 104 0 none) objects with clauses := [] }
     s.clauseLive (clauseHandle 5 0) 0 1 = false ∧ s.nlBusy 0 = false ∧ (s.wave 0).csr.trapvec ≠ 0 ∧
     ((after (exec .clauseHomeOp s)).wave 0).csr.trapcause = 0x0B) := by decide

set_option maxRecDepth 16384 in
theorem test_witness_object_homes : ∀ i ∈ [Instr.bind 5 6 126 0 0 0 0 (some 128), .bind 5 6 126 0 0 1 0 (some 128), .acq 8 5 4 0 none,
    .acq 8 5 108 0 none, .rel 5 4 0 none, .qenqu 8 2 8 0, .rares 8 4 0, .rawait 8 4 108 0 none, .rawait 8 4 109 0 none, .rarel 4 109 0 none],
    AtHome (sentBy i objects) 0 (hop (sentBy i objects)) := by
  intro i hi
  simp only [List.mem_cons, List.not_mem_nil, or_false] at hi
  obtain rfl | rfl | rfl | rfl | rfl | rfl | rfl | rfl | rfl | rfl := hi <;> exact atHome_of _ (by decide) (fun _ => rfl)

set_option maxRecDepth 16384 in
/-- R178, R181, R172: an entry is enqueued behind the tail; a reservation counts; a slot that is filled answers its status; a lock
that holds less than asked for waits; a release writes. -/
theorem test_object_homes :
    (after (exec .queueHomeOp (sentBy (.qenqu 8 2 8 0) objects))).readNat 0x40418 8 = 6 ∧
    (let t := after (exec .ringHomeOp (sentBy (.rares 8 4 0) objects))
     t.sReg 0 8 = 6 ∧ t.readNat 0x40510 8 = 7) ∧
    (((after (exec .ringHomeOp (sentBy (.rawait 8 4 108 0 none) objects))).wave 0).split 0).wait = .none ∧
    (((after (exec .ringHomeOp (sentBy (.rawait 8 4 109 0 none) objects))).wave 0).split 0).wait = .home ∧
    (after (exec .lockHomeOp (sentBy (.acq 8 5 112 0 none) objects))).sReg 0 8 = 9 ∧
    (((after (exec .lockHomeOp (sentBy (.acq 8 5 114 0 none) objects))).wave 0).split 0).wait = .home ∧
    (after (exec .lockHomeOp (sentBy (.rel 5 114 0 none) objects))).readNat 0x40600 8 = 10 ∧
    (after (exec .ringHomeOp (sentBy (.rarel 4 109 0 none) objects))).readNat 0x40520 8 = 5 ∧
    (after (exec .bindHomeOp (sentBy (.bind 5 6 126 0 0 0 0 (some 128)) objects))).bindings.length = 1 := by decide

set_option maxRecDepth 16384 in
/-- The premises of the homes' clauses: room in the queue and none, a free slot in the ring and none. -/
theorem test_witness_object_home_states : 0 < (objects.queueHead 0x40400).room ∧ (objects.queueHead 0x40400).elog = 4 ∧
    placeOf objects .write 16 ((objects.queueHead 0x40400).slot 5) = some 0x40810 ∧
    (let s := putBytes objects 0x40418 [7]
     (s.queueHead 0x40400).sub = 0 ∧ (s.queueHead 0x40400).room = 0 ∧ (after (exec .queueHomeOp (sentBy (.qenqu 8 2 8 0) s))).sReg 0 8 = 1) ∧
    (objects.ringHead 0x40500).resv - (objects.ringHead 0x40500).rel ≠ 4 ∧ placeOf objects .write 4 ((objects.ringHead 0x40500).stat 6) = some 0x40908 ∧
    placeOf objects .read 4 ((objects.ringHead 0x40500).stat 4) = some 0x40900 ∧
    (let s := putBytes objects 0x40510 [8]
     (s.ringHead 0x40500).ok = true ∧ (s.ringHead 0x40500).resv - (s.ringHead 0x40500).rel = 4 ∧
     (((after (exec .ringHomeOp (sentBy (.rares 8 4 0) s))).wave 0).split 0).wait = .home) ∧
    2 ≤ handleType (hop (sentBy (.bind 5 6 126 0 0 0 0 (some 128)) objects)).hnd ∧ objects.boundObjects 0 = [] := by decide

theorem test_witness_fence : let s := sentBy (.fenceH 1 0) objects
    (s.wave 0).life = .resident ∧ (hop s).vals.length = 2 ∧ (∀ v, (s.wave v).flight = []) ∧ (∀ c, (s.cluster c).copies = []) ∧
    AtHome s 0 (hop s) ∧ (((after (exec .fenceHReturn s)).wave 0).split 0).wait = .none :=
  ⟨by decide, by decide, fun v => by cases v <;> rfl, fun _ => rfl, atHome_of _ (by decide) (fun _ => rfl), by decide⟩

/-! ### Launch, run-ahead and pre-emption -/

/-- A launch context whose queue is at 0x10480 and whose SAVEQ, at 0x10D00, holds two areas at 0x12000 and 0x13000; and a record at
0x10E00: ENTRY 0x10000, ARGS 0x1234, a grid of 2 × 1 × 1, one wave of two blocks, 768 accumulator rows. -/
def context : LaunchCtx := { header := 0x10480, asid := 0, ttbase := 0x10000, world := 1, priv := true, trapvec := 0x10100, saveq := 0x10D00,
                             savesize := 0x70000 }

def launches : State :=
  let s := putBytes objects 0x40480 (leBytes 8 0x10800 ++ leBytes 4 4 ++ leBytes 4 2 ++ leBytes 8 0 ++ leBytes 8 1 ++ leBytes 4 1)
  let s := putBytes s 0x40800 (leBytes 8 0x10E00)
  let s := putBytes s 0x40D00 (leBytes 8 0x10D80 ++ leBytes 4 4 ++ leBytes 4 2 ++ leBytes 8 0 ++ leBytes 8 2)
  let s := putBytes s 0x40D80 (leBytes 16 0x12000 ++ leBytes 16 0x13000)
  let s := putBytes s 0x40E00 (leBytes 8 0x10000 ++ leBytes 8 0x1234 ++ leBytes 4 2 ++ leBytes 4 1 ++ leBytes 4 1 ++ [1, 2, 0, 0, 0, 0, 0, 0] ++
    leBytes 2 768)
  { s with ctxs := [(0, some context)], tasks := [] }

set_option maxRecDepth 16384 in
/-- R266: an address that is no record's, a queue that is none of launches, and a record that is sent. -/
theorem test_witness_launch : launches.calm f0 = true ∧ dstOk 8 = true ∧ hOk 3 = true ∧ pairSrcOk false 6 = true ∧
    handleType (launches.readH 0 3) = 3 ∧ placeOf launches .readWrite 1 (handleAddr (launches.readH 0 3)) = some 0x40480 ∧
    (launches.queueHead 0x40480).sub = 0 ∧ (launches.queueHead 0x40480).watched = true ∧ (launches.queueHead 0x40400).watched = false ∧
    ((after (exec (.launch 8 3 6 0 none) launches)).wave 0).hops.length = 1 ∧
    ((after (exec (.launch 8 3 126 0 (some 0x10240)) launches)).wave 0).csr.trapcause = 5 ∧
    ((after (exec (.launch 8 3 120 0 none) launches)).wave 0).csr.trapcause = 5 ∧
    (let s := launches.modWave 0 (scalars [(7, 0x01000000)])
     canonical (s.readPair 0 0 none 6) = false ∧ ((after (exec (.launch 8 3 6 0 none) s)).wave 0).csr.trapcause = 7) ∧
    ((after (exec (.launch 8 2 6 0 none) launches)).wave 0).csr.trapcause = 13 := by decide

theorem test_witness_context_write : let s : State := { State.reset with nums := [255, 0x10480, 0, 0x10000, 1, 1, 0x10100, 0x10D00, 0x70000] }
    (255 : Nat) < 256 ∧ 0x10000 % 65536 = 0 ∧ 0x10100 % 4 = 0 ∧ (after (exec .launchContextWrite s)).ctx 255 = some context ∧
    (after (exec .launchContextWrite { after (exec .launchContextWrite s) with nums := [255] })).ctxs = [] := by decide

set_option maxRecDepth 16384 in
/-- R261: the launch queue's entry becomes the task of entry 0, then its record is read and found sound, and it starts. -/
theorem test_witness_launch_pop : launches.poppable = [(0, context, 0x40480, launches.queueHead 0x40480)] ∧ launches.freeTask = some 0 ∧
    (launches.queueHead 0x40480).prio < 4 ∧ 2 ^ (launches.queueHead 0x40480).elog = 16 ∧
    (launches.queueHead 0x40480).slot (launches.queueHead 0x40480).head = 0x10800 ∧
    touchSlot launches context.space .read 16 0x10800 = .at 0x40800 ∧
    canonical (BitVec.ofNat 64 (launches.readNat 0x40800 8)) = true ∧
    (match launches.engRead context.space 0x10E00 128 with
      | .ok _ => true
      | _ => false) = true ∧
    (let t := after (exec .launchQueuePop launches)
     (t.task 0).state = .popped ∧ (t.task 0).record = 0x10E00 ∧ (t.task 0).launchid = 0 ∧ t.readNat 0x40490 8 = 1 ∧
     (t.task 0).done0 = some 0 ∧ (t.task 0).counted = false) := by decide +kernel

/-- `launches` with a record whose DONE names clause 5. -/
def clauseDone : State := putBytes launches 0x40E28 (leBytes 8 (clauseHandle 5 0).toNat)

set_option maxRecDepth 16384 in
/-- R276: DONE is read at the pop, and the clause that it names expects one more reception. -/
theorem test_witness_launch_pop_clause : (let t := after (exec .launchQueuePop clauseDone)
    (t.task 0).done0 = some (clauseHandle 5 0) ∧ handleType (t.task 0).done = 1 ∧
    clauseDone.clauseLive (t.task 0).done context.asid context.world = true ∧ (t.task 0).counted = true ∧
    (t.clause 5).exp0 = (clauseDone.clause 5).exp0 + 1) ∧
    (let s := putBytes clauseDone 0x40800 (leBytes 8 0x10E04)
     (BitVec.ofNat 64 (s.readNat 0x40800 8) : Dword).toNat % 128 ≠ 0 ∧ ((after (exec .launchQueuePop s)).task 0).done0 = none) := by decide +kernel

/-- The task popped, and read. -/
def popped : State := { after (exec .launchQueuePop launches) with nums := [0] }

def ready : State := { after (exec .launchRecordRead popped) with nums := [0] }

set_option maxRecDepth 16384 in
theorem test_witness_record : popped.nums = [0] ∧ (popped.task 0).state = .popped ∧ (popped.task 0).wait = none ∧ popped.ctx 0 = some context ∧
    canonical (popped.task 0).record = true ∧ (popped.task 0).record.toNat % 128 = 0 ∧ context.saveq ≠ 0 ∧ context.saveq.toNat % 128 = 0 ∧
    (popped.queueHead 0x40D00).sub = 0 ∧ (ready.task 0).state = .ready ∧ (ready.task 0).recordOk context = true ∧
    handleType (ready.task 0).done ≠ 1 ∧ (∀ e ∈ ready.tasks, e.2.blocks (ready.task 0) = false) := by decide +kernel

def started : State := { after (exec .taskStart ready) with nums := [0, 0, 0], gangs := [], waves := [] }

set_option maxRecDepth 16384 in
/-- R271, R273: the first gang is placed on cluster 0, its wave on a seat there, with the first save area. -/
theorem test_witness_place : (started.sweep.task 0).state = .started ∧ started.sweep.ctx 0 = some context ∧
    (started.sweep.popAreas context 1).map Prod.fst = some [0x12000] ∧
    (pickHome (started.sweep.task 0).lastCluster 0 (started.sweep.homesFor (started.sweep.task 0))).map (fun e => (e.1, e.2.2)) = some (0, [0]) := by decide +kernel

def placed : State := { after (exec .gangPlace started) with nums := [2, 0] }

set_option maxRecDepth 16384 in
theorem test_witness_wave_start : (placed.gang 2).live = true ∧ (placed.gang 2).areas = [0x12000] ∧ (placed.gang 2).waves = 1 ∧
    placed.ctx (placed.task (placed.gang 2).task).ctx = some context ∧ (placed.cluster (placed.gang 2).cluster).copies = [] ∧
    (let t := after (exec .waveStart placed)
     t.sReg 3 0 = 0x1234 ∧ ((t.wave 3).split 0).pc = 0x10000 ∧ (t.wave 3).csr.savearea = 0x12000) := by decide +kernel

/-- A gang of two waves of which the first has ended (R275). -/
def ending : State := { (launches.modGang 0 (fun g => { g with waves := 2, ids := [(0, 0), (1, 1)], ended := [0] })).modWave 0 (fun x => { x with
  area := 0x12000, splits := List.replicate 5 Split.free }) with nums := [0] }

set_option maxRecDepth 16384 in
theorem test_witness_slot_release : ending.nums = [0] ∧ (ending.wave 0).finished = true ∧
    ending.ctx (ending.task (ending.gang (ending.wave 0).gang).task).ctx = some context ∧
    (ending.returnArea context (ending.wave 0).area).2 = true ∧ (ending.gang 0).released.length + 1 < (ending.gang 0).waves ∧
    (after (exec .waveSlotRelease ending)).wave 0 = (ending.wave 0).gone := by decide +kernel

/-- A task of one gang that is over, with a DONE queue at 0x10400 or none (R276). -/
def finished (done : Nat) : State := { launches with
  waves := [], gangs := [], nums := [0],
  tasks := [(0, { Task.empty with
    state := .started, record := 0x10E00, nextGang := 1,
    bytes := List.replicate 16 0 ++ leBytes 4 1 ++ leBytes 4 1 ++ leBytes 4 1 ++ List.replicate 12 0 ++ leBytes 8 done ++ List.replicate 80 0 })] }

set_option maxRecDepth 16384 in
theorem test_witness_retire : (finished 0).sweep.taskOver 0 = true ∧ (finished 0).sweep.ctx 0 = some context ∧
    handleType ((finished 0).task 0).done = 0 ∧ (after (exec .taskRetire (finished 0))).tasks = [] ∧
    (let s := finished (3 * 2 ^ 60 + 0x10400)
     s.sweep.taskOver 0 = true ∧ handleType (s.task 0).done = 3 ∧ (handleAddr (s.task 0).done).toNat % 128 = 0 ∧
     (s.queueHead 0x40400).sub = 0 ∧ 0 < (s.queueHead 0x40400).room ∧ s.badAt 0x40400 128 = false ∧
     (after (exec .taskRetire s)).readNat 0x40810 8 = 0x10E00 ∧ (after (exec .taskRetire s)).readNat 0x40418 8 = 6) ∧
    (let s : State := { finished (3 * 2 ^ 60 + 0x10400) with tasks := (finished (3 * 2 ^ 60 + 0x10400)).tasks.map (fun e =>
        (e.1, { e.2 with state := .posting 2 })) }
     s.sweep.tasks = s.tasks ∧ (s.task 0).state = .posting 2 ∧ (s.task 0).wait = none ∧ (s.task 0).retryAt ≤ s.clk ∧
     (after (exec .completionRetry s)).readNat 0x4081C 4 = 2) := by decide +kernel

/-- The task that retries its posting, in a state that its sweep leaves as it is. -/
def retrying : State := { finished (3 * 2 ^ 60 + 0x10400) with tasks := (finished (3 * 2 ^ 60 + 0x10400)).tasks.map (fun e =>
  (e.1, { e.2 with state := .posting 2 })) }

theorem test_witness_retry : retrying.sweep = retrying := rfl

set_option maxRecDepth 16384 in
/-- R276: a task whose DONE names a clause posts one reception. -/
theorem test_witness_retire_clause : (let s := finished (clauseHandle 5 0).toNat
    let u : State := { s.sweep with tasks := s.sweep.tasks.map (fun e => (e.1, { e.2 with counted := true })) }
    u.taskOver 0 = true ∧ handleType (u.task 0).done = 1 ∧ u.clauseLive (u.task 0).done context.asid context.world = true ∧
    u.waves = [] ∧ (u.clause 5).refs ≠ 0 ∧ (u.clause 5).exp0 = 4 ∧ (u.clause 5).arr0 = 0 ∧
    ((after (exec .taskRetire u)).clause 5).arr0 = 1 ∧ (after (exec .taskRetire u)).tasks = []) := by decide +kernel

/-- Run-ahead (R299): a checkpoint of `regs`' registers, stopped or about to be. -/
def ahead (stopped : Bool) (insns : Nat) : State := { regs.modWave 0 (fun x => { x with
  s := [(2, 99)],
  ra := some { cp := { v := x.v, s := x.s, p := x.p, h := x.h, mode := 0, fpstat := 0, splits := x.splits, board := [], counters := [], badRegs := [] },
               split := 0, asid := 0, page := 2, va := 0x20000, access := 1, scope := 0xFF, poison := [], pages := [2], created := [],
               insns, stopped, outcome := 0, fromSeq := 0 } }) with nums := [0] }

theorem test_witness_run_ahead : (ahead false 64).nums = [0] ∧ ((after (exec .runaheadEnd (ahead false 64))).wave 0).ra.map RunAhead.stopped = some true ∧
    ((after (exec .runaheadEnd (ahead false 63))).wave 0).ra.map RunAhead.stopped = some false ∧
    (∀ a ∈ ((ahead true 9).wave 0).flight, a.seq < 0) ∧ ((ahead true 9).wave 0).badCheckpoint = false ∧
    ((ahead true 9).wave 0).preempt = false ∧ ((ahead true 9).wave 0).pend = none ∧ ((ahead true 9).wave 0).life = .resident ∧
    (∀ p ∈ ((ahead true 9).wave 0).splits, p.pend = none) ∧ ((ahead true 9).wave 0).splits.length = 5 ∧
    (after (exec .rollback (ahead true 9))).sReg 0 2 = 7 ∧ ((after (exec .rollback (ahead true 9))).wave 0).csr.raInsns = 9 ∧
    (((after (exec .rollback (ahead true 9))).wave 0).split 0).wait = .merge 0 2 0x20000 ∧
    (let s := (ahead true 9).modWave 0 (fun x => { x with badCheckpoint := true })
     (s.wave 0).badCheckpoint = true ∧ ((after (exec .rollback s)).wave 0).died = true) := by decide

theorem test_witness_starving : let s : State := { regs with clk := 512, nums := [0] }
    (s.wave 0).canIssue 0 = true ∧ ((s.wave 0).split 0).held = false ∧ max (s.wave 0).readySince ((s.wave 0).split 0).readyClk + 512 ≤ s.clk ∧
    ((after (exec .waveStarving s)).wave 0).starving = true := by decide

theorem test_witness_preempt : let s : State := { regs with nums := [0] }
    (s.wave 0).life = .resident ∧ (s.wave 0).died = false ∧ (s.wave 0).ended = false ∧ (s.wave 0).csr.handler = false ∧
    (s.wave 0).ra = none ∧ s.nl = [] ∧ (s.wave 0).hops = [] ∧ ((after (exec .preemptRequest s)).wave 0).preempt = true ∧
    ((ahead false 1).wave 0).ra ≠ none ∧ ((after (exec .preemptRequest (ahead false 1))).wave 0).preempt = true ∧
    (handling.wave 0).csr.handler = true ∧ ((after (exec .preemptRequest { handling with nums := [0] })).wave 0).preemptLater = true ∧
    (let u : State := { after (exec .preemptRequest s) with nums := [0] }
     (u.wave 0).running = true ∧ u.drained 0 = true ∧ (u.wave 0).csr.trapvec ≠ 0 ∧ (u.wave 0).splits.length = 5 ∧
     (∀ k, k < 4 → ((u.wave 0).split k).pend = none) ∧
     ((after (exec .preemptEntry u)).wave 0).csr.trapcause = 0x12 ∧ (((after (exec .preemptEntry u)).wave 0).split 4).pc = 0x10100) := by
  decide

/-- The wave parked (R287), with a window of 1 KiB that is evicted with it. -/
def parked : State := { (after (exec (.park 0) handling)).modGang 0 (fun g => { g with scrKib := 1, scratch := [(3, 7)] }) with nums := [0] }

/-- A started task of one gang, of a priority and a number of accumulator rows, that has placed its gang or has not. -/
def taskOf (prio rows placed : Nat) : Task := { Task.empty with
  state := .started, nextGang := placed,
  bytes := leBytes 16 0 ++ leBytes 4 1 ++ leBytes 4 1 ++ leBytes 4 1 ++ [1, 2, 0, 0, 0, BitVec.ofNat 8 prio, 0, 0] ++ leBytes 2 rows ++ List.replicate 90 0 }

/-- A state whose gang 0, of priority 3, holds all rows of the one cluster of its world, and a task of priority 0 that needs them;
the page at 0x70000 lies at 0x50000. -/
def crowd (s : State) : State :=
  let s := putBytes s 0x30038 (leBytes 8 0x5001D)
  let s := putBytes s 0x40D00 (leBytes 8 0x10D80 ++ leBytes 4 4 ++ leBytes 4 2 ++ leBytes 8 0 ++ leBytes 8 2)
  let s := putBytes s 0x40D80 (leBytes 16 0x12000 ++ leBytes 16 0x13000)
  { s with
    gangs := [(0, { Gang.none with
      live := true, waves := 1, vregs := 16, ids := [(0, 0)], seats := [(0, 0)], quota := [(0, 16)], accRows := 768, scrKib := 1, scratch := [(3, 7)] })]
    clusters := (List.range 63).map (fun c => (c + 1, { Cluster.reset with secure := false }))
    ctxs := [(0, some context)], tasks := [(0, taskOf 3 768 1), (1, taskOf 0 768 0)] }

/-- R288: the parked gang, whose rows a gang of priority 0 needs, and its eviction. -/
def evicting : State := crowd parked

set_option maxRecDepth 16384 in
theorem test_witness_evict : evicting.nums = [0] ∧ evicting.allParked 0 = true ∧ (evicting.gang 0).evicted = false ∧
    (evicting.wave (mapGet 0 (evicting.gang 0).ids 0)).life = .parked ∧ evicting.windowBusy 0 = false ∧
    (match evicting.engPlaces (evicting.imgSpace 0) .write (evicting.scrImg 0) 1024 with
      | .ok l => l
      | .error _ => []) = [(0x59E00, 1024)] ∧
    checkVa evicting (evicting.imgSpace 0) .write 1 ((evicting.wave 0).csr.savearea + 5) = .ok 0x41005 ∧
    evicting.victims (evicting.task 1) = [0] := by decide +kernel

set_option maxRecDepth 16384 in
theorem test_evict : let t := after (exec .gangEvict evicting)
    evicting.spaceNeeded 0 = true ∧ (t.gang 0).evicted = true ∧ (t.gang 0).scratch = [] ∧ t.readNat 0x41005 1 = 1 ∧ t.readNat 0x59E03 1 = 7 := by
  decide +kernel

/-- R277: a gang of priority 0 that fits no cluster pre-empts the gang of priority 3. -/
def crowded : State := { crowd regs with nums := [1, 0, 0] }

set_option maxRecDepth 16384 in
theorem test_witness_victims : let u := crowded.sweep
    (∀ e ∈ u.tasks, e.2.before (u.task 1) = true → u.homesFor e.2 = []) ∧ u.homesFor (u.task 1) = [] ∧ u.ctx (u.task 1).ctx = some context ∧
    (u.saveHead context 1).isSome = true ∧ u.roomFor (u.task 1) context 0 (u.lesserGangs 0) [] = some [0] ∧ mapWf Gang.none u.gangs = true ∧
    ((after (exec .gangPlace crowded)).wave 0).preempt = true := by decide +kernel

set_option maxRecDepth 16384 in
/-- R289: the parked wave is placed again and enters its handler with RESUME. -/
theorem test_witness_resume : let s : State := { after (exec (.park 0) handling) with nums := [0, 0] }
    s.sweep.canResume (s.sweep.wave 0) = true ∧ s.sweep.spaceNeeded (s.sweep.wave 0).gang = false ∧
    (∀ e ∈ s.sweep.waves, e.1 = 0) ∧ (s.sweep.gang 0).evicted = false ∧
    (match s.sweep.engRead (s.sweep.space 0) ((s.sweep.wave 0).csr.savearea + 0x40) 128 with
      | .ok _ => true
      | _ => false) = true ∧ (s.sweep.resumeSeat (s.sweep.wave 0)).isSome = true ∧
    (s.sweep.wave 0).csr.handler = false ∧ (s.sweep.wave 0).csr.trapvec ≠ 0 ∧ s.sweep.nlBusy 0 = false := by decide

set_option maxRecDepth 16384 in
theorem test_resume : let s : State := { after (exec (.park 0) handling) with nums := [0, 0] }
    ((after (exec .waveResume s)).wave 0).csr.trapcause = 0x13 ∧ (((after (exec .waveResume s)).wave 0).split 4).pc = 0x10100 := by decide

/-! ### The platform, the copy engine and the matrix engine -/

/-- The places of an engine's access, where it is granted. -/
def places (s : State) (sp : Space) (acc : Access) (va : Dword) (n : Nat) : Option (List (Nat × Nat)) :=
  match s.engPlaces sp acc va n with
  | .ok ps => some ps
  | .error _ => none

/-- SMC (R303): functions 0 to 5, one that has no number, and what their arguments may be. -/
theorem test_witness_monitor : regs.calm f0 = true ∧ regs.mayPriv f0 = true ∧ (8 : Code).toNat < 96 ∧ srcOk false 104 = true ∧
    pairSrcOk false 6 = true ∧ litOnce [104, 6] = true ∧ (regs.wave 0).csr.world = 1 ∧
    (∀ k : Nat, k < 7 → (regs.readSrc 0 0 none (BitVec.ofNat 7 (104 + k))).toNat = k) ∧
    0x10200 % 64 = 0 ∧ places regs (regs.space 0) .readWrite 0x10200 3584 = some [(0x40200, 3584)] ∧
    (after (exec (.smcVersion 8 104 6 0 none) (regs.modWave 0 (scalars [(6, 0x10204)])))).sReg 0 8 = 1 ∧
    (after (exec (.smcVersion 8 110 6 0 none) regs)).sReg 0 8 = 0xFFFFFFFF ∧
    (let s := regs.modWave 0 (fun x => { x with csr := { x.csr with world := 0 } })
     s.calm f0 = true ∧ (s.wave 0).csr.world ≠ 1 ∧ (after (exec (.smcBlockworld 8 106 6 0 none) s)).sReg 0 8 = 2) := by decide

/-- Block 0 is in use by wave 0, block 88 is none, block 64 is free: it leaves the secure world; and a region is zeroed. -/
theorem test_witness_worlds : regs.blockBusy 0 = true ∧ regs.blockBusy 64 = false ∧ regs.nlSecure.length = 8 ∧ regs.portSecure.length = 8 ∧
    (after (exec (.smcBlockworld 8 106 104 0 none) regs)).sReg 0 8 = 3 ∧
    (after (exec (.smcBlockworld 8 106 126 0 (some 88)) regs)).sReg 0 8 = 1 ∧
    ((after (exec (.smcBlockworld 8 106 126 0 (some 64)) regs)).blockSecure 64, regs.blockSecure 64) = (false, true) ∧
    (after (exec (.smcRegionworld 8 107 126 0 (some 3)) regs)).regionSecure.getD 3 true = false ∧
    (after (exec (.smcFramecfg 8 108 6 0 none) regs)).framecfg = some 0x40200 ∧
    (after (exec (.smcPower 8 109 6 0 none) regs)).sReg 0 8 = 0 := by decide

/-- R303: an attestation into a buffer that is there completes. -/
theorem test_attestation : (after (exec (.smcAttest 8 105 6 0 none) regs)).sReg 0 8 = 0 := by decide

/-- R387, R388: a monitor image whose header has no MAGIC halts the ROM. -/
theorem test_module_reset : let s : State := { regs with flash := some { keys := [], monitor := List.replicate 4000 0, runtime := [] } }
    (after (exec .moduleReset s)).boot = .halted ∧ (after (exec .moduleReset s)).waves = [] ∧
    (after (exec .thermalLimit { regs with nums := [1] })).limited = true := by
  refine ⟨?_, rfl, by decide⟩
  have h : ∀ keys, imageOk keys 1 (List.replicate 4000 0) = false := fun keys => by unfold imageOk; rfl
  show Flash.boots { keys := [], monitor := List.replicate 4000 0, runtime := [] } = _
  unfold Flash.boots
  rw [h, Bool.and_false]
  rfl

/-- Queue pair 3 in the space of wave 0. -/
def linked (nums : List Nat) (bytes : List Byte) : State :=
  { after (exec .queuePairBind { objects with nums := [3, 0, 0, 0x10000, 1] }) with nums, bytes }

set_option maxRecDepth 16384 in
theorem test_witness_remote : (linked [3, 0x10200] [1, 2]).qpUp 3 = true ∧ (3 : Nat) < 16384 ∧
    places (linked [3, 0x10200] [1, 2]) ((linked [] []).qpSpace 3) .write 0x10200 2 = some [(0x40200, 2)] ∧
    (linked [] []).placesOwned [(0x40200, 2)] = false ∧ (linked [] []).badAt 0x40200 2 = false ∧
    (after (exec .rdmaWrite (linked [3, 0x10200] [1, 2]))).readBytes 0x40200 2 = [1, 2] ∧
    ((after (exec .rdmaReadRequest (linked [3, 0x10600, 1] []))).sent.map Packet.bytes) = [[9]] ∧
    bthAccepted 0x40 = false ∧ ((after (exec .invalidRequest (linked [3, 0x40] []))).qp 3).error = true ∧
    ((after (exec .rdmaResponse (linked [3, 0x11] [0x61]))).qp 3).error = true := by decide

set_option maxRecDepth 16384 in
/-- R382: compare and swap and fetch and add on the lock word, which holds 9, and the same request sent again. -/
theorem test_witness_remote_atomics : replayOf ((linked [] []).qp 3).window 7 = .fresh ∧
    (let t := after (exec .compareSwap (linked [3, 7, 0x10600, 9, 5] []))
     t.readNat 0x40600 8 = 5 ∧ t.sent.map Packet.value = [9] ∧ replayOf (t.qp 3).window 7 = .again 9 false ∧
       (after (exec .compareSwap { t with nums := [3, 7, 0x10600, 9, 5] })).readNat 0x40600 8 = 5 ∧
       (after (exec .fetchAdd { t with nums := [3, 8, 0x10600, 2] })).readNat 0x40600 8 = 7) := by decide

set_option maxRecDepth 8192 in
/-- R383: a remote enqueue finds room at entry 5 of the queue at 0x10400. -/
theorem test_witness_remote_enqueue : let s := linked [3, 7, 0x10400] (List.replicate 16 3)
    s.nums = [3, 7, 0x10400] ∧ 0x10400 % 128 = 0 ∧ s.lineOwned (0x40400 / 128) = false ∧ (s.queueHead 0x40400).sub = 0 ∧ s.bytes.length = 2 ^ (s.queueHead 0x40400).elog ∧
    0 < (s.queueHead 0x40400).room ∧ (after (exec .remoteEnqueue s)).readNat 0x40418 8 = 6 ∧
    (after (exec .remoteEnqueue s)).readBytes 0x40810 2 = [3, 3] ∧
    (let u := putBytes s 0x40418 [7]
     (u.queueHead 0x40400).sub = 0 ∧ (u.queueHead 0x40400).room = 0 ∧ (after (exec .remoteEnqueue u)).sent.map Packet.value = [1]) := by decide

set_option maxRecDepth 16384 in
/-- R384: three arrivals of four, five of four, and an expectation. -/
theorem test_witness_remote_arrive : let go := fun (count flags : Nat) => linked [3, 7, (clauseHandle 5 0).toNat, count, flags] []
    handleType (clauseHandle 5 0) = 1 ∧ (go 3 0).clauseLive (clauseHandle 5 0) ((go 3 0).qp 3).asid ((go 3 0).qp 3).world = true ∧
    ((after (exec .remoteArrive (go 3 0))).clause 5).arr0 = 3 ∧ ((after (exec .remoteArrive (go 5 0))).clause 5).arr0 = 0 ∧
    ((after (exec .remoteArrive (go 3 1))).clause 5).exp0 = 7 ∧ (∀ v, ((go 3 0).wave v).hops = []) := by
  refine ⟨?_, ?_, ?_, ?_, ?_, fun v => by cases v <;> rfl⟩ <;> decide

/-- A delivery record at 0x10200: queue pair 3, frames of 4 bytes, buffers at 0x10600 and 0x10640, frame 2 done, frame `sent` sent. -/
def frames (sent : Nat) : State := { putBytes (linked [] []) 0x40200 (leBytes 4 3 ++ leBytes 4 4 ++ leBytes 8 0x10600 ++ leBytes 8 0x10640 ++
  leBytes 8 0x77 ++ leBytes 8 2 ++ leBytes 8 sent) with framecfg := some 0x40200, framedeadline := 30, frameOut := [(0x40200, 1), (0x40200, 2)], nums := [2] }

set_option maxRecDepth 16384 in
theorem test_witness_frames : (frames 1).framecfg = some 0x40200 ∧ (frames 1).framedeadline ≠ 0 ∧ (frames 1).qpUp ((frames 1).readNat 0x40200 4) = true ∧
    (frames 1).readNat 0x40228 8 < (frames 1).readNat 0x40220 8 ∧ (frames 2).readNat 0x40220 8 ≤ (frames 2).readNat 0x40228 8 ∧
    (after (exec .frameDeadline (frames 1))).sent.map (fun p => (p.kind, p.value, p.bytes)) = [(6, 0x77, [9, 0, 0, 0]), (7, 2, [])] ∧
    (after (exec .frameDeadline (frames 1))).clk = 30 ∧ (after (exec .frameDeadline (frames 2))).readNat 0x40230 4 = 1 ∧
    (after (exec .frameDeadline (frames 1))).frameOut = [(0x40200, 1), (0x40200, 2), (0x40200, 2)] ∧
    (after (exec .frameAck (frames 1))).readNat 0x40228 8 = 2 ∧ (after (exec .frameAck (frames 1))).frameOut = [(0x40200, 1)] ∧
    (∀ e ∈ (frames 1).frameOut, e.2.toNat ≠ 3) := by decide

/-! #### The copy engine -/

/-- `objects` with h4 the ring, v1 offsets 0, 4 and 8, and four bytes of source at 0x10200; slot 5 in s10:s11. -/
def copying : State := putBytes (objects.modWave 0 (fun x => lanes 6 [0, 64, 128] (scalars [(10, 5)] x))) 0x40200 (leBytes 4 77 ++ leBytes 4 78)

def copyIn : Instr := .cpy 6 1 10 4 3 0 0 0 1 0 none

set_option maxRecDepth 8192 in
theorem test_witness_copy_issue : copying.quiet f0 = true ∧ vOk (copying.wave 0) 6 1 = true ∧ pairSrcOk false 10 = true ∧
    handleType (copying.readH 0 4) = 2 ∧ placeOf copying .readWrite 1 (handleAddr (copying.readH 0 4)) = some 0x40500 ∧
    (copying.ringHead 0x40500).ok = true ∧ (copying.ringHead 0x40500).rel ≤ 5 ∧ 5 < (copying.ringHead 0x40500).resv ∧
    (copying.readPair 0 0 none 10).toNat = 5 ∧ (copying.wave 0).counter 6 < 63 ∧
    (Mask.lanes (copying.live 0 0)).map (copying.cpyAddr 0 0 3 1) = [0x10200, 0x10204, 0x10208] ∧
    (Mask.lanes (copying.live 0 0)).map (copying.cpyAddr 0 1 0 6) = [0, 64, 128] ∧
    (((after (exec copyIn copying)).cluster 0).copyCmds.map CopyCmd.slot) = [5] ∧ ((after (exec copyIn copying)).wave 0).counter 6 = 1 := by decide

/-- The command, accepted; and it ends (R186, R193). -/
def accepted : State := { after (exec .engineCommandAccept { after (exec copyIn copying) with nums := [0, 0] }) with nums := [0, 0] }

set_option maxRecDepth 8192 in
theorem test_witness_copy_run : let s : State := { after (exec copyIn copying) with nums := [0, 0] }
    ((s.cluster 0).acceptable 0).isSome = true ∧
    (∀ c ∈ (s.cluster 0).copyCmds, c.heldBy s 0 (c.head s 0) = false ∧ c.headOwned s 0 = false ∧ c.owns (c.head s 0) [] = [] ∧ c.counted = true ∧
      (s.wave 0).cpys = [(c.seq, false)]) ∧
    (accepted.wave 0).counter 6 = 0 ∧ (accepted.wave 0).cpys = [] ∧ accepted.badScratch = [] ∧
    (∀ c ∈ (accepted.cluster 0).copyCmds, c.accepted = true ∧ accepted.copyBlocked 0 0 c = false ∧ c.sourceOwned accepted 0 = false ∧
      c.data = [] ∧ c.src = [0x10200, 0x10204, 0x10208] ∧ c.dst = [0, 64, 128] ∧
      places accepted (c.space 0) .read 0x10200 12 = some [(0x40200, 12)] ∧
      touchSlot accepted (c.space 0) .write 4 ((accepted.ringHead c.ring.toNat).stat c.slot) = .at 0x40904) ∧
    (let t := after (exec .copySlotEnd accepted)
     t.scrRead 0 64 4 = leBytes 4 78 ∧ (t.cluster 0).copyCmds = [] ∧ t.readNat 0x40904 4 = 2 ^ 31 + 12) := by decide

/-- CPYMC to clusters 0 and 1, on its way to its clause's home, where it counts two receptions (R193). -/
def multicasting : State := sentBy (.cpymc 126 1 107 0 0 (some 64)) objects

def multicast : State := after (exec .clauseHomeOp multicasting)

/-- With a reception outstanding at every clause. -/
def engaged (s : State) : State := { s with clauses := s.clauses.map (fun e => (e.1, { e.2 with eng0 := 1 })) }

set_option maxRecDepth 16384 in
theorem test_witness_cpymc_home : AtHome multicasting 0 (hop multicasting) ∧ (hop multicasting).op = .cpymc 126 1 107 0 0 (some 64) :=
  ⟨atHome_of _ (by decide) (fun v => by cases v <;> rfl), by decide⟩

set_option maxRecDepth 16384 in
theorem test_witness_cpymc : srcOk false 126 = true ∧ hOk 1 = true ∧ pairSrcOk false 107 = true ∧ handleType (objects.readH 0 1) = 1 ∧
    objects.clauseLive (objects.readH 0 1) 0 1 = true ∧ (objects.clause 5).eng0 = 0 ∧ 64 % 64 = 0 ∧ 64 + 64 * 1 ≤ (objects.wave 0).csr.scrsize.toNat ∧
    (multicasting.wave 0).hops.length = 1 ∧ ((multicasting.wave 0).hops.map (fun h => (h.val 0, h.val 1))) = [(64, 3)] ∧
    (multicast.wave 0).hops = [] ∧ (multicast.wave 0).counter 6 = 1 ∧ (multicast.cluster 0).copyCmds.map CopyCmd.left = [[0, 1]] ∧
    (multicast.clause 5).eng0 = 2 ∧ (multicast.clause 5).exp0 = 6 ∧
    (let s := engaged multicasting
     (s.clause 5).eng0 ≠ 0 ∧ ((after (exec .clauseHomeOp s)).wave 0).hops.map HomeOp.reached = [true]) ∧
    (let s := engaged objects
     (s.clause 5).eng0 ≠ 0 ∧ ((after (exec (.cpymc 126 1 107 0 0 (some 64)) s)).wave 0).hops = []) ∧
    ((after (exec (.cpymc 126 1 107 0 0 (some 65)) objects)).wave 0).csr.trapcause = 5 ∧
    ((after (exec (.cpymc 126 2 107 0 0 (some 64)) objects)).wave 0).csr.traparg = 1 ∧
    ((after (exec (.cpymc 126 1 107 0 0 (some 64)) { objects with clauses := [] })).wave 0).csr.traparg = 2 := by decide

set_option maxRecDepth 16384 in
theorem test_witness_reception : let s : State := { after (exec .engineCommandAccept { multicast.modGang 0 (fun g => { g with scratch := [(64, 5)] }) with nums := [0, 0] }) with nums := [0, 0, 0] }
    (∀ c ∈ (s.cluster 0).copyCmds, c.accepted = true ∧ 0 ∈ c.left ∧ s.copyBlocked 0 0 { c with left := [0] } = false ∧
      (s.clause 5).gen = handleGen c.hnd ∧ (s.clause 5).refs ≠ 0 ∧ (s.clause 5).exp0 ≠ 0 ∧ c.off = 64 ∧ c.data = [5] ++ List.replicate 63 0) ∧ (s.clause 5).live = true ∧ (s.clause 5).arr0 + 1 ≠ (s.clause 5).exp0 ∧
    (∀ v, (s.wave v).hops = []) ∧ s.gridOn 0 0 = [0] ∧
    ((after (exec .cpymcReception s)).clause 5).arr0 = 1 ∧ ((after (exec .cpymcReception s)).cluster 0).copyCmds.map CopyCmd.left = [[1]] :=
  ⟨by decide, by decide, by decide, fun v => by cases v <;> rfl, by decide, by decide, by decide⟩

set_option maxRecDepth 8192 in
/-- PACK and UNPACK between scratch 64 and a tile at scratch 0; offset 65 is no multiple of 64, nor is the tile's base 2. -/
theorem test_witness_pack : srcOk false 126 = true ∧ pairSrcOk false 8 = true ∧ litOnce [126, 8, 10] = true ∧
    (let go := fun (i : Instr) => after (exec i copying)
     (go (.pack 126 8 10 4 1 4 0 (some 64)) |>.cluster 0).copyCmds.length = 1 ∧ (go (.unpack 126 8 10 4 1 0 4 0 (some 64)) |>.cluster 0).copyCmds.length = 1 ∧
     (go (.pack 126 8 10 4 1 4 0 (some 65)) |>.wave 0).csr.trapcause = 5 ∧ (go (.unpack 126 106 10 4 1 0 4 0 (some 64)) |>.wave 0).csr.trapcause = 5) := by
  decide

/-- A copy out of 0x10200, 0x10204 and 0x10208, accepted, with its page in the cluster's TLB. -/
def acceptedOf (i : Instr) (s : State) : State := { after (exec .engineCommandAccept { after (exec i s) with nums := [0, 0] }) with nums := [0, 0] }

def copyOut : Instr := .cpy 6 1 10 4 3 3 0 0 0 0 none

def outgoing : State := (acceptedOf copyOut copying).keepTlb 256 0 (copying.wave 0).csr.ttbase 0x10200

/-- The third lane's source has no page. -/
def cutShort : State := acceptedOf copyIn (copying.modWave 0 (lanes 1 [0, 4, 0x20000]))

set_option maxRecDepth 16384 in
theorem test_witness_copy_out :
    (let c := (outgoing.cluster 0).copyCmds.headD (copyCmd 0 outgoing copyOut);
      (outgoing.cluster 0).copyCmds.length = 1 ∧ c.op = copyOut ∧ c.accepted = true ∧ outgoing.copyBlocked 0 0 c = false ∧
      c.sourceOwned outgoing 0 = false ∧ c.src = [0x10200, 0x10204, 0x10208] ∧ c.dst = [0x10200, 0x10240, 0x10280] ∧
      c.pages.map (fun p => (p.page, p.pa, p.err)) = [(1, 0x40000, none)] ∧
      ∀ mem, touchSlot { outgoing with mem } (c.space 0) .write 4 ((outgoing.ringHead c.ring.toNat).stat c.slot) = .at 0x40904) ∧
    (let t := after (exec .copySlotEnd outgoing)
     t.readBytes 0x40240 4 = leBytes 4 78 ∧ t.readNat 0x40904 4 = 2 ^ 31 + 12) := by
  refine ⟨⟨?_, ?_, ?_, ?_, ?_, ?_, ?_, ?_, fun _ => rfl⟩, ?_⟩ <;> decide

set_option maxRecDepth 16384 in
/-- R191: the lanes below are copied, and the slot ends with their 8 bytes and CAUSE XLATE, which is reported. -/
theorem test_copy_is_cut : (cutShort.cluster 0).copyCmds.map (fun c => (c.src, c.dst, c.accepted)) = [([0x10200, 0x10204, 0x30200], [0, 64, 128], true)] ∧
    cutShort.faultWaits 0 0 { cause := 6, va := 0x30200, bad := false } = false ∧
    (let t := after (exec .copySlotEnd cutShort)
     t.scrRead 0 64 4 = leBytes 4 78 ∧ t.readNat 0x40904 4 = 2 ^ 31 + 2 ^ 30 + 6 * 2 ^ 24 + 8 ∧ t.faults.length = 1) := by decide

/-- A bitmap tile of one row of bytes in scratch: 4 values in the main slot at 64, the bitmap at 128, columns 0 and 5 kept; and its
dense row at 192. -/
def tileBytes : List Byte := [3, 10, 4, 7] ++ leBytes 2 1 ++ leBytes 2 64 ++ leBytes 4 64 ++ leBytes 4 128 ++ List.replicate 48 0 ++
  [7, 9] ++ List.replicate 62 0 ++ leBytes 8 0x21

def tiled (i : Instr) (bytes : List Byte) : State :=
  acceptedOf i (((copying.modGang 0 (fun g => { g with scrKib := 1 })).scrWrite 0 0 tileBytes).scrWrite 0 192 bytes)

def unpacking : State := tiled (.unpack 126 8 10 4 1 0 4 0 (some 192)) []

def packing (bytes : List Byte) : State := tiled (.pack 126 8 10 4 1 4 0 (some 192)) bytes

set_option maxRecDepth 16384 in
theorem test_witness_unpack :
    (∀ c ∈ (unpacking.cluster 0).copyCmds, c.op = .unpack 126 8 10 4 1 0 4 0 (some 192) ∧ c.accepted = true ∧
      unpacking.copyBlocked 0 0 c = false ∧ c.sourceOwned unpacking 0 = false ∧ c.cut = none ∧ (tileHead c.data).ok = true ∧
      (tileHead c.data).cols * (tileHead c.data).eb ≤ 16 * 4 ∧ (c.view unpacking 0).limit = 1024 ∧
      touchSlot unpacking (c.space 0) .write 4 ((unpacking.ringHead c.ring.toNat).stat c.slot) = .at 0x40904) ∧
    (let t := after (exec .copySlotEnd unpacking)
     t.scrRead 0 192 6 = [7, 0, 0, 0, 0, 9] ∧ t.readNat 0x40904 4 = 2 ^ 31 + 1) ∧
    (after (exec .copySlotEnd (unpacking.modCluster 0 (fun c => { c with copyCmds := c.copyCmds.map (fun b => { b with data := [] }) })))).readNat
      0x40904 4 = 2 ^ 31 + 2 ^ 30 + 0x14 * 2 ^ 24 := by decide

set_option maxRecDepth 16384 in
theorem test_witness_packed :
    (∀ c ∈ ((packing [5, 0, 6]).cluster 0).copyCmds, c.op = .pack 126 8 10 4 1 4 0 (some 192) ∧ c.accepted = true ∧
      (packing [5, 0, 6]).copyBlocked 0 0 c = false ∧ c.sourceOwned (packing [5, 0, 6]) 0 = false ∧ c.cut = none ∧ (tileHead c.data).ok = true ∧
      (let t := tileHead c.data
       packBitmap t 0 (denseRow t ((packing [5, 0, 6]).asRead.scrRead c.gang 192 64)) { used := 0, novf := 0 } =
         some ([(64, [5, 6, 0, 0]), (128, leBytes 8 5)], { used := 0, novf := 0 }) ∧
       packBitmap t 0 (denseRow t ((packing [1, 1, 1, 1, 1]).asRead.scrRead c.gang 192 64)) { used := 0, novf := 0 } = none)) ∧
    (let t := after (exec .copySlotEnd (packing [5, 0, 6]))
     t.scrRead 0 3 1 = [0] ∧ t.scrRead 0 64 2 = [5, 6] ∧ t.scrRead 0 128 1 = [5] ∧ t.readNat 0x40904 4 = 2 ^ 31 + 1) ∧
    (let t := after (exec .copySlotEnd (packing [1, 1, 1, 1, 1]))
     t.scrRead 0 3 1 = [3] ∧ t.readNat 0x40904 4 = 2 ^ 31 + 2 ^ 30 + 0x14 * 2 ^ 24) := by decide

/-- A header of four rows of one 2:4 group of BF16 elements. -/
def nmHead : List Byte := [1, 7, 0, 0] ++ leBytes 2 4 ++ leBytes 2 4 ++ leBytes 4 64 ++ leBytes 4 128 ++ List.replicate 48 0

/-- R197's example: a group of 0x3F80, 0x8000, 0x0000 and 0x4000 keeps columns 0 and 3, and reads back with +0 for −0. -/
theorem test_packed_group : (tileHead nmHead).ok = true ∧
    (packNM (tileHead nmHead) 0 ([0x3F80, 0x8000, 0, 0x4000] :: List.replicate 3 [0, 0, 0, 0])).map (fun ps => (ps.head?, ps.getLast?)) =
      some (some (64, leBytes 2 0x3F80 ++ leBytes 2 0x4000), some (128, [9, 0])) ∧
    (packNM (tileHead nmHead) 0 ([1, 1, 1, 0] :: List.replicate 3 [0, 0, 0, 0])).isNone = true ∧
    (let at' := fun (o n : Nat) => (padTo n (if o = 128 then [9] else if o = 64 then leBytes 2 0x3F80 else if o = 66 then leBytes 2 0x4000 else []))
     [0, 1, 2, 3].map (fun c => (tileElem (tileHead nmHead) engFaultErr (fun o n => .ok (at' o n)) 0 c).toOption) =
       [some 0x3F80, some 0, some 0, some 0x4000]) := by decide

/-! #### The matrix engine -/

/-- The gang has 128 rows, of which MALLOC reserved 16; s2 = 7 and s3 = 5. -/
def matrix : State := { mem.modGang 0 (fun g => { g with accRows := 128, rb := 4, scratch := [(0, 3), (16, 2)] }) with
  mx := [(0, { GangMx.empty with window := some (16, false) })] }

theorem test_witness_matrix_issue : matrix.calm f0 = true ∧ srcOk false 2 = true ∧ matrix.accWindow 0 = (4, 20) ∧ (matrix.wave 0).counter 5 < 63 ∧
    (let s : State := { matrix with mx := [] }
     0 < (s.readSrc 0 0 none 2).toNat ∧ (s.readSrc 0 0 none 2).toNat ≤ 768 ∧ (s.gangMx 0).window = none ∧ (s.gangMx 0).cmds = [] ∧
     ((after (exec (.malloc 2 0 0 none) s)).gangMx 0).window = some (7, false) ∧
     ((after (exec (.malloc 104 0 0 none) s)).wave 0).csr.traparg = 1) ∧
    ((after (exec (.malloc 2 0 0 none) matrix)).wave 0).csr.traparg = 2 + 2 ^ 8 * 7 ∧
    ((after (exec (.mfree 0) matrix)).gangMx 0).window = none ∧
    [Instr.mloadw 104 108 107 2 1 0 none, .mswap 0, .mstream 104 104 107 2 0 0 0 1 0 none, .mfill 104 104 107 1 4 0 none,
      .mdrain 104 104 107 1 0 0 0 0 1 4 0 0 none, .mzero 104 107 0 none].map (fun i => ((after (exec i matrix)).gangMx 0).cmds.length) =
      List.replicate 6 1 ∧
    ((after (exec (.mfree 0) (after (exec (.mswap 0) matrix)))).wave 0).hops.length = 1 ∧
    ((after (exec (.mstream 126 104 107 2 0 0 0 1 0 (some 14)) matrix)).wave 0).csr.trapcause = 9 := by decide

/-- The oldest matrix command of the gang, about to take effect. -/
def mxBy (i : Instr) (s : State) : State := { after (exec i s) with nums := [0] }

/-- A plane of one row of one U8-sized element of I8 (format 4), and rows whose cells hold 10 and 0. -/
def planes (i : Instr) : State :=
  let s := mxBy i ((matrix.modCluster 0 (fun c => { c with acc := [(512, 10)] })))
  { s with mx := s.mx.map (fun e => (e.1, { e.2 with
    active := { Plane.empty with loaded := true, fmt := 4, k := 1, n := 1, rows := [[2]] }, cmds := e.2.cmds.map (fun c => { c with granted := true }) })) }

theorem test_witness_matrix_run : (∀ i ∈ [Instr.mswap 0, .mzero 104 107 0 none, .mfill 104 104 107 1 4 0 none],
      ((mxBy i matrix).gangMx 0).cmds.length = 1 ∧ (∀ c ∈ ((mxBy i matrix).gangMx 0).cmds, (mxBy i matrix).mxHeld 0 c = false)) ∧
    (mxBy (.mswap 0) matrix).nums = [0] ∧ ((mxBy (.mswap 0) matrix).gangMx 0).shadow.stale = false ∧
    ((after (exec .matrixCommandComplete (mxBy (.mloadw 104 108 107 2 1 0 none) matrix))).gangMx 0).shadow.n = 3 ∧
    mapGet 0 ((after (exec .matrixCommandComplete (planes (.mzero 104 107 0 none)))).cluster 0).acc 512 = 0 ∧
    mapGet 0 ((after (exec .matrixCommandComplete (mxBy (.mfill 104 104 107 1 4 0 none) matrix))).cluster 0).acc 512 = 3 ∧
    ((after (exec .matrixCommandComplete (planes (.mdrain 104 104 107 1 0 0 0 0 1 4 0 0 none)))).scrRead 0 0 1) = [10] ∧
    4 * 4 ≤ 16 * (1 : Nat) := by decide

/-- R214, R219: I8 3 times 2 added to the cell's 10. -/
theorem test_mstream : let s := planes (.mstream 104 104 105 4 0 0 0 1 0 none)
    ((s.gangMx 0).cmds.map MxCmd.granted) = [true] ∧ (s.gangMx 0).active.rows.length ≤ 128 ∧
    mapGet 0 ((after (exec .matrixCommandComplete s)).cluster 0).acc 512 = 16 := by decide

/-! ### The engines: neural calls, threads, rays -/

/-- A descriptor of one FP8 layer of one weight at 0x10F00 (R233, R234). -/
def descriptor : List Byte :=
  leBytes 4 0x3153574E ++ [1, 1, 1, 0] ++ leBytes 4 0 ++ leBytes 4 64 ++ leBytes 8 0x10F00 ++ List.replicate 40 0 ++
    [2, 2, 1, 1, 0, 0, 1, 0] ++ List.replicate 24 0

/-- Lane 0 calls weight set 1, whose weight is 1.0, with 3.0; bank 31 is FIFO space. -/
def neural : State :=
  let s := launches.modWave 0 (fun x => execs 1 (lanes 1 [0x40400000] (lanes 2 [1] (lanes 4 [0x10200] (lanes 5 [0]
    { x with csr := { x.csr with wst := 0x10C00 }, h := (6, handle 8 0x10F80) :: x.h })))))
  let s := putBytes (putBytes (putBytes s 0x40C08 (leBytes 8 0x10E40)) 0x40E40 descriptor) 0x40F00 [0x38]
  let s := putBytes s 0x40F80 (leBytes 16 1 ++ leBytes 4 0xFFFFFFFF ++ [1, 0, 0, 0] ++ leBytes 8 0x10200)
  let s := s.modTask 0 (fun _ => { Task.empty with state := .started, bytes := List.replicate 29 0 ++ [2] })
  s.modCluster 0 (fun c => { c with banks := List.replicate 31 0 ++ [2] })

def called : State := { after (exec (.ncall 8 1 2 0 0 0 0 1 0) neural) with nums := [0, 0] }

theorem test_witness_ncall : neural.quiet f0 = true ∧ vOk (neural.wave 0) 8 1 = true ∧ vOk (neural.wave 0) 1 1 = true ∧ vOk (neural.wave 0) 2 1 = true ∧
    neural.live 0 0 = 1 ∧ neural.hasFifo 0 = true ∧ (neural.cluster 0).booths.length = 32 ∧ (neural.readV 0 2 0).toNat % 2 ^ 20 ≠ 0 ∧
    4 * 1 * Mask.count 1 ≤ neural.fifoFree 0 ∧ ((called.cluster 0).booth 0).used = true ∧
    (mapGet Token.idle (called.wave 0).k 1).pending = true ∧
    (let s := neural.modCluster 0 (fun c => { c with banks := List.replicate 32 0 })
     s.hasFifo 0 = false ∧ ((after (exec (.ncall 8 1 2 0 0 0 0 1 0) s)).wave 0).csr.traparg = 32) := by decide

/-- The life of the call: its descriptor is read, its booth's timer expires, the set is filled, the array is granted, and the tile runs. -/
def n1 : State := { after (exec .boothDescriptorRead called) with nums := [0, 0] }
def n2 : State := { after (exec .boothTimerExpire n1) with nums := [0, 0] }
def n3 : State := { after (exec .weightSetFill n2) with nums := [0] }
def n4 : State := { after (exec .matrixArbitration n3) with nums := [0, 0] }
def n5 : State := { after (exec .tileBegin n4) with nums := [0, 0] }
def n6 : State := { after (exec .tileLayerEnd n5) with nums := [0, 0] }

set_option maxRecDepth 16384 in
theorem test_witness_booth : ((called.cluster 0).booth 0).kind = 0 ∧ ((called.cluster 0).booth 0).desc = [] ∧
    ((n1.cluster 0).booth 0).timer = some 512 ∧ (n2.cluster 0).wanted.length = 1 ∧ (n2.cluster 0).tiles.length = 1 ∧ n2.clk = 512 ∧
    (let s := called.modWave 0 (fun x => { x with csr := x.csr })
     let u : State := { s with clusters := s.clusters.map (fun e => (e.1, { e.2 with booths := e.2.booths.map (fun b =>
        if b.used then { b with key := b.key.set 3 7 } else b) })) }
     (mapGet Token.idle ((after (exec .boothDescriptorRead u)).wave 0).k 1).subcode = 1) := by decide +kernel

/-- Nothing in the memory that a call's descriptor and weights lie in is owned or on its way. -/
theorem test_witness_booth_reads : called.boothWaits 0 ((called.cluster 0).booth 0) = false ∧
    (∀ y ∈ (n2.cluster 0).wanted, n2.areaOwned (engineSpace 0 y.asid y.ttbase y.world) y.base y.bytes = false ∧ y.bytes ≤ 2 ^ 20) ∧
    (∀ r ∈ ((called.cluster 0).booth 0).rows, (mapGet Token.idle (called.wave r.wave).k r.token).left = Mask.one r.lane ∧
      (mapGet Token.idle (called.wave r.wave).k r.token).failmask = 0 ∧ (called.wave r.wave).ended = false ∧ r.lane < 64) := by decide +kernel

theorem test_witness_tile : (n3.cluster 0).tilesFor = [0] ∧ n3.streamsFor 0 = [] ∧ n3.arrayBusy 0 = false ∧
    ((n4.cluster 0).tiles.map Tile.granted) = [true] ∧ ((n5.cluster 0).tiles.map Tile.begun) = [true] ∧
    ((n5.cluster 0).tiles.map (fun t => ((n5.cluster 0).setOf t.booth).isSome)) = [true] ∧
    ((n6.cluster 0).tiles.map (fun t => (t.granted, t.layer))) = [(false, 1)] := by decide +kernel

/-- R242 to R247: 3.0 times 1.0 arrives in v8 of lane 0. -/
theorem test_neural_call : (after (exec .tileScatter n6)).vReg 0 8 0 = 0x40400000 ∧ ((after (exec .tileScatter n6)).wave 0).k = [] := by
  decide +kernel

set_option maxRecDepth 16384 in
theorem test_witness_whint : dstOk 8 = true ∧ srcOk false 105 = true ∧ ((n3.cluster 0).sets.map WSet.resident) = [true] ∧
    (let s : State := { n3 with focus := some f0, clk := 600 }
     (after (exec (.whint 8 105 1 0 none) { s with waves := neural.waves })).sReg 0 8 = 0 ∧
     (after (exec (.whint 8 105 2 0 none) { s with waves := neural.waves })).sReg 0 8 = 4) := by decide +kernel

/-- Set 1 of the wave's table is found, and its weights are read. -/
def setRead (s : State) : Bool :=
  match s.readSet (s.wave 0).engSpace (s.wave 0).csr.wst 1 with
  | .ok (va, ds) =>
    let y := newSet 0 0x10000 1 va ds
    y.base = 0x10F00 && decide (y.bytes ≤ 64) && !(s.areaOwned (s.wave 0).engSpace y.base y.bytes) &&
      (s.engRead (s.wave 0).engSpace y.base y.bytes).isOk
  | .error _ => false

/-- `neural` whose weights are uncorrectable. -/
def badWeights : State := { neural with badSectors := [0x40F00 / 64] }

/-- R238: a set whose weights can be read is prefetched; to pin one whose weights cannot be read answers 6. -/
theorem test_witness_prefetch : neural.setWaits (neural.wave 0).engSpace (neural.wave 0).csr.wst 1 = false ∧ (neural.cluster 0).sets = [] ∧
    (neural.cluster 0).pinned = 0 ∧
    setRead neural = true ∧ setRead badWeights = false ∧ (after (exec (.whint 8 105 0 0 none) neural)).sReg 0 8 = 0 ∧
    ((after (exec (.whint 8 105 0 0 none) neural)).cluster 0).sets.length = 1 ∧
    (after (exec (.whint 8 105 1 0 none) badWeights)).sReg 0 8 = 6 := by decide +kernel

/-- A tile and a stream of one gang wait for the array: the wave's priority is `p`. -/
def contended (p : Nat) : State := { n3.modWave 0 (fun x => { x with csr := { x.csr with prio := p } }) with
  nums := [0, 0], mx := (mxBy (.mstream 104 104 105 4 0 0 0 1 0 none) matrix).mx }

/-- R17: of a tile and a stream the more urgent takes the slot, and a tile that runs ahead of a pre-emption takes it first. -/
theorem test_witness_contended : (contended 2).arrayBusy 0 = false ∧ ((contended 2).cluster 0).tilesFor = [0] ∧
    ((contended 2).streamsFor 0).map Prod.fst = [0] ∧ ((contended 2).cluster 0).arrayGang = 0 ∧ ((contended 2).cluster 0).slots = [] ∧
    shareLeft true [] = true ∧ shareLeft false [] = true ∧
    ((contended 2).waitingStreams 0).map (fun e => e.2.prio) = [0] ∧ ((contended 2).cluster 0).tiles.map (contended 2).tilePrio = [2] ∧
    ((contended 2).cluster 0).tiles.map Tile.rush = [false] ∧
    ((after (exec .matrixArbitration (contended 2))).gangMx 0).cmds.map MxCmd.granted = [true] ∧
    (let s := (contended 2).modCluster 0 (fun c => { c with tiles := c.tiles.map (fun t => { t with rush := true }) })
     ((after (exec .matrixArbitration s)).cluster 0).tiles.map Tile.granted = [true]) := by decide +kernel

theorem test_witness_no_array : (neural.cluster 0).tilesFor = [] ∧ neural.streamsFor 0 = [] ∧ neural.arrayBusy 0 = false ∧
    (let s := mxBy (.mstream 104 104 105 4 0 0 0 1 0 none) matrix
     (s.cluster 0).tilesFor = [] ∧ (s.streamsFor 0).map (fun e => (e.1, decide (e.2.prio < 4))) = [(0, true)] ∧ (s.cluster 0).arrayGang = 0 ∧
     ((after (exec .matrixArbitration s)).gangMx 0).cmds.map MxCmd.granted = [true]) := by decide

/-- R254 to R257: a thread at 0x10200 goes to a booth of its key, is dispatched as its timer expires, and starts a gang of one wave. -/
def spawned : State := { after (exec (.spawn 1 4 1 0) neural) with nums := [0, 0] }

def dispatched : State := { after (exec .boothTimerExpire spawned) with nums := [0] }

set_option maxRecDepth 16384 in
theorem test_witness_spawn : vOk (neural.wave 0) 4 2 = true ∧ 1 ≤ (neural.task (neural.gang 0).task).regs ∧ hOk 6 = true ∧
    handleType (neural.readH 0 6) = 8 ∧ handleType (neural.readH 0 5) ≠ 8 ∧ canonical (0x10200 : Dword) = true ∧
    ((spawned.cluster 0).booth 0).kind = 1 ∧ ((spawned.cluster 0).booth 0).rows.map Row.vals = [[0x40400000]] ∧
    (((after (exec (.spawnc 1 4 6 1 0) neural)).cluster 0).booth 0).kind = 2 ∧
    ((after (exec (.spawnc 1 4 5 1 0) neural)).wave 0).csr.traparg = 34 ∧
    ((after (exec (.spawn 1 4 1 0) (neural.modWave 0 (lanes 4 [0x10202])))).wave 0).csr.trapcause = 5 := by decide

set_option maxRecDepth 16384 in
theorem test_witness_spawn_launch : (dispatched.sweep.cluster 0).spawnQ.length = 1 ∧
    (∀ b ∈ (dispatched.sweep.cluster 0).spawnQ, dispatched.sweep.boothReleased b = true ∧ b.lanes * b.rows.length ≤ 64) ∧
    (dispatched.sweep.seatsOn 0 1 2).isSome = true ∧ dispatched.sweep.ctx 0 = some context ∧
    (dispatched.sweep.popAreas context 1).map Prod.fst = some [0x12000] ∧
    (let t := after (exec .spawnLaunch dispatched)
     let w := dispatched.sweep.orders + 1
     ((t.wave w).split 0).pc = 0x10200 ∧ mapGet 0 (t.wave w).v 0 = 0x40400000) := by decide

/-! #### Rays -/

/-- h7 is a SCENE at 0x10C00; lane 0's ray record is at scratch 256, and v1 = 256; s12:s13 hold the log's address 0x11000. -/
def rays : State := objects.modWave 0 (fun x => execs 1 (lanes 1 [256] (lanes 2 [0x11000] (lanes 4 [0x11080] (scalars [(12, 0x11000)]
  { x with h := [(6, handle 5 0x10C10), (7, handle 5 0x10C00)], hops := [] })))))

set_option maxRecDepth 16384 in
theorem test_witness_ray_issue : rays.quiet f0 = true ∧ rays.live 0 0 ≠ 0 ∧ (rays.wave 0).counter 4 < 63 ∧ (rays.wave 0).flight = [] ∧
    (rays.cluster 0).copies = [] ∧ canonical (rays.logBase 0 6) = true ∧ (rays.logBase 0 6).toNat % 64 = 0 ∧ vOkAl (rays.wave 0) 8 4 4 = true ∧
    vOk (rays.wave 0) 1 1 = true ∧ hOk 7 = true ∧ handleType (rays.readH 0 7) = 5 ∧ (handleAddr (rays.readH 0 7)).toNat % 128 = 0 ∧
    (rays.readV 0 1 0).toNat % 256 = 0 ∧ (rays.readV 0 1 0).toNat + 256 ≤ (rays.wave 0).csr.scrsize.toNat ∧
    (oldest (after (exec (.trace 8 1 7 0 0 0 6 0) rays))).path = 4 ∧
    ((after (exec (.trace 8 1 5 0 0 0 6 0) rays)).wave 0).csr.traparg = 1 ∧ ((after (exec (.trace 8 1 6 0 0 0 6 0) rays)).wave 0).csr.traparg = 2 ∧
    (oldest (after (exec (.replay 4 2 1 0 0) rays))).path = 4 ∧
    ((after (exec (.replay 4 2 1 0 0) rays)).wave 0).counter 4 = 1 := by decide

/-- A query suspended on a candidate, as the unit has written it in TRAV of lane 0's record (R322). -/
def held : Query :=
  { root := 0x10C00, mode := 1, cullb := false, log := false, seed := 3, todo := [], noconv := false, best := none,
    cand := some { leaf := 0x10D00, t := 0, u := 0, v := 0, prim := 0, inst := 0, surf := true, front := true, proc := false, iter := 0 },
    loose := false }

def suspended : State := { rays with travs := [{
  asid := (rays.wave 0).csr.asid, world := (rays.wave 0).csr.world, gang := 0, off := 256, stands := true,
  ray := List.replicate 64 0, bytes := List.replicate 64 0, q := held }] }

set_option maxRecDepth 16384 in
/-- TRACEC finds the query that TRAV holds, and none where the unit has written none; a decision above 2 traps. -/
theorem test_witness_trav : suspended.quiet f0 = true ∧ suspended.travAt (suspended.wave 0) 256 = some held ∧ rays.travAt (rays.wave 0) 256 = none ∧
    vOkAl (suspended.wave 0) 8 4 4 = true ∧ vOk (suspended.wave 0) 3 1 = true ∧ suspended.readV 0 3 0 = 0 ∧
    (oldest (after (exec (.tracec 8 1 3 6 0) suspended))).queries = [held] ∧
    ((after (exec (.tracec 8 1 3 6 0) rays)).wave 0).csr.traparg = 3 ∧
    (let s := suspended.modWave 0 (lanes 3 [3])
     s.readV 0 3 0 = 3 ∧ ((after (exec (.tracec 8 1 3 6 0) s)).wave 0).csr.traparg = 4) := by decide

/-- The one operation of a unit, with a lane to do. -/
theorem unitWork_of {s : State} {w lane : Nat} {a : Flight} (h : (s.wave w).flight = [a] ∧ (s.wave w).hops = [] ∧ (s.wave w).ra = none ∧
    (a.killed = [] ∧ a.raKilled = []) ∧ a.accs = [] ∧ a.after ≤ a.seq ∧ lane < 64 ∧ a.lanesLeft.getLsbD lane = true)
    (h' : ∀ line, s.copyOwned line = false) : UnitWork s w lane a :=
  ⟨h.1, h.2.1, h.2.2.1, h.2.2.2.1, h.2.2.2.2.1, h.2.2.2.2.2.1, h.2.2.2.2.2.2, h'⟩

/-- A ray of zeros is invalid: its query misses with BADRAY (R312), and TRACEC's decision is none. -/
def querying : State := { after (exec (.trace 8 1 7 0 0 0 6 0) rays) with nums := [0, 0, 0, 0, 0] }

set_option maxRecDepth 16384 in
theorem test_witness_query : querying.nums = [0, 0, 0, 0, 0] ∧ UnitWork querying 0 0 (oldest querying) ∧ (oldest querying).path = 4 ∧
    (oldest querying).traces = true ∧ (oldest querying).rayLane 0 = (256, 0, 3) ∧
    (rayOf (leBytes 256 0)).bad ((oldest querying).laneStart 0 0).mode = true ∧ 3 ≤ (3 : Nat) ∧
    [0, 1, 2, 3].map (fun i => (after (exec .rayQueryEnd querying)).vReg 0 (8 + i) 0) = [8192, 0xFFFFFFFF, 0xFFFFFFFF, 0x7F800000] :=
  ⟨by decide, unitWork_of (by decide) (fun _ => rfl), by decide +kernel⟩

/-- A log of a miss: the replay writes STATUS 2 (R325). -/
def replaying : State := { after (exec (.replay 4 2 1 0 0) rays) with nums := [0, 0, 0] }

set_option maxRecDepth 16384 in
theorem test_witness_replay : UnitWork replaying 0 0 (oldest replaying) ∧ (oldest replaying).path = 4 ∧ (oldest replaying).op = .replay 4 2 1 0 0 ∧
    (oldest replaying).dests = [] ∧ ((oldest replaying).rayLane 0).1 = 0x11000 ∧
    (after (exec .replayLaneEnd replaying)).readNat 0x41080 4 = 2 :=
  ⟨unitWork_of (by decide) (fun _ => rfl), by decide +kernel⟩

/-! ### Graphics and fetches -/

/-- A draw record (R332) of one pixel: depth function `zf`, flags `fl`, a target of format `fm` and mode `md`. -/
def drawRec (zf fl fm md : Byte) : List Byte :=
  leBytes 8 0x10000 ++ leBytes 8 0x1234 ++ leBytes 8 0x10700 ++ leBytes 8 0x10C00 ++ leBytes 8 0x10D00 ++ leBytes 4 128 ++
    [2, 0, zf, fl] ++ leBytes 2 1 ++ leBytes 2 1 ++ leBytes 4 1 ++ leBytes 8 0 ++ leBytes 8 0x10E00 ++ [fm, md] ++ List.replicate 54 0

/-- Lane 0 holds, in v16 to v31, a triangle over the pixel (0, 0), at depth 0.5. -/
def drawing (r : List Byte) : State := (putBytes launches 0x40200 r).modWave 0 (fun x => execs 1 (lanes 16 [0] (lanes 17 [0]
  (lanes 18 [0x3F000000] (lanes 19 [0x3F800000] (lanes 20 [0x41000000] (lanes 21 [0] (lanes 22 [0x3F000000] (lanes 23 [0x3F800000]
    (lanes 24 [0] (lanes 25 [0x41000000] (lanes 26 [0x3F000000] (lanes 27 [0x3F800000] (lanes 28 [77] (lanes 29 [0] (lanes 30 [1]
      (lanes 31 [2] x)))))))))))))))))

def draws : State := drawing (drawRec 0 0 3 0)

set_option maxRecDepth 16384 in
theorem test_witness_primemit : draws.quiet f0 = true ∧ draws.live 0 0 ≠ 0 ∧ vOkAl (draws.wave 0) 16 16 16 = true ∧ pairSrcOk false 6 = true ∧
    (draws.wave 0).isPixel = false ∧ placeOf draws .read 128 (draws.readPair 0 0 none 6) = some 0x40200 ∧ draws.badSectors = [] ∧
    draws.lineOwned (0x40200 / 128) = false ∧ drawOk (draws.readBytes 0x40200 128) = true ∧
    (∀ sec, sec < 8 → (draws.raster sec).store.length ≤ 3968) ∧
    ((after (exec (.primemit 16 6 0 0 none) draws)).raster 0).store.map Prim.primid = [77] ∧
    (let s := drawing (drawRec 0 4 3 0)
     drawOk (s.readBytes 0x40200 128) = false ∧ ((after (exec (.primemit 16 6 0 0 none) s)).wave 0).csr.traparg = 51) ∧
    (let s := draws.modWave 0 (fun x => { x with origin := 2 })
     s.quiet f0 = true ∧ ((after (exec (.primemit 16 6 0 0 none) s)).wave 0).csr.traparg = 50) := by decide

/-- The primitive in its store, and its quad in a pixel wave. -/
def emitted (r : List Byte) : State := { after (exec (.primemit 16 6 0 0 none) (drawing r)) with nums := [0, 0] }

def waiting (r : List Byte) : State := { after (exec .primitiveRasterise (emitted r)) with nums := [0, 0, 0] }

def quadOf (r : List Byte) : Quad :=
  match ((waiting r).raster 0).waiting with
  | q :: _ => q
  | [] => { prim := { task := 0, gidx := 0, widx := 0, count := 0, lane := 0, draw := [], drawVa := 0, cull := 0, verts := [], primid := 0, idx := [],
                      asid := 0, ttbase := 0, world := 0 }, ord := 0, x := 0, y := 0, cover := 0 }

set_option maxRecDepth 16384 in
/-- R336 to R338: the pixel's one sample is covered; an early test of LESS against the depth 0 that is in memory fails it, and one of
ALWAYS stores its depth. -/
theorem test_witness_rasterise : let s := emitted (drawRec 0 0 3 0)
    (s.raster 0).saved = false ∧ ((s.raster 0).store.filter (s.takeable (s.raster 0))).length = 1 ∧ (s.raster 0).cov = [] ∧
    ((waiting (drawRec 0 0 3 0)).raster 0).waiting.map (fun q => (q.x, q.y, q.cover)) = [(0, 0, 1)] ∧
    ((waiting (drawRec 1 1 3 0)).raster 0).waiting.map (fun q => (q.x, q.y, q.cover)) = [] ∧
    ((waiting (drawRec 0x83 1 3 0)).raster 0).waiting.map (fun q => (q.x, q.y, q.cover)) = [(0, 0, 1)] ∧
    (waiting (drawRec 0x83 1 3 0)).readNat 0x40C00 4 = 0x3F000000 := by decide +kernel

/-- The engine between two batches of a stream, with a quad that waits. -/
def atBoundary : State := (waiting (drawRec 0 0 3 0)).modRaster 0 (fun r => { r with batch := [] })

set_option maxRecDepth 16384 in
/-- R344: inside a batch of a stream that is open nothing is saved; between two, the primitive of the quad that waits is kept, and its quad is
made again on resumption. -/
theorem test_witness_raster_save : ((waiting (drawRec 0 0 3 0)).raster 0).batch = [(0, 0, 1)] ∧
    (waiting (drawRec 0 0 3 0)).gangs.map (fun e => (e.2.streamOpen, e.2.task, e.2.gidx)) = [(true, 0, 0)] ∧
    ((after (exec .rasterEngineSave (waiting (drawRec 0 0 3 0)))).raster 0).saved = false ∧
    (let t := after (exec .rasterEngineSave atBoundary)
     (t.raster 0).saved = true ∧ (t.raster 0).waiting = [] ∧ (t.raster 0).again.map Prod.snd = [1] ∧
     (after (exec .primitiveRasterise t)).raster 0 = t.raster 0 ∧
     ((after (exec .rasterBatchResume t)).raster 0).waiting = (atBoundary.raster 0).waiting) := by decide +kernel

set_option maxRecDepth 16384 in
theorem test_witness_discarded : let s := emitted (drawRec 0 0 3 0)
    let p := (quadOf (drawRec 0 0 3 0)).prim
    p.setup.isSome = true ∧ { p with cull := 1, verts := p.verts.set 4 0 }.setup = none ∧
    (let u := s.modRaster 0 (fun r => { r with store := r.store.map (fun p => { p with verts := p.verts.set 3 0 }) })
     ((after (exec .primitiveRasterise u)).raster 0).waiting.length = 0 ∧ ((after (exec .primitiveRasterise u)).raster 0).store.length = 0) := by
  decide

set_option maxRecDepth 16384 in
theorem test_witness_pixel_wave : let s := waiting (drawRec 0 0 3 0)
    s.nums = [0, 0, 0] ∧ (gather 16 [] (s.sweep.raster 0).waiting).length = 1 ∧ (s.sweep.raster 0).saved = false ∧
    s.sweep.ctx (s.sweep.task (quadOf (drawRec 0 0 3 0)).prim.task).ctx = some context ∧ s.sweep.worldFits 0 context = true ∧
    (s.sweep.seatsOn 0 1 2).isSome = true ∧ (s.sweep.popAreas context 1).map Prod.fst = some [0x12000] ∧
    (let t := after (exec .pixelWaveLaunch s)
     let y := t.wave (s.sweep.orders + 1)
     (y.split 0).exec = 15 ∧ mapGet 0 y.p 0 = 1 ∧ mapGet 0 y.s 0 = 0x1234 ∧ mapGet 0 y.v (64 * 3) = 0x3F000000 ∧
       mapGet 0 y.v (64 * 4) = 0x101) := by decide

/-- Wave 0 as the pixel wave of one quad, of lane 0. -/
def pixels (r : List Byte) : State := let q := quadOf r
  draws.modWave 0 (fun x => execs 1 (lanes 4 [0x3F000000] { x with origin := 2, quads := [q], p := mapSet 0 x.p 0 1, hops := [], flight := [] }))

set_option maxRecDepth 16384 in
theorem test_witness_pixels : let s := pixels (drawRec 0 2 3 0)
    s.quiet f0 = true ∧ s.live 0 0 ≠ 0 ∧ (s.wave 0).isPixel = true ∧ (s.wave 0).record.ordered = true ∧ (s.wave 0).hopsFull = false ∧
    (s.wave 0).counter 1 < 63 ∧ (s.cluster 0).copies = [] ∧ vOkAl (s.wave 0) 4 4 4 = true ∧ vOkAl (s.wave 0) 8 8 8 = true ∧
    ((after (exec (.pixlock 0) s)).wave 0).hops.length = 1 ∧ ((after (exec (.pixunlock 0) s)).wave 0).hops.length = 1 ∧
    (oldest (after (exec (.pixexp 4 0 0 0) s))).path = 1 ∧
    ((after (exec (.pixlock 0) draws)).wave 0).csr.traparg = 49 ∧ ((after (exec (.pixunlock 0) draws)).wave 0).csr.traparg = 49 ∧
    ((after (exec (.pixexp 4 0 0 0) draws)).wave 0).csr.traparg = 49 ∧
    (let e := s.modWave 0 (execs 0)
     e.live 0 0 = 0 ∧ e.active 0 0 = 0 ∧ e.quiet f0 = true ∧ ((after (exec (.pixlock 0) e)).wave 0).hops = [] ∧
     ((after (exec (.pixexp 4 0 0 0) (draws.modWave 0 (execs 0)))).wave 0).csr.traparg = 49) ∧
    (let u := pixels (drawRec 0 0 3 0)
     (u.wave 0).record.ordered = false ∧ ((after (exec (.pixlock 0) u)).wave 0).csr.traparg = 48) := by decide

set_option maxRecDepth 16384 in
/-- R341: lane 0's lock is granted where no earlier primitive holds its sample, and waits where one does. -/
theorem test_witness_interlock : let s := sentBy (.pixlock 0) (pixels (drawRec 0 2 3 0))
    let u := sentBy (.pixunlock 0) (pixels (drawRec 0 2 3 0))
    AtHome s 0 (hop s) ∧ AtHome u 0 (hop u) ∧ s.lockBlocks (s.wave 0) 0 = [] ∧ ((after (exec .pixlockGrant s)).wave 0).locked = 1 ∧
    (let z := s.modRaster 0 (fun r => { r with cov := [{ task := 0, ord := 0, px := 0, py := 0, samples := 1, wave := none, unlocked := false, late := false }] })
     (z.lockBlocks (z.wave 0) 0).length = 1 ∧ ((after (exec .pixlockGrant z)).wave 0).hops.map HomeOp.reached = [true]) :=
  ⟨atHome_of _ (by decide) (fun v => by cases v <;> rfl), atHome_of _ (by decide) (fun v => by cases v <;> rfl), by decide, by decide, by decide⟩

/-- The colour on its way to the target at 0x10E00. -/
def exporting (fm md : Byte) : State := { after (exec (.pixexp 4 0 0 0) (pixels (drawRec 0 0 fm md))) with nums := [0, 0] }

set_option maxRecDepth 16384 in
theorem test_witness_export : let s := exporting 3 0
    s.nums = [0, 0] ∧ UnitWork s 0 0 (oldest s) ∧ (oldest s).path = 1 ∧ (oldest s).op = .pixexp 4 0 0 0 ∧
    (Mask.lanes (oldest s).lanesLeft)[0]? = some 0 ∧ (s.wave 0).laneQuad 0 = some (quadOf (drawRec 0 0 3 0)) ∧
    (quadOf (drawRec 0 0 3 0)).samples 0 = [0] ∧ (s.raster 0).cov = [] ∧
    (after (exec .blendExport s)).readNat 0x40E00 4 = 0x3F000000 :=
  ⟨by decide, unitWork_of (by decide) (fun _ => rfl), by decide⟩

/-- R342: 0.5 in format 1 is 128 of 255 (127.5, ties to even). -/
theorem test_channels : storeChannel 1 0x3F000000 = [128] ∧ storeChannel 1 0x40000000 = [255] ∧ storeChannel 1 0xBF800000 = [0] ∧
    blendChannel 2 0x3F000000 0 0x3F000000 = 0x3F800000 ∧ blendChannel 1 0x40000000 0x3F000000 0 = 0x3F800000 := by decide

/-- Three vertices whose attribute is 1, 3 and 5; u = 0.5 and v = 0.25: 3.0 (R340). -/
def attributes : State := { after (exec (.attr 8 20 12 0 0 1 0 3 1 0) ((putBytes mem 0x40200 (leBytes 4 0x3F800000 ++ leBytes 4 0x40400000 ++
  leBytes 4 0x40A00000)).modWave 0 (fun x => execs 1 (lanes 20 [0] (lanes 21 [1] (lanes 22 [2] (lanes 12 [0x3F000000]
    (lanes 13 [0x3E800000] x)))))))) with nums := [0, 0, 0] }

set_option maxRecDepth 16384 in
theorem test_witness_attr : Alone attributes 0 (oldest attributes) ∧ (oldest attributes).kind = .attr ∧ (oldest attributes).scratch = false ∧
    (oldest attributes).path = 0 ∧ (oldest attributes).act = Mask.one 0 ∧ (oldest attributes).accs.length = 3 ∧
    (oldest attributes).accs.map (fun c => (c.lane, c.reg, c.size, c.target)) = [(0, 8, 4, 4), (0, 8, 4, 5), (0, 8, 4, 6)] ∧
    (oldest attributes).vals = [1, 0, 0x3F000000, 0x3E800000, 0, 0, 0] ∧ (after (exec .loadReturn attributes)).vReg 0 8 0 = 0x40400000 :=
  ⟨alone_of (by decide), by decide⟩

/-- Lane 0 fetches through the table at `va`; descriptor 0 is of zeros, descriptor 1 a tile of 4 × 4 at 0x10E00. -/
def fetches (va : Nat) (col : Word) (x : Word) : State := (putBytes (putBytes objects 0x40C20 (leBytes 8 0x10E00 ++ [2])) 0x40E00
  ([1, 0, 0, 0, 4, 0, 4, 0])).modWave 0 (fun y => execs 1 (lanes 12 [0] (lanes 13 [col] (lanes 15 [x] { y with h := [(6, handle 7 va), (7, handle 2 va)] }))))

def fetching (va : Nat) (col x : Word) : State := { after (exec (.fetch 8 12 6 0 0) (fetches va col x)) with nums := [0, 0] }

/-- What the FETCH finds for lane 0, where it needs no more reads. -/
def found (s : State) : Option (List Nat) :=
  match s.fetchLane (oldest s) 0 with
  | .ok ws => some ws
  | .error _ => none

/-- The cause of the failure of its next reads: 0 where they do not fail. -/
def failing (s : State) : Nat :=
  match s.fetchLane (oldest s) 0 with
  | .error (.need rs _) =>
    (match s.fetchNext 0 rs with
      | .error e => e.cause
      | .ok _ => 0)
  | _ => 0

/-- The operation has read the bytes of memory at physical addresses, of virtual ones. -/
def readFirst (l : List (Nat × Nat × Nat)) (s : State) : State := s.modWave 0 (fun x => { x with
  flight := x.flight.map (fun a => { a with got := l.foldl (fun m e => gotPut m e.1 (s.readBytes e.2.1 e.2.2)) a.got }) })

/-- The operation's next accesses. -/
def withAccs (cs : List Acc) (s : State) : State := s.modWave 0 (fun x => { x with flight := x.flight.map (fun a => { a with accs := cs }) })

def descAcc : Acc := { lane := 0, va := 0x10C00, pa := 0x40C00, size := 8, reg := 0, sgn := false, data := [], cmp := [], target := 0 }

set_option maxRecDepth 16384 in
theorem test_witness_fetch : (fetches 0x10C00 0 0).quiet f0 = true ∧ vOkAl ((fetches 0x10C00 0 0).wave 0) 8 4 4 = true ∧
    vOkAl ((fetches 0x10C00 0 0).wave 0) 12 4 4 = true ∧ hOk 6 = true ∧ (fetches 0x10C00 0 0).active 0 0 = Mask.one 0 ∧
    handleType ((fetches 0x10C00 0 0).readH 0 6) = 7 ∧ handleType ((fetches 0x10C00 0 0).readH 0 7) = 2 ∧
    ((after (exec (.fetch 8 12 7 0 0) (fetches 0x10C00 0 0))).wave 0).csr.traparg = 52 ∧ (fetches 0x10C00 0 0).readH 0 5 = 0 ∧
    (let s := (fetches 0x10C00 0 0).modWave 0 (fun x => { x with h := [(6, 0x77)], csr := { x.csr with fetchtab := 0x10C40 } })
     handleType (s.readH 0 6) = 0 ∧ (oldest (after (exec (.fetch 8 12 6 0 0) s))).vals.getD 0 0 = 0x10C40) := by decide

set_option maxRecDepth 16384 in
/-- R345, R346: the descriptor is read first, in four accesses; a descriptor of zeros gives zeros; a column outside a tile gives 0. -/
theorem test_witness_fetch_reads : let s := fetching 0x10C00 0 0
    UnitWork s 0 0 (oldest s) ∧ (oldest s).path = 3 ∧ (oldest s).kind = .fetch ∧ (oldest s).scratch = false ∧ (oldest s).act = Mask.one 0 ∧
    (oldest s).lanesLeft = Mask.one 0 ∧ (oldest s).page = none ∧ (oldest s).refused = false ∧ (oldest s).begun = false ∧ s.badScratch = [] ∧
    (oldest s).fetchArg 0 3 = 0 ∧ (oldest s).gotBytes 0x10C00 32 = none ∧
    (oldest (after (exec .fetchComplete { s with nums := [0, 0, 0] }))).accs.map (fun c => (c.va, c.pa, c.size)) =
      [(0x10C00, 0x40C00, 8), (0x10C08, 0x40C08, 8), (0x10C10, 0x40C10, 8), (0x10C18, 0x40C18, 8)] ∧
    s.lineOwned (0x40C00 / 128) = false ∧ s.badSectors = [] ∧ (s.cluster (s.wave 0).cluster).copies = [] ∧
    (oldest (after (exec .fetchComplete { withAccs [descAcc] s with nums := [0, 0, 0] }))).gotBytes 0x10C00 8 = some (leBytes 8 0) ∧
    found (readFirst [(0x10C00, 0x40C00, 32)] s) = some [0, 0, 0, 0] ∧
    ((after (exec .fetchComplete s)).wave 0).flight = [] ∧ ((after (exec .fetchComplete s)).wave 0).counter 3 = 0 :=
  ⟨unitWork_of (by decide) (fun _ => rfl), by decide +kernel⟩

set_option maxRecDepth 16384 in
theorem test_witness_fetch_tile : let s := readFirst [(0x10C20, 0x40C20, 32), (0x10E00, 0x40E00, 64)] (fetching 0x10C00 4 1)
    (oldest s).gotBytes 0x10C20 32 = some (s.readBytes 0x40C20 32) ∧ fetchDescOk (s.readBytes 0x40C20 32) = true ∧
    (fetchDesc (s.readBytes 0x40C20 32)).kind = 2 ∧ (fetchDesc (s.readBytes 0x40C20 32)).base = 0x10E00 ∧
    (oldest s).gotBytes 0x10E00 64 = some (s.readBytes 0x40E00 64) ∧ (tileHead (s.readBytes 0x40E00 64)).ok = true ∧
    (tileHead (s.readBytes 0x40E00 64)).cols = 4 ∧ (oldest s).fetchArg 0 1 = 4 ∧ found s = some [0] := by decide +kernel

set_option maxRecDepth 16384 in
/-- R348: a page that may not be read fails the fetch, whose trap is to come; one that is not there makes it wait, and refused it fails. -/
theorem test_witness_fetch_fault : let s := fetching 0x20000 0 0
    let u := putBytes s 0x30010 (leBytes 8 0x50001)
    let waits := after (exec .fetchFault s)
    let refused := waits.modWave 0 (fun x => { x with flight := x.flight.map (fun a => { a with refused := true }) })
    failing u = 7 ∧ ((after (exec .fetchFault u)).wave 0).uncs.map UncRec.cause = [7] ∧ failing s = 6 ∧ s.hasMerge 0 0 2 = false ∧ s.mergeFull 0 = false ∧
    (oldest waits).page = some (2, 0x20000) ∧ waits.faults.length = 1 ∧
    ((after (exec .fetchFault { refused with nums := [0, 0] })).wave 0).uncs.map UncRec.cause = [6] ∧
    (let b : State := { withAccs [descAcc] (fetching 0x10C00 0 0) with badSectors := [0x40C00 / 64] }
     b.flightBad 0 (oldest b) = some 0x10C00 ∧ ((after (exec .fetchFault b)).wave 0).uncs.map UncRec.cause = [8]) := by decide +kernel

/-! ### Neighbour lists -/

/-- A grid record of one particle and 2 × 2 × 2 cells at 0x13000 (h1), its STATUS being `st`; a ring at 0x18000 (h2) whose slots 8 to 11 are
reserved; and h3, a queue's handle. Lane 0 holds particle 0 at (0.25, 0.5, 0.5); s6:s7 = 8. -/
def gridded (st : Nat) : State :=
  let rec_ := leBytes 4 0x4452474E ++ leBytes 4 st ++ leBytes 4 1 ++ [1, 7, 0, 0] ++ leBytes 4 0x40800000 ++ leBytes 4 0x40800000 ++
    leBytes 4 0x40800000 ++ leBytes 4 0x3F800000 ++ leBytes 4 0x3F000000 ++ leBytes 4 0x3FC00000 ++ [2, 0, 2, 0, 2, 0, 0, 0] ++
    leBytes 8 0x14000 ++ leBytes 8 0x15000 ++ leBytes 16 1 ++ leBytes 8 0x16000 ++ leBytes 8 0x17000
  let s := putBytes (putBytes mem 0x43000 rec_) 0x48000 (leBytes 8 0x19000 ++ leBytes 4 6 ++ leBytes 4 4 ++ leBytes 8 12 ++ leBytes 8 8 ++
    leBytes 8 8 ++ leBytes 16 0 ++ leBytes 8 0x1A000)
  s.modWave 0 (fun x => execs 1 (lanes 4 [0] (lanes 8 [0x3E800000] (lanes 9 [0x3F000000] (lanes 10 [0x3F000000] (scalars [(6, 8), (7, 0)]
    { x with h := [(1, handle 6 0x13000), (2, handle 2 0x18000), (3, handle 3 0x10400), (4, handle 6 0x13040)] }))))))

def nlBuild : Instr := .nlgrid 12 1 0 0
def nlInsert : Instr := .nlins 8 1 4 0 0
def nlPairs : Instr := .nlpairs 12 1 6 2 0 127 0 0 none
def nlState : Instr := .nlstat 12 1 0

set_option maxRecDepth 16384 in
theorem test_witness_nl_issue : let s := gridded 0
    s.quiet f0 = true ∧ hOk 1 = true ∧ handleType (s.readH 0 1) = 6 ∧ (handleAddr (s.readH 0 1)).toNat % 128 = 0 ∧ (s.wave 0).counter 6 < 63 ∧
    dstOk 12 = true ∧ vOkAl (s.wave 0) 8 3 4 = true ∧ vOk (s.wave 0) 4 1 = true ∧ s.active 0 0 = 1 ∧ pairSrcOk false 6 = true ∧
    handleType (s.readH 0 2) = 2 ∧ placeOf s .readWrite 1 (handleAddr (s.readH 0 2)) = some 0x48000 ∧ (s.ringHead 0x48000).ok = true ∧
    (s.ringHead 0x48000).rel ≤ 8 ∧ 8 + 0 + 1 ≤ (s.ringHead 0x48000).resv ∧ 5 ≤ (s.ringHead 0x48000).slotLog ∧
    [nlBuild, nlInsert, nlPairs, nlState].map (fun i => let t := after (exec i s)
      (t.nl.length, (t.wave 0).counter 6, decide (((t.wave 0).split 0).wait = Wait.none))) =
      [(1, 1, false), (1, 1, true), (1, 1, false), (1, 0, false)] := by decide

set_option maxRecDepth 16384 in
/-- R359, R366: a handle that is no grid's, one that is misaligned, slots that are not reserved, and slots too small. -/
theorem test_witness_nl_checks : let s := gridded 0
    let arg := fun (i : Instr) (s : State) => ((after (exec i s)).wave 0).csr.traparg
    handleType (s.readH 0 3) = 3 ∧ arg (.nlstat 12 3 0) s = 1 ∧ (handleAddr (s.readH 0 4)).toNat % 128 = 64 ∧ arg (.nlstat 12 4 0) s = 2 ∧
    (s.ringHead 0x48000).resv < 8 + 4 + 1 ∧ arg (.nlpairs 12 1 6 2 0 127 4 0 none) s = 3 ∧
    (let u := putBytes s 0x48008 [4]
     (u.ringHead 0x48000).ok = true ∧ (u.ringHead 0x48000).slotLog = 4 ∧ arg nlPairs u = 4) := by decide

/-- A command issued, arrived, at its turn, and ended. -/
def nlIssued (i : Instr) (s : State) : State := { after (exec i s) with nums := [0] }

def nlCmd (s : State) : NlCmd :=
  match s.nl with
  | c :: _ => c
  | [] => { wave := 0, split := 0, seq := 0, op := .nop 0, act := 0, sec := 0, grid := 0, vals := [], arrived := false, turned := false, status := 0,
            page := none, refused := false, asid := 0, ttbase := 0, world := 0, launchid := 0, cluster := 0, areas := [], pa := 0, head := [] }

def nlArrived (i : Instr) (s : State) : State := { nlIssued i s with nl := [{ nlCmd (nlIssued i s) with arrived := true }] }

def nlTurned (i : Instr) (s : State) : State := { nlIssued i s with
  nl := [{ nlCmd (nlIssued i s) with arrived := true, turned := true, pa := 0x43000, head := s.readBytes 0x43000 128 }] }

def nlEnded (i : Instr) (s : State) : State := after (exec .nlCommandEnd (nlTurned i s))

/-- Where the wave's other operations and the copy engines are idle, the one command is alone. -/
theorem onlyNl_of (s : State) (h : (s.nums == [0]) && decide (s.nl = [nlCmd s]) && (s.wave (nlCmd s).wave).flight.isEmpty &&
    s.badSectors.isEmpty && s.clusters.all (fun e => e.2.copyCmds.isEmpty) && s.waves.all (fun e => e.2.flight.isEmpty) &&
    s.nl.all (fun b => !b.arrived || s.sameGrid b (nlCmd s)) = true) : OnlyNl s (nlCmd s) := by
  simp only [Bool.and_eq_true, beq_iff_eq, decide_eq_true_eq, List.isEmpty_iff, List.all_eq_true, Bool.or_eq_true, Bool.not_eq_true'] at h
  obtain ⟨⟨⟨⟨⟨⟨a, b⟩, c⟩, d⟩, e⟩, g⟩, i⟩ := h
  refine ⟨a, b, c, fun ps => ?_, d⟩
  simp only [State.areasOwned, Bool.or_eq_false_iff, List.any_eq_false, Bool.and_eq_true, not_and, Bool.not_eq_true, Bool.not_eq_true']
  refine ⟨⟨fun x hx y hy => ?_, fun x hx y hy => ?_⟩, fun x hx hy => ?_⟩
  · rw [e x hx] at hy; cases hy
  · rw [g x hx] at hy; cases hy
  · rcases i x hx with h | h <;> simp_all

set_option maxRecDepth 16384 in
/-- R361: the command arrives, and CPY falls. -/
theorem test_witness_nl_arrive : ∀ i ∈ [nlBuild, nlInsert, nlPairs, nlState], let s := nlIssued i (gridded 0)
    OnlyNl s (nlCmd s) ∧ (nlCmd s).arrived = false ∧ (after (exec .nlCommandArrive s)).nl.map NlCmd.arrived = [true] ∧
    ((after (exec .nlCommandArrive s)).wave 0).counter 6 = 0 ∧
    (s.wave 0).cpys = (if nlCounted (nlCmd s) = true then [((nlCmd s).seq, false)] else []) := by
  intro i hi
  simp only [List.mem_cons, List.not_mem_nil, or_false] at hi
  obtain rfl | rfl | rfl | rfl := hi <;>
    exact ⟨onlyNl_of _ (by decide +kernel), by decide +kernel, by decide +kernel, by decide +kernel, by decide +kernel⟩

set_option maxRecDepth 16384 in
/-- R362: at its turn a command finds its record. -/
theorem test_witness_nl_turn : ∀ i ∈ [nlBuild, nlInsert, nlPairs, nlState], let s := nlArrived i (gridded 0x80000000)
    OnlyNl s (nlCmd s) ∧ (nlCmd s).arrived = true ∧ (nlCmd s).turned = false ∧ (nlCmd s).page = none ∧ (nlCmd s).refused = false ∧
    (s.wave 0).life = .resident ∧ (s.wave 0).died = false ∧ (s.wave 0).nextPend = none ∧ (s.wave 0).ra = none ∧
    (s.wave 0).splits.length = 5 ∧ (nlCmd s).split = 0 ∧ (i = nlInsert ∨ ((s.wave 0).split 0).wait = .home) ∧ (nlCmd s).wave = 0 ∧
    (gridOf (s.readBytes 0x43000 128)).valid = true ∧ (gridOf (s.readBytes 0x43000 128)).built = true := by
  intro i hi
  simp only [List.mem_cons, List.not_mem_nil, or_false] at hi
  obtain rfl | rfl | rfl | rfl := hi <;>
    exact ⟨onlyNl_of _ (by decide +kernel), by decide +kernel⟩

/-- R362, R366, R367: what sd receives: 1 for a BUILD of a record of another magic, 4 for a pair stream of an unbuilt grid, 1 for one that
has lost particles, and STATUS. -/
theorem test_nl_status : let sd := fun (i : Instr) (s : State) => (after (exec .nlCommandTurn (nlArrived i s))).sReg 0 12
    sd nlBuild (putBytes (gridded 0) 0x43000 [0]) = 1 ∧ sd nlPairs (gridded 0) = 4 ∧
    sd nlPairs (gridded 0x80000001) = 1 ∧ sd nlState (gridded 0x80000001) = 0x80000001 := by decide +kernel

set_option maxRecDepth 16384 in
theorem test_witness_nl_end : ∀ i ∈ [nlBuild, nlInsert, nlPairs], let s := nlTurned i (gridded 0x80000000)
    OnlyNl s (nlCmd s) ∧ (nlCmd s).arrived = true ∧ (nlCmd s).turned = true ∧ (nlCmd s).pa = 0x43000 := by
  intro i hi
  simp only [List.mem_cons, List.not_mem_nil, or_false] at hi
  obtain rfl | rfl | rfl := hi <;> exact ⟨onlyNl_of _ (by decide +kernel), by decide +kernel⟩

/-- R363 to R366: a BUILD leaves BUILT alone; a particle out of range raises bit 3; an empty pair stream fills its slot's status with END. -/
theorem test_nl_end : (nlEnded nlBuild (gridded 0)).readNat 0x43004 4 = 0x80000000 ∧
    (nlEnded nlInsert ((gridded 0x80000000).modWave 0 (lanes 4 [1]))).readNat 0x43004 4 = 0x80000008 ∧
    (nlEnded nlPairs (gridded 0x80000000)).readNat 0x4A020 4 = 0x80000000 := by decide +kernel

/-! ### Objects, images and written values -/

/-- An object whose one section holds a BRAZ that targets the absolute address `v`, or relocates its word by another kind. -/
def branchTo (kind v : Nat) : ObjFile :=
  { image := false,
    sections := [{ name := [0x74], kind := 1, alignLog2 := 2, size := 4, data := leBytes 4 0xC1040001, addr := 0 }],
    symbols := [{ name := [0x66], section_ := 0xFFFE, global := true, kind := 1, value := v, size := 0 }],
    relocs := [{ section_ := 0, kind, symbol := 0, site := 0, site2 := 0, addend := 0 }], entry := some 0 }

/-- What a link makes of the section's bytes; or 0 and what rejects it: 1 LDUNDEF, 2 LDDUP, 3 LDOVF, 4 LDALIGN, 5 another. -/
def linked' (addr : Nat) (objs : List ObjFile) : List Byte × Nat × Int :=
  match link [addr] objs with
  | .ok f => (f.sections.flatMap ObjSection.data, 0, 0)
  | .error (.undef _) => ([], 1, 0)
  | .error (.dup _) => ([], 2, 0)
  | .error (.ovf _ _ _ v) => ([], 3, v)
  | .error (.align _ _ _ v) => ([], 4, v)
  | .error _ => ([], 5, 0)

/-- R57, R58: the manual's BRAZ at 0x0420 to 0x9344 is 9,160 words away and too far for OFF14; one word less than the limit fits; and a target
between words is LDALIGN. -/
theorem test_link : linked' 0x420 [branchTo 2 0x9344] = ([], 3, 9160) ∧
    linked' 0x420 [branchTo 2 (0x424 + 4 * 8191)] = (leBytes 4 (0xC1040001 + 8 * 8191), 0, 0) ∧
    linked' 0x420 [branchTo 1 0x422] = ([], 4, -2) ∧ linked' 0x420 [branchTo 3 0x12345678] = (leBytes 4 0x12345678, 0, 0) ∧
    (let f := branchTo 3 5
     linked' 0x420 [{ f with symbols := [{ name := [0x67], section_ := 0xFFFF, global := false, kind := 0, value := 0, size := 0 }] }] = ([], 1, 0)) := by
  decide

/-- R54 to R57: a file that is written is read back; a relocation of another kind is rejected. -/
theorem test_object_file : (match readObject (writeObject (branchTo 4 9)) with
      | .ok f => decide (f = branchTo 4 9)
      | .error _ => false) = true ∧
    (match readObject (writeObject (branchTo 6 9)) with
      | .error e => decide (e = .reloc 6)
      | .ok _ => false) = true := by decide +kernel

/-- R58: a linked image is stored at its address: VA 0x10200 is PA 0x40200. -/
theorem test_load : (match link [0x10200] [branchTo 3 77] with
      | .ok f => decide (loadTurns one 0x10000 f = some [.fwStore 0x40200 (leBytes 4 77)])
      | .error _ => false) = true := by decide +kernel

/-- R51: the codes of written values. -/
theorem test_written : sourceCode (.int 15 false) = some (119, none) ∧ sourceCode (.int (-1) false) = some (120, none) ∧
    sourceCode (.float false 64 1 false) = some (123, none) ∧ sourceCode (.float false 1 4 false) = some (122, none) ∧
    sourceCode (.float true 0 1 false) = some (126, some 0x80000000) ∧ sourceCode (.int (-2) false) = some (126, some 0xFFFFFFFE) ∧
    sourceCode (.int 5 true) = some (126, some 5) ∧ sourceCode (.int (2 ^ 32) false) = none := by decide +kernel

/-! ### Scratch destinations -/

/-- A CPY of 77 to offset 0 on its way: R152 lets the engine hold the new value there before the slot ends; and where a thread has then
written 5, the step leaves 5. -/
def before : State := accepted.earlyUnit .copySlotEnd [0, 0] 0 0

def ends (s : State) : State := after (engineStep .copySlotEnd { s with nums := [0, 0] })

theorem test_early : accepted.scrRead 0 0 4 = leBytes 4 0 ∧ before.scrRead 0 0 4 = leBytes 4 77 ∧
    (ends (before.scrWrite 0 0 (leBytes 4 5))).scrRead 0 0 4 = leBytes 4 5 ∧ (ends (before.scrWrite 0 0 (leBytes 4 5))).early = [] ∧
    (ends before).scrRead 0 0 4 = leBytes 4 77 ∧ (ends before).scrRead 0 64 4 = (ends accepted).scrRead 0 64 4 ∧
    (ends before).snaps = [] := by decide +kernel

/-- R150: an engine's source unit that it has read is as it was then, whatever is written there before its step; one not read yet is as written. -/
theorem test_peek : let s : State := { accepted.peekUnit .copySlotEnd [0, 0] none (0x40200 / 4) with nums := [0, 0] }
    s.peeks.length = 1 ∧
    (let t := after (engineStep .copySlotEnd (s.writeMem 0x40200 (leBytes 8 0)))
     t.scrRead 0 0 4 = leBytes 4 77 ∧ t.scrRead 0 64 4 = leBytes 4 0 ∧ t.readNat 0x40200 4 = 0 ∧ t.peeks = []) := by decide +kernel

/-! ### STALLSHORT (R43) -/

/-- WAVECTL.SCHK is 1, and 3 clk remain of s2, of v1, of p1, of EXEC or of MODE; `short` names the register. -/
def shorts (r : Reg) : State := regs.modWave 0 (fun x =>
  { x with csr := { x.csr with wavectl := 1 }, board := [{ reg := r, split := 0, ready := regs.clk + 3, lanes := 0, old := [], oldVal := 0 }] })

def shortly (i : Instr) (r : Reg) : Nat × Dword :=
  let x := (after (exec i (shorts r))).wave 0
  (x.csr.trapcause, x.csr.traparg)

/-- R43: what traps, with its file, register and clk; and what does not, since it reads another register. -/
theorem test_witness_short : (shorts (.s 2)).checked f0 = true ∧ dstOk 1 = true ∧ guardBad ((shorts (.s 2)).readMode 0) = false ∧
    vOk ((shorts (.v 1)).wave 0) 3 1 = true ∧ vOk ((shorts (.v 1)).wave 0) 1 1 = true ∧ vOk ((shorts (.v 1)).wave 0) 2 1 = true ∧
    (∃ p ∈ ((shorts (.s 2)).wave 0).board, p.reg = .s 2 ∧ p.ready = (shorts (.s 2)).clk + 3) ∧
    (∀ p ∈ ((shorts (.s 2)).wave 0).board, p.reg = .s 2 → p.ready ≤ (shorts (.s 2)).clk + 3) ∧
    (∀ p ∈ ((shorts (.s 2)).wave 0).board, p.reg = .s 3 → p.ready ≤ (shorts (.s 2)).clk) := by decide

theorem test_short_traps : shortly (.sadd 1 2 3 0 none) (.s 2) = (4, 2 + 1024 * 3) ∧ shortly (.vandVV 3 1 2 0) (.v 1) = (4, 1 + 256 + 1024 * 3) ∧
    shortly (.vandVV 3 1 2 0) (.exec 0) = (4, 8 + 512 + 1024 * 3) ∧ shortly (.vandVV 3 1 2 0) .mode = (4, 16 + 768 + 1024 * 3) ∧
    shortly (.bra 8 0 0 1 0) (.p 0) = (4, 512 + 1024 * 3) ∧
    (after (exec (.sadd 1 2 3 0 none) (shorts (.s 4)))).sReg 0 1 = 12 ∧
    ((after (exec (.vandVV 3 1 2 0) (shorts (.s 4)))).vReg 0 3 2) = (3 &&& 30 : Word) := by decide

/-! ### Elements (R61 to R76, R109, R116, R123, R137) -/

/-- The environments of nearest even, keeping and flushing denormals. -/
def near0 : FEnv := { rm := 0, sat := false, ftz := false }
def flush0 : FEnv := { near0 with ftz := true }

/-- Finite F32 operands: 1 + 2^-24 is a tie, 1 + 2^-23 is exact, the greatest value twice is an overflow, 2^-75 squared is tiny. -/
theorem test_witness_finite : (∀ x ∈ [0x3F800000, 0x33800000, 0x34000000, 0x7F7FFFFF, 0x1A000000, 0x80000000], imgFinite 8 23 x) ∧
    addElem near0 4 0x3F800000 0x33800000 0 = (0x3F800000, 16) ∧ addElem near0 4 0x3F800000 0x34000000 0 = (0x3F800001, 0) ∧
    addElem near0 4 0x7F7FFFFF 0x7F7FFFFF 0 = (0x7F800000, 20) ∧ mulElem near0 4 0x1A000000 0x1A000000 0 = (0, 24) ∧
    subElem near0 4 0x3F800000 0x3F800000 0 = (0, 0) ∧ addElem near0 4 0x80000000 0x80000000 0 = (0x80000000, 0) ∧
    fmaElem near0 4 0x3F800000 0x3F800000 0xBF800000 = (0, 0) ∧ fnmaElem near0 4 0x3F800000 0x3F800000 0x40000000 = (0x3F800000, 0) := by
  decide +kernel

theorem test_witness_infinite : signed 8 23 0 (infOf 8 23) = 0x7F800000 ∧ imgFinite 8 23 0x3F800000 ∧ ¬ imgDenormal 8 23 0x3F800000 ∧
    imgUnits 8 23 0x3F800000 ≠ 0 ∧ imgUnits 8 23 0 = 0 ∧ imgNan 8 23 0x7FC00001 ∧ ¬ imgSignalling 8 23 0x7FC00001 ∧
    addElem near0 4 0x7F800000 0xFF800000 0 = (0x7FC00000, 1) ∧ mulElem near0 4 0x7F800000 0xBF800000 0 = (0xFF800000, 0) ∧
    fmaElem near0 4 0x7F800000 0 0x7FC00001 = (0x7FC00000, 1) := by decide +kernel

/-- With FTZ = 1 the least denormal is +0 with DN, and 2^-75 squared +0 with UF and NX. -/
theorem test_witness_flushed : imgFinite 8 23 1 ∧ imgExp 8 23 1 = 0 ∧ addElem flush0 4 1 0x3F800000 0 = (0x3F800000, 32) ∧
    mulElem flush0 4 0x1A000000 0x1A000000 0 = (0, 24) ∧ addElem flush0 5 1 1 0 = (2, 0) := by decide +kernel

theorem test_witness_compared : imgKey 8 23 0x80000000 < imgKey 8 23 0 ∧ ¬ imgNan 8 23 0 ∧ imgNan 8 23 0x7F800001 ∧
    pickElem false near0 4 0 0x80000000 0 = (0x80000000, 0) ∧ pickElem true near0 4 0x80000000 0 0 = (0, 0) ∧
    pickElem true near0 4 0x7F800001 0x3F800000 0 = (0x3F800000, 1) ∧ pickElem false near0 4 0x7FC00001 0xFFC00001 0 = (0x7FC00000, 0) ∧
    clampElem near0 4 0x40400000 0x3F800000 0x40000000 = (0x40000000, 0) ∧ vunElem 0 near0 4 0x3F800000 0 0 = (0xBF800000, 0) ∧
    vunElem 1 near0 4 0x80000001 0 0 = (1, 0) ∧ vunElem 0 near0 4 0x7F800001 0 0 = (0x7FC00000, 1) := by decide +kernel

theorem test_witness_integral : imgFinite 8 23 0xBFC00000 ∧ imgUnits 8 23 0xBFC00000 % 2 ^ unitExp 8 23 ≠ 0 ∧ imgUnits 8 23 0x40000000 % 2 ^ unitExp 8 23 = 0 ∧
    vunElem 10 near0 4 0xBFC00000 0 0 = (0xC0000000, 0) ∧ vunElem 11 near0 4 0xBFC00000 0 0 = (0xBF800000, 0) ∧
    vunElem 12 near0 4 0xBFC00000 0 0 = (0xBF800000, 0) ∧ vunElem 13 near0 4 0x40200000 0 0 = (0x40000000, 0) ∧
    vunElem 14 near0 4 0xBFC00000 0 0 = (0x3F000000, 0) ∧ vunElem 10 near0 4 (signed 8 23 1 (infOf 8 23)) 0 0 = (0xFF800000, 0) ∧
    vunElem 14 near0 4 (signed 8 23 1 (infOf 8 23)) 0 0 = (0x7FC00000, 1) := by decide +kernel

theorem test_witness_converted : imgFinite 8 23 0x40200000 ∧ imgFinite 5 10 0x3E00 ∧ cvtElem near0 6 4 0x3E00 = (0x3FC00000, 0) ∧
    cvtElem near0 4 0 0x40200000 = (2, 16) ∧ cvtElem near0 4 0 0x7F800000 = (0x7FFFFFFF, 1) ∧ cvtElem near0 4 1 0xBF800000 = (0, 1) ∧
    cvtElem near0 4 0 0x7FC00000 = (0, 1) ∧ cvtElem near0 0 4 0xFFFFFFFF = (0xBF800000, 0) ∧ cvtElem near0 4 6 0x7F800000 = (0x7C00, 0) ∧
    cvtElem { near0 with sat := true } 0 10 300 = (127, 0) ∧ cvtElem near0 0 10 300 = (44, 0) := by decide +kernel

theorem test_witness_dot : (∀ i, i < 2 → imgFinite 5 10 (0x3C003C00 / 2 ^ (16 * i) % 2 ^ 16) ∧ imgFinite 5 10 (0x40003C00 / 2 ^ (16 * i) % 2 ^ 16)) ∧
    imgFinite 8 23 0x3F800000 ∧ dotLane near0 6 0x3C003C00 0x40003C00 0x3F800000 = (0x40800000, 0) ∧
    dotLane near0 10 0x010101FF 0x02020202 5 = (9, 0) := by decide +kernel

theorem test_witness_float_atomics : imgUnits 8 23 0x3F800000 + imgUnits 8 23 0x3F800000 ≠ 0 ∧ imgUnits 8 23 0x3F800000 + imgUnits 8 23 0xBF800000 = 0 ∧
    atomVal 11 4 0x3F800000 0x3F800000 0 = 0x40000000 ∧ atomVal 11 4 0x3F800000 0xBF800000 0 = 0 ∧ atomVal 11 4 1 1 0 = 2 ∧
    imgNan 8 23 0x7FC00001 ∧ atomVal 11 4 0x7FC00001 0 0 = 0x7FC00000 ∧ atomVal 12 4 0 0x80000000 0 = 0x80000000 ∧
    atomVal 13 4 0x7FC00001 0x3F800000 0 = 0x3F800000 ∧ atomVal 13 4 0x3F800000 0x7FC00001 0 = 0x3F800000 ∧
    atomVal 12 4 0x7FC00001 0xFFC00001 0 = 0x7FC00000 := by decide +kernel

/-! ### The arithmetic of the units -/

/-- A row of 64 bytes of MXFP4, whose first 32 elements are 1, and its scale byte of 2^0. -/
def ones4 : List Byte := List.replicate 16 0x22 ++ List.replicate 48 0 ++ [127]

theorem test_witness_cells : imgUnits 8 7 0x3F80 * imgUnits 8 7 0x3F80 ≠ 0 ∧ mxDot 0 0x3F800000 0 0 1 (leBytes 2 0x3F80) (leBytes 2 0x4000) = 0x40400000 ∧
    imgUnits 4 3 0x38 = 2 ^ 9 ∧ mxDot 0 0 2 2 4 (leBytes 4 0x38383838) (leBytes 4 0x38383838) = 0x40800000 ∧
    mxDot 0 0 5 5 32 ones4 ones4 = 0x42000000 ∧ fieldNat ones4 64 1 = 127 ∧ mxDot 0 5 4 4 2 [255, 3] [2, 4] = 15 ∧
    mxDot 1 0x7F800000 6 6 1 (leBytes 4 0x3F800000) (leBytes 4 0x40000000) = 0x40400000 ∧
    mxDot 3 0 6 6 1 (leBytes 4 0x3F800000) (leBytes 4 0x40000000) = 0x40000000 := by decide +kernel

def draining (ofmt act : Nat) : DrainForm :=
  { raw := false, ofmt, scl := 1, bias := true, icell := false, epi := { act, leakk := 1, lo := 0xBF800000, hi := 0x40000000 },
    scale := fun _ => 0x40000000, biasv := fun _ => 0x3F800000 }

/-- 2x + 1 of a cell, through each ACT: a NaN clamps to LO; an I8 of 300 clamps. -/
theorem test_witness_drains : (draining 0 0).cell 0 0 0x3F800000 = 0x40400000 ∧ (draining 0 1).cell 0 0 0xBF800000 = 0 ∧
    imgKey 8 23 0x3F800000 ≥ -1 ∧ (draining 0 2).cell 0 0 0xBF800000 = 0xBF000000 ∧ (draining 0 3).cell 0 0 0x3F800000 = 0x40000000 ∧
    (draining 0 3).cell 0 0 0x7FC00000 = 0xBF800000 ∧ (draining 0 0).cell 0 0 0x7FC00000 = 0x7FC00000 ∧
    (draining 1 0).cell 0 0 0x3F800000 = 0x4040 ∧ (draining 6 1).cell 0 0 300 = 127 ∧ (draining 5 1).cell 0 0 0xFFFFFFFF = 0 := by
  decide +kernel

/-- A ray from (x, 0, 0) along z. -/
def alongZ (x : Nat) : RayRec :=
  { o := [x, 0, 0], d := [0, 0, 0x3FF0000000000000], tmin := 0, tmax := 0x7FF0000000000000, rayid := 0, mask := 255 }

/-- The triangle (-1, -1, 2), (1, -1, 2), (0, 1, 2), in F32; and one beside the ray. -/
def triangle : List Nat := [0xBF800000, 0xBF800000, 0x40000000, 0x3F800000, 0xBF800000, 0x40000000, 0, 0x3F800000, 0x40000000]

def aside : List Nat := [0x3F800000, 0, 0x40000000, 0x40000000, 0, 0x40000000, 0x3F800000, 0x3F800000, 0x40000000]

/-- The plane z = 5 up to x² + y² = 1. -/
def disc (rim : Bool) : Surface :=
  let one := 0x3FF0000000000000
  { m := [one, 0, 0, 0, 0, one, 0, 0, 0, 0, one, 0xC014000000000000], c := 0, k := 0, even := List.replicate 10 0, odd := List.replicate 10 0, rin := 0,
    rout := one, tol := one, itermax := 4, neven := 0, nodd := 0, rim }

/-- The ray meets the triangle at t = 2, one aside of it not at all, and the rim of the disc at t = 5 where the rim is its own. -/
theorem test_witness_ray_tests :
    edgeSign fmtF32 (0x3F800000, 0, 0x3F800000) (0, 0x3F800000, 0x3F800000) = 1 ∧ edgeSign fmtF32 (0, 0x3F800000, 0) (0, 0x3F800000, 0) = 0 ∧
    (match shear 0 (alongZ 0) triangle with
      | [A, B, C] => decide (edgeSign fmtF32 B C ≠ 0 ∧ edgeSign fmtF32 C A = edgeSign fmtF32 B C ∧ edgeSign fmtF32 A B = edgeSign fmtF32 B C)
      | _ => false) = true ∧
    (triTest 0 false false (alongZ 0) triangle).map (fun x => x.1) = some 0x4000000000000000 ∧ triTest 0 false false (alongZ 0) aside = none ∧
    surfTest (disc true) true (alongZ 0x3FF0000000000000) = .hit 0x4014000000000000 0x3FF0000000000000 0 1 ∧
    surfTest (disc true) false (alongZ 0x3FF0000000000000) = .hit 0x4014000000000000 0x3FF0000000000000 0 1 ∧
    surfTest (disc false) false (alongZ 0x3FF0000000000000) = .miss := by decide +kernel

/-- A texture of 4 by 4 texels, filtered. -/
def filtered : FetchDesc :=
  { base := 0, kind := 0, fmt := 1, levels := 1, wrapv := 1, wrapu := 1, miplin := false, lin := true, width := 4, height := 4, maxaniso := 0 }

/-- At u = 0.5 and v = 0.375 the footprint lies between columns 1 and 2, and on row 1. -/
theorem test_witness_texture : floorF32 0xBF000000 = some (-1) ∧ fracF32 0x3FC00000 = some 128 ∧ wrapIndex 0 4 (-1) = some 3 ∧ wrapIndex 1 4 (-1) = some 0 ∧
    wrapIndex 2 4 4 = some 3 ∧ wrapIndex 3 4 4 = none ∧
    filtered.taps 0 0x3F000000 0x3EC00000 1 = some [(128 * 256, 0, some (1, 1)), (128 * 256, 0, some (2, 1)), (0, 0, some (1, 2)), (0, 0, some (2, 2))] ∧
    meanOf [(1, 0x3F800000), (1, 0x40400000)] = 0x40000000 ∧ meanOf [(1, 0x3F800000), (1, 0xBF800000)] = 0 := by decide +kernel

/-- A sphere that no ray along z at x = 4 meets, and a disc whose tolerance is nothing and which takes one step. -/
def sphere : Surface := { disc true with c := 0x3FF0000000000000 }

/-- R320: the hit after one step, the fail of h below zero, and the fail of the last step; t starts at 5. -/
theorem test_witness_surfaces :
    (let y := disc true
     let (o, d) := y.localRay (alongZ 0)
     let t := fmtF64.div (fmtF64.neg (o.getD 2 0)) (d.getD 2 0)
     let v := surfEval y o d t
     let δ := fmtF64.div v.F v.Fp
     t = 0x4014000000000000 ∧ fmtF64.abs (d.getD 2 0) ≠ 0 ∧ y.neven = 0 ∧ y.nodd = 0 ∧ fmtF64.lt v.h 0 = false ∧ fmtF64.abs v.sq ≠ 0 ∧
       fmtF64.abs v.Fp ≠ 0 ∧ fmtF64.isNan v.F = false ∧ fmtF64.isNan v.Fp = false ∧ fmtF64.le (fmtF64.abs δ) y.tol = true) ∧
    surfTest sphere true (alongZ 0x4010000000000000) = .fail ∧
    surfTest { sphere with itermax := 1, tol := 0 } true (alongZ 0x3FE0000000000000) = .fail ∧
    surfTest (disc true) true { alongZ 0 with d := [0x3FF0000000000000, 0, 0] } = .miss := by decide +kernel

/-- The log at 0x11000 holds a hit of the triangle that stands at 0x11200, at t = 2. -/
def logged : State :=
  let hit := (triTest 0 false false (alongZ 0) triangle).getD (0, 0, 0, false)
  putBytes (putBytes rays 0x41000 (leBytes 4 7 ++ leBytes 4 5 ++ leBytes 4 6 ++ leBytes 4 1 ++ leBytes 8 hit.1 ++ leBytes 8 hit.2.1 ++
    leBytes 8 hit.2.2.1 ++ List.replicate 16 0 ++ leBytes 8 0x11200)) 0x41200 (triangle.flatMap (leBytes 4) ++ leBytes 4 5 ++ leBytes 4 6 ++ leBytes 4 1)

/-- R326: the short record of that hit has STATUS 0, t = 2 and the normal (0, 0, 4). -/
theorem test_witness_replay_of_a_hit :
    (match logged.rayRead (logged.wave 0).engSpace [] 0x11000 64, logged.rayRead (logged.wave 0).engSpace [] 0x11200 48,
        logged.replayLane (logged.wave 0).engSpace [] false 0x11000 (alongZ 0) with
      | .ok lg, .ok leaf, .ok bs => decide (fieldNat lg 0x38 8 = 0x11200 ∧ fieldNat lg 0x0C 4 / 32 % 2 = 0 ∧ leaf.length = 48 ∧
          fieldNat bs 0 8 = 0 ∧ bs.length = 112 ∧ fieldNat bs 8 8 = 0x4000000000000000 ∧ fieldNat bs 0x38 8 = 0x4010000000000000)
      | _, _, _ => false) = true := by decide +kernel

/-! ### Phases, queues and layers -/

/-- Clause 5 expects six lanes, three of which wave 0 holds. -/
def six : State := clause5 { Clause.empty with exp0 := 6, exp1 := 6, members := 6 } objects

/-- Wave 0's operation `i` has been at its home, and another is issued from the same place. -/
def homed (i : Instr) (s : State) : State := { after (exec .clauseHomeOp (sentBy i s)) with focus := some f0 }

/-- The wave of `t` as wave 1, and wave 0 whose arrival is the last of the phase. -/
def meets (t : State) : State := sentBy (.clarrive 1 0) { objects with clauses := t.clauses, waves := [(0, objects.wave 0), (1, t.wave 0)] }

/-- The operation of wave 1 at the home. -/
def met (s : State) : HomeOp :=
  match (s.wave 1).hops with
  | g :: _ => g
  | [] => hop s

/-- A held CLBAR, CLVOTE COUNT, CLRED ADD and, after an arrival, CLWAIT. -/
def meetings : List State := [meets (homed (.clbar 8 1 0) six), meets (homed (.clvote 8 1 8 2 9 0) six), meets (homed (.clred 10 1 2 0 1 9 0) six),
  meets (homed (.clwait 8 1 0) (homed (.clarrive 1 0) six))]

set_option maxRecDepth 16384 in
/-- R164 to R166: what is held when the last lanes arrive goes on: with the phase's status, 3 votes, and the sum of 10, 20 and 30. -/
theorem test_witness_phase_waiters :
    (∀ s ∈ meetings, s.nums = [0, 0] ∧ (s.wave 0).hops = [hop s] ∧ (s.wave 1).hops = [met s] ∧ (s.wave 0).flight = [] ∧
      (s.wave 0).ra = none ∧ (s.wave 1).ra = none ∧ (s.wave 0).life = .resident ∧ (s.wave 1).life = .resident ∧
      (s.wave 1).splits.length = 5 ∧ (met s).split = 0 ∧ (s.cluster (s.wave 1).cluster).copies = []) ∧
    (∀ s ∈ meetings, (hop s).op = .clarrive 1 0 ∧ (hop s).holding = false ∧ (hop s).reached = false ∧ (hop s).arr = 7 ∧ (hop s).act = 7 ∧
      (hop s).hnd = clauseHandle 5 (s.clause 5).gen ∧ (met s).hnd = (hop s).hnd ∧ (met s).holding = true ∧ (met s).arrived.isSome = true ∧
      s.clauseLive (hop s).hnd (s.wave 0).csr.asid (s.wave 0).csr.world = true) ∧
    (∀ s ∈ meetings, (s.wave 1).csr.asid = (s.wave 0).csr.asid ∧ (s.wave 1).csr.world = (s.wave 0).csr.world ∧
      (s.wave 0).findMemb (hop s).hnd = some 0 ∧ (s.wave 1).findMemb (hop s).hnd = some 0 ∧
      mapGet Memb.empty (s.wave 0).memb 0 = { Memb.empty with handle := (hop s).hnd, mask := 7, phase := 9 } ∧
      (mapGet Memb.empty (s.wave 1).memb 0).early = 0 ∧ (s.clause 5).arr0 + 3 = (s.clause 5).exp0 ∧
      (s.clause 5).arr1 < (s.clause 5).exp1 ∧ (s.clause 5).refs ≠ 0) ∧
    meetings.map (fun s => let t := after (exec .clauseHomeOp s)
      ((t.clause 5).phase, (t.wave 1).hops.length, ((t.wave 1).split 0).wait, t.sReg 1 8, t.sReg 1 9, t.vReg 1 10 2)) =
      [(10, 0, .none, 9, 0, 0), (10, 0, .none, 3, 9, 0), (10, 0, .none, 0, 9, 60), (10, 0, .none, 9, 0, 0)] := by
  refine ⟨?_, ?_, ?_, ?_⟩ <;> decide +kernel

/-- What a wave does alone at clause 5: joining below a quorum of 4 and reaching one of 3, leaving in part or as what the phase waits for. -/
def joins (quorum : Nat) : State :=
  clause5 { Clause.empty with quorum } (objects.modWave 0 (fun x => { x with memb := [] }))

def joining (quorum : Nat) : State := let s := joins quorum
  sentBy (.cljoin 8 1 0) { s with clauses := s.clauses.map (fun e => (e.1, { e.2 with phase := 0 })) }

/-- Clause 5 with another entry, and what acts there. -/
def atFive (c : Clause) (i : Instr) : State := sentBy i (clause5 c objects)

def acts (s : State) : State := after (exec .clauseHomeOp s)

/-- Leaving as three of six, and as the three that the phase still waits for. -/
def leaving (arr : Nat) : State := atFive { Clause.empty with exp0 := 6, exp1 := 6, members := 6, arr0 := arr } (.clleave 1 0)

def waitingFor : State := sentBy (.clwait 8 1 0) (homed (.clarrive 1 0) six)

/-- A vote where another operation has come first, or none. -/
def voting (op : Option (Nat × Nat × Nat)) : State := atFive { Clause.empty with exp0 := 6, exp1 := 6, members := 6, op0 := op } (.clvote 8 1 8 2 9 0)

/-- Closing, with references and members. -/
def closing (refs members : Nat) : State := let s := atFive { Clause.empty with members } (.clclose 1 0)
  { s with clauses := s.clauses.map (fun e => (e.1, { e.2 with refs })) }

/-- CLINFO of a clause that has faulted. -/
def telling (i : Code) : State := atFive { Clause.empty with exp0 := 6, members := 6, faulted := true } (.clinfo 8 1 i 0 none)

set_option maxRecDepth 16384 in
theorem test_witness_clause_counts : ∀ s ∈ [joining 4, joining 3, leaving 0, leaving 3, waitingFor, atFive Clause.empty (.clwait 8 1 0), voting none,
    voting (some (1, 2, 0)), voting (some (1, 1, 0)), closing 1 0, closing 1 2, closing 0 2, telling 109, telling 110], AtHome s 0 (hop s) := by
  intro s hs
  simp only [List.mem_cons, List.not_mem_nil, or_false] at hs
  obtain rfl | rfl | rfl | rfl | rfl | rfl | rfl | rfl | rfl | rfl | rfl | rfl | rfl | rfl := hs <;>
    exact atHome_of _ (by decide +kernel) (fun _ => rfl)

set_option maxRecDepth 16384 in
/-- R163, R164: three that join where four are the quorum are JOINERS; of a quorum of three they complete phase 0, and are members of phase 1. -/
theorem test_clause_joins : (joining 4).clauseLive (hop (joining 4)).hnd 0 1 = true ∧ ((joining 4).clause 5).exp0 = 0 ∧
    (let t := acts (joining 4)
     (t.clause 5).joiners = 3 ∧ (t.clause 5).phase = 0 ∧ (mapGet Memb.empty (t.wave 0).memb 0).pending = 7 ∧ t.sReg 0 8 = 1) ∧
    (let t := acts (joining 3)
     (t.clause 5).joiners = 0 ∧ (t.clause 5).phase = 1 ∧ (t.clause 5).exp0 = 3 ∧ (mapGet Memb.empty (t.wave 0).memb 0).pending = 0 ∧
     ((t.wave 0).split 0).wait = .none) := by decide +kernel

set_option maxRecDepth 16384 in
/-- R163: three that leave take their part out of EXP; the three that arrived are then all. -/
theorem test_clause_leaves : (hop (leaving 0)).holding = false ∧ (hop (leaving 0)).val 0 = 0 ∧ ((leaving 0).wave 0).findMemb (hop (leaving 0)).hnd = some 0 ∧
    (let t := acts (leaving 0)
     (t.clause 5).exp0 = 3 ∧ (t.clause 5).exp1 = 3 ∧ (t.clause 5).members = 3 ∧ (t.clause 5).phase = 9 ∧
     mapGet Memb.empty (t.wave 0).memb 0 = Memb.empty) ∧
    (let t := acts (leaving 3)
     (t.clause 5).phase = 10 ∧ (t.clause 5).exp0 = 3 ∧ (t.clause 5).arr0 = 0) := by decide +kernel

set_option maxRecDepth 16384 in
/-- R165, R166: lanes that have not arrived wait for nothing; those that have are kept; a vote counts, and one of another kind is refused. -/
theorem test_clause_waits_and_votes :
    (let t := acts (atFive Clause.empty (.clwait 8 1 0))
     (t.wave 0).hops = [] ∧ t.sReg 0 8 = 8) ∧
    ((acts waitingFor).wave 0).hops.map (fun q => (q.arrived.isSome, q.act)) = [(true, 7)] ∧
    (hop (voting none)).act = 7 ∧ (hop (voting none)).arr = 7 ∧ ((hop (voting none)).vals.drop 2).length = 3 ∧
    (∀ op ∈ [none, some (1, 2, 0)], let t := acts (voting op)
      ((t.clause 5).arr0, (t.clause 5).op0, (t.clause 5).data0) = (3, some (1, 2, 0), [1, 1, 1])) ∧
    (let t := acts (voting (some (1, 1, 0)))
     (t.wave 0).csr.trapcause = 0x0B ∧ (t.wave 0).csr.traparg = 6 ∧ (t.clause 5).arr0 = 0) := by decide +kernel

set_option maxRecDepth 16384 in
/-- R161, R170: the last reference frees an entry without members, and leaves one with members; FAULTED is told, and cleared by selector 6. -/
theorem test_clause_ends : ((acts (closing 1 0)).clause 5).live = false ∧ ((acts (closing 1 0)).clause 5).gen = 1 ∧
    ((acts (closing 1 2)).clause 5).live = true ∧ ((acts (closing 1 2)).clause 5).refs = 0 ∧
    ((acts (closing 0 2)).wave 0).csr.traparg = 4 ∧ (hop (telling 109)).val 0 = 5 ∧ (hop (telling 110)).val 0 = 6 ∧
    [acts (telling 109), acts (telling 110)].map (fun t => (t.sReg 0 8, (t.clause 5).faulted)) = [(0x80000000, true), (0x80000000, false)] := by
  decide +kernel

/-- R166: three of four votes; the least of −1, 3 and 0 in 32 bits, signed and not. -/
theorem test_clause_results : clauseResult (some (1, 0, 0)) [1, 1, 0, 1] = 1 ∧ clauseResult (some (1, 1, 0)) [1, 1, 0, 1] = 0 ∧
    clauseResult (some (1, 2, 0)) [1, 1, 0, 1] = 3 ∧ clauseResult (some (2, 1, 0)) [0xFFFFFFFF, 3, 0] = 0xFFFFFFFF ∧
    clauseResult (some (2, 1, 1)) [0xFFFFFFFF, 3, 0] = 0 ∧ clauseResult (some (2, 2, 2)) [-1, 3, 0] = 3 ∧
    clauseResult (some (2, 5, 3)) [6, 3] = 5 := by decide +kernel

/-- Two 16-byte entries stand in the queue at 0x10400, whose slots are at 0x10800. -/
def stocked : State := putBytes objects 0x40800 ((List.range 64).map (BitVec.ofNat 8))

def launching (s : State) : State := sentBy (.launch 8 3 6 0 none) s

/-- The header has changed since issue: entries of another size, or no launch queue. -/
def changed (s : State) : State := s.writeMem 0x40408 (leBytes 4 3)

def unwatched (s : State) : State := s.writeMem 0x404A0 (leBytes 4 0)

def fullQueue (s : State) : State := s.writeMem 0x40498 (leBytes 8 4)

set_option maxRecDepth 16384 in
theorem test_witness_queue_homes : ∀ s ∈ [sentBy (.qenq 1 2 4 0) objects, sentBy (.qpop 4 2 1 0) stocked, changed (sentBy (.qenq 1 2 4 0) objects),
    changed (sentBy (.qpop 4 2 1 0) stocked), changed (sentBy (.qenqu 8 2 8 0) objects), launching launches, unwatched (launching launches),
    fullQueue (launching launches)], AtHome s 0 (hop s) := by
  intro s hs
  simp only [List.mem_cons, List.not_mem_nil, or_false] at hs
  obtain rfl | rfl | rfl | rfl | rfl | rfl | rfl | rfl := hs <;> exact atHome_of _ (by decide +kernel) (fun _ => rfl)

def queued (s : State) : State := after (exec .queueHomeOp s)

set_option maxRecDepth 16384 in
/-- R178: two of three lanes find room, and two entries, which lie around the end of the queue's slots. -/
theorem test_queue_moves :
    (let s := sentBy (.qenq 1 2 4 0) objects
     let q := s.queueHead (hop s).pa
     let t := queued s
     q.sub = 0 ∧ q.elog = 4 ∧ (hop s).val 0 = 4 ∧ q.room = 2 ∧ (hop s).act = 7 ∧ (hop s).vals.length = 6 ∧
     [0, 1].map (fun i => placeOf s .write 16 (q.slot (q.tail + i))) = [some 0x40810, some 0x40820] ∧
     t.pReg 0 1 = 3 ∧ t.readNat 0x40418 8 = 7 ∧ t.readNat 0x40810 4 = 0x10200 ∧ t.readNat 0x40820 4 = 0x10204) ∧
    (let s := sentBy (.qpop 4 2 1 0) stocked
     let q := s.queueHead (hop s).pa
     let t := queued s
     q.stock = 2 ∧ q.watched = false ∧ [0, 1].map (fun i => placeOf s .read 16 (q.slot (q.head + i))) = [some 0x40830, some 0x40800] ∧
     t.pReg 0 1 = 3 ∧ t.readNat 0x40410 8 = 5 ∧ t.vReg 0 4 0 = 0x33323130 ∧ t.vReg 0 5 1 = 0x07060504 ∧ t.vReg 0 4 2 = s.vReg 0 4 2) := by
  decide +kernel

set_option maxRecDepth 16384 in
/-- R178: a queue whose entries are of another size now moves nothing; R266: a LAUNCH answers 0, or 2 and 1 where the queue is none or full. -/
theorem test_queue_refuses : (queued (changed (sentBy (.qenq 1 2 4 0) objects))).pReg 0 1 = 0 ∧ (queued (changed (sentBy (.qpop 4 2 1 0) stocked))).pReg 0 1 = 0 ∧
    (queued (changed (sentBy (.qenqu 8 2 8 0) objects))).sReg 0 8 = 2 ∧
    (let t := queued (launching launches)
     t.sReg 0 8 = 0 ∧ t.readNat 0x40498 8 = 2 ∧ t.readNat 0x40810 4 = 0x10200) ∧
    (queued (unwatched (launching launches))).sReg 0 8 = 2 ∧ (queued (fullQueue (launching launches))).sReg 0 8 = 1 := by decide +kernel

/-- Layers of two FP8 elements: two outputs with a bias of 1.0, whose weights 1, 2 and 3, 4 stand at 0 and 16. -/
def layer (act : Nat) : Layer :=
  { wfmt := 2, afmt := 2, k := 2, n := 2, bias := true, act, leakk := 1, pitch := 1, woff := 0, boff := 32, lo := 0, hi := 0x40400000, clean := true }

def weights : List Byte := [0x38, 0x40] ++ List.replicate 14 0 ++ [0x44, 0x48] ++ List.replicate 14 0 ++ [0x80, 0x3F, 0x80, 0x3F]

/-- R244, R245: inputs 1 and −2 give 1 − 4 + 1 and 3 − 8 + 1: −2 and −4, through ReLU and leaky. -/
theorem test_layers : (layer 0).run weights [0x38, 0xC0] = [0xC0000000, 0xC0800000] ∧ (layer 1).run weights [0x38, 0xC0] = [0, 0] ∧
    (layer 2).run weights [0x38, 0xC0] = [0xBF800000, 0xC0000000] ∧ (layer 3).run weights [0x38, 0x40] = [0x40400000, 0x40400000] ∧
    callInputs 1 [0x3C004000] = [0x40000000, 0x3F800000] ∧ callOutputs 2 [0x3F800000] = [0x80, 0x3F] ∧
    quantRow 2 [0x3F800000, 0x7F800000] = [0x38, 0x7E] := by decide +kernel

/-- R59, R61: a block whose greatest is 6 has scale 1, and a half is code 1; one of 12 has scale 2; a block with an infinity has scale 255. -/
theorem test_quantised_blocks : imgFinite 8 23 0x40C00000 ∧ ¬ imgFinite 8 23 0x7F800000 ∧ (imgUnits 8 23 0x40C00000).natAbs = 6 * 2 ^ (127 + 22) ∧
    (let row := fun (x : Nat) => quantRow 5 (x :: 0x3F000000 :: List.replicate 30 0)
     [0x40C00000, 0x41400000, 0x7F800000].map (fun x => (fieldNat (row x) 0 1, fieldNat (row x) 64 1)) = [(0x17, 127), (0x07, 128), (0, 255)]) := by
  decide +kernel

/-- R218: the sigmoid and the tangent of 0, the sine of 0; and an overflow into F32 saturates. -/
theorem test_drain_functions : ({ draining 0 4 with scl := 0, bias := false } : DrainForm).cell 0 0 0 = 0x3F000000 ∧
    ({ draining 0 5 with scl := 0, bias := false } : DrainForm).cell 0 0 0 = 0 ∧ ({ draining 0 6 with scl := 0, bias := false } : DrainForm).cell 0 0 0 = 0 ∧
    (draining 0 0).cell 0 0 0x7F800000 = 0x7F7FFFFF ∧ mxDot 4 0x0F 7 7 1 (leBytes 4 0x35) (leBytes 4 0xF0) = 0x3F := by decide +kernel

/-- The trap of a matrix instruction; s10:s11 are a drain's offset 0 and its parameters at `e`. -/
def mxTrap (e : Word) (i : Instr) : Nat × Dword :=
  let c := ((after (exec i (matrix.modWave 0 (scalars [(10, 0), (11, e)])))).wave 0).csr
  (c.trapcause, c.traparg)

/-- R208 to R211: shapes, formats and their combinations (ENGFAULT 16 to 19), scratch operands (MISALIGN, SCRATCH), and rows outside the window. -/
theorem test_witness_matrix_traps : mxTrap 0 (.mloadw 104 126 107 0 1 0 (some 129)) = (0x14, 16) ∧ mxTrap 0 (.mloadw 105 108 107 2 1 0 none) = (5, 1) ∧
    mxTrap 0 (.mloadw 126 108 107 2 1 0 (some 0xFF0)) = (0x15, 0xFF0 + 32 + 3) ∧ mxTrap 0 (.mstream 104 104 107 2 0 0 2 1 0 none) = (0x14, 17) ∧
    mxTrap 0 (.mstream 104 104 107 2 1 0 0 1 0 none) = (0x14, 18) ∧ mxTrap 0 (.mstream 104 105 107 2 0 0 0 1 0 none) = (5, 1) ∧
    mxTrap 0 (.mfill 104 126 107 1 4 0 (some 15)) = (9, BitVec.ofNat 64 (3 + 2 ^ 8 * 15 + 2 ^ 40 * 3)) ∧
    mxTrap 0 (.mzero 126 107 0 (some 15)) = (9, BitVec.ofNat 64 (3 + 2 ^ 8 * 15 + 2 ^ 40 * 3)) ∧
    mxTrap 0 (.mdrain 10 126 107 1 0 0 0 0 1 4 0 0 (some 15)) = (9, BitVec.ofNat 64 (3 + 2 ^ 8 * 15 + 2 ^ 40 * 3)) ∧
    mxTrap 0 (.mdrain 10 104 107 0 0 5 0 0 1 4 0 0 none) = (0x14, 19) ∧ mxTrap 8 (.mdrain 10 104 107 0 0 0 1 0 1 4 0 0 none) = (5, 8) ∧
    mxTrap 0xFF0 (.mdrain 10 104 107 0 0 0 1 0 1 4 0 0 none) = (0x15, 0xFF0 + 511) := by decide +kernel

/-- R213: MSWAP of a stale shadow plane loads it anew from scratch, where 3 stands at 0. -/
def reloading : State := let s := mxBy (.mswap 0) matrix
  { s with mx := s.mx.map (fun e => (e.1, { e.2 with shadow := { Plane.empty with loaded := true, stale := true, fmt := 4, k := 1, n := 1, pitch := 1, rows := [[9]] } })) }

theorem test_witness_reload : (reloading.gangMx 0).shadow.stale = true ∧ (reloading.gangMx 0).shadow.loaded = true ∧
    ((after (exec .matrixCommandComplete reloading)).gangMx 0).active.rows = [[3]] := by decide +kernel

/-! ### Parked waves, banks and the monitor -/

/-- The save area begins 64 bytes before the end of its page; the next page lies at 0x50000. -/
def edge : State := (putBytes handling 0x30010 (leBytes 8 0x5001D)).modWave 0 (fun x => { x with csr := { x.csr with savearea := 0x1FFC0 } })

set_option maxRecDepth 16384 in
/-- R287, R290: the image stands on both pages, its HEADER on the first, its TOKENS on the second; and no third place is written. -/
theorem test_witness_park_pages : edge.calm f4 = true ∧ edge.mayPriv f4 = true ∧ min 192 (65536 - (edge.wave 0).csr.savearea.toNat % 65536) = 64 ∧
    placeOf edge .write 64 0x1FFC0 = some 0x4FFC0 ∧ placeOf edge .write 1 0x20000 = some 0x50000 ∧
    (let s := edge.modWave 0 (fun x => { x with k := [(2, { Token.idle with failmask := 5 })] })
     let t := after (exec (.park 0) s)
     t.readNat 0x4FFC0 4 = 0x4B524150 ∧ t.readNat 0x50020 8 = 5 ∧ (t.wave 0).life = .parked) := by decide

set_option maxRecDepth 16384 in
/-- R168, R292: a membership saved one phase ago: what had arrived early has arrived, and the clause counts one parked member fewer;
PARK counts one more. -/
theorem test_witness_restore_later : let bs := leBytes 8 (clauseHandle 5 0).toNat ++ leBytes 8 7 ++ leBytes 8 3 ++ leBytes 8 4 ++ leBytes 8 1 ++ leBytes 8 0 ++ leBytes 4 8
    let s := (clause5 { Clause.empty with parked := 1 } regs).writeMem 0x40200 bs
    let t := after (exec (.clrestore 6 104 0 none) s)
    ((s.clause 5).phase - BitVec.ofNat 32 (leNat (s.readBytes 0x40230 4))).toNat = 1 ∧ (t.clause 5).parked = 0 ∧
    (let m := mapGet Memb.empty (t.wave 0).memb 0
     (m.mask, m.arrived, m.pending, m.early, m.phase) = (7, 1, 0, 0, 9)) ∧
    (let u := (clause5 Clause.empty handling).modWave 0 (fun x => { x with memb := [(3, { Memb.empty with handle := clauseHandle 5 0, mask := 7, phase := 9 })] })
     u.clauseOf 0 (clauseHandle 5 0) = true ∧ ((after (exec (.park 0) u)).clause 5).parked = 1 ∧
     ((after (exec (.park 0) u)).wave 0).memb = (u.wave 0).memb) := by decide

/-- Wave 5 of an evicted gang, parked, whose rows another gang holds; its priority is `prio`. -/
def returning (prio : Nat) : State := let s := crowd regs
  { s with
    tasks := [(0, taskOf 3 768 1), (1, taskOf prio 768 1)], nums := [5, 0],
    gangs := s.gangs ++ [(7, { Gang.none with live := true, task := 1, waves := 1, vregs := 16, ids := [(0, 5)], accRows := 768, evicted := true })],
    waves := s.waves ++ [(5, { (after (exec (.park 0) handling)).wave 0 with gang := 7, csr := { (handling.wave 0).csr with prio } })] }

set_option maxRecDepth 16384 in
/-- R21, R277: a parked wave of priority 0 has the gang of priority 3 parked; one of priority 1 waits. -/
theorem test_witness_resume_room : ((returning 0).sweep.wave 5).life = .parked ∧ (returning 0).sweep.canResume ((returning 0).sweep.wave 5) = false ∧
    (returning 0).sweep.resumeVictims ((returning 0).sweep.wave 5) = [0] ∧ ((after (exec .waveResume (returning 0))).wave 0).preempt = true ∧
    ((returning 1).sweep.wave 5).csr.prio ≠ 0 ∧ ((after (exec .waveResume (returning 1))).wave 0).preempt = false := by decide +kernel

/-- Banks 0 to 3 in the modes 0 to 3, of cluster 0. -/
def banked : State := regs.modCluster 0 (fun c => { c with banks := [0, 1, 2, 3] ++ List.replicate 28 0 })

set_option maxRecDepth 16384 in
/-- R285, R302: two bits for each bank; R285: what a wave without privilege may neither read nor write, and SMC, are PRIV. -/
theorem test_witness_privileged : banked.mayPriv f0 = true ∧ (∀ b ∈ (banked.cluster 0).banks, b < 4) ∧
    (∀ j, j < 16 → (0xE4 : Word).toNat / 4 ^ j % 4 = (banked.cluster 0).banks.getD j 0) ∧ (after (exec (.csrr 8 0x120 0) banked)).sReg 0 8 = 0xE4 ∧
    user.calm f0 = true ∧ (user.wave 0).csr.handler = false ∧ (user.wave 0).csr.priv = false ∧
    [Instr.smcVersion 8 104 6 0 none, .smcAttest 8 105 6 0 none, .smcBlockworld 8 106 6 0 none, .smcRegionworld 8 107 6 0 none,
      .smcFramecfg 8 108 6 0 none, .smcPower 8 109 6 0 none, .csrr 8 0x110 0, .csrw 8 0x148 0 none].map (fun i =>
        let c := ((after (exec i user)).wave 0).csr
        (c.trapcause, c.traparg)) = List.replicate 6 (3, 0) ++ [(3, 0x110), (3, 0x148)] := by decide

/-! ### Logged queries -/

/-- A scene of one node at 0x10C00, whose one child holds the same triangle twice: at 0x10D00 as primitive 5, at 0x10D30 as 7. -/
def sceneNode : List Byte :=
  leBytes 4 0xBF800000 ++ leBytes 4 0xBF800000 ++ leBytes 4 0x40000000 ++ [127, 127, 127, 1] ++ leBytes 4 0 ++ leBytes 4 0x10 ++ leBytes 8 0x42 ++
    List.replicate 24 0 ++ ([2, 2, 0] ++ List.replicate 21 0) ++ leBytes 8 0xFF ++ List.replicate 40 0

def triRec (prim : Nat) : List Byte := triangle.flatMap (leBytes 4) ++ leBytes 4 prim ++ leBytes 4 6 ++ leBytes 4 1

/-- The record of a ray from (x, 0, 0) along z, RAYID 1. -/
def rayRec (x : Nat) : List Byte :=
  leBytes 8 x ++ leBytes 16 0 ++ leBytes 16 0 ++ leBytes 8 0x3FF0000000000000 ++ leBytes 8 0 ++ leBytes 8 0x7FF0000000000000 ++ leBytes 4 1 ++ [255]

/-- The query of that ray, which logs at 0x11000. -/
def logging (x : Nat) : State :=
  let s := (putBytes (putBytes rays 0x40C00 sceneNode) 0x40D00 (triRec 5 ++ triRec 7)).scrWrite 0 256 (rayRec x)
  { after (exec (.trace 8 1 7 0 1 0 6 0) s) with nums := [0, 0, 0, 0, 0] }

/-- What lane 0's query comes to: 1 a hit, with its primitive and how many are near, 2 a miss. -/
def outcome (s : State) : Nat × Word × Nat :=
  let a := oldest s
  match laneQuery s (s.wave 0).engSpace a.owned (a.laneStart 0 0) (leBytes 256 (a.rayLane 0).2.1) none 0 with
  | some (r, .hit h) =>
    (match r.nears s (s.wave 0).engSpace a.owned (rayOf (leBytes 256 (a.rayLane 0).2.1)) h with
      | some (.ok near) => (1, h.prim, near.length)
      | _ => (0, 0, 0))
  | some (_, .miss _) => (2, 0, 0)
  | _ => (0, 0, 0)

set_option maxRecDepth 16384 in
/-- R323, R324: the query hits primitive 5, whose record's like is near; its log record stands at 0x11040. One beside it misses. -/
theorem test_witness_log : (∀ x ∈ [0, 0x4010000000000000], let s := logging x
      s.nums = [0, 0, 0, 0, 0] ∧ (oldest s).path = 4 ∧ (oldest s).traces = true ∧ ((oldest s).rayLane 0).1 = 256 ∧ ((oldest s).rayLane 0).2.2 = 3 ∧
      s.badScratch = [] ∧ places s (s.wave 0).engSpace .write 0x11040 64 = some [(0x41040, 64)] ∧ (oldest s).vals.getD 2 0 = 0x11000 ∧
      s.rayWriteWaits 0 (oldest s) [(0x41040, 64)] = false) ∧
    [0, 0x4010000000000000].map (fun x => outcome (logging x)) = [(1, 5, 1), (2, 0, 0)] := by decide +kernel

set_option maxRecDepth 16384 in
theorem test_log_work : ∀ x ∈ [0, 0x4010000000000000], UnitWork (logging x) 0 0 (oldest (logging x)) := by
  intro x hx
  simp only [List.mem_cons, List.not_mem_nil, or_false] at hx
  obtain rfl | rfl := hx <;> exact unitWork_of (by decide +kernel) (fun _ => rfl)

set_option maxRecDepth 16384 in
theorem test_log : (let t := after (exec .rayQueryEnd (logging 0))
     t.readBytes 0x41040 24 = leBytes 4 1 ++ leBytes 4 5 ++ leBytes 4 6 ++ leBytes 4 0x10011 ++ leBytes 8 0x4000000000000000 ∧
     t.readBytes 0x41068 24 = leBytes 4 7 ++ List.replicate 12 255 ++ leBytes 8 0x10D00 ∧ t.vReg 0 8 0 = 0x10011 ∧ t.vReg 0 11 0 = 0x40000000) ∧
    (let t := after (exec .rayQueryEnd (logging 0x4010000000000000))
     t.vReg 0 8 0 = 0) := by
  decide +kernel

/-- A hit at t = 2, of primitive `p`. -/
def hitAt (t : Nat) (p : Word) : Hit :=
  { leaf := 0x10D00, t, u := 0, v := 0, prim := p, inst := 0, surf := false, front := true, proc := false, iter := 0 }

/-- A ray from (0, y, 0) along z. -/
def alongY (y : Nat) : RayRec := { alongZ 0 with o := [0, y, 0] }

/-- R324: 2 + 2^-20 is near 2, 2 + 2^-18 is not; hits are in order of t and then of ids; R316: what passes; and a triangle missed by 2^-23 is met by
the relaxed test, one missed by a half is not. -/
theorem test_witness_near : rays.near (alongZ 0) 0x4000000000000000 0x4000000080000000 = true ∧ rays.near (alongZ 0) 0x4000000000000000 0x4000000200000000 = false ∧
    imgFinite 11 52 0x4000000080000000 ∧ (hitAt 0x4000000000000000 5).before (hitAt 0x4000000000000000 7) = true ∧
    insertHit (hitAt 0x4000000000000000 5) [hitAt 0x3FF0000000000000 9, hitAt 0x4000000000000000 7] =
      [hitAt 0x3FF0000000000000 9, hitAt 0x4000000000000000 5, hitAt 0x4000000000000000 7] ∧
    held.passes { alongZ 0 with tmax := 0x4008000000000000 } (hitAt 0x4000000000000000 5) = true ∧ imgFinite 11 52 0x4008000000000000 ∧
    held.passes { alongZ 0 with tmax := 0x3FF0000000000000 } (hitAt 0x4000000000000000 5) = false ∧
    { held with best := some (hitAt 0x4000000000000000 5) }.passes (alongZ 0) (hitAt 0x4000000000000000 7) = false ∧
    triTest 0 false false (alongY 0xBFF0000020000000) triangle = none ∧
    (triTest 0 false true (alongY 0xBFF0000020000000) triangle).map (fun x => x.1) = some 0x4000000000000000 ∧
    triTest 0 false true (alongY 0xBFF8000000000000) triangle = none := by decide +kernel

/-- The edges of that triangle: two of one sign, the third slight or not. -/
theorem test_witness_relaxed : ∀ y ∈ [0xBFF0000020000000, 0xBFF8000000000000],
    (match shear 0 (alongY y) triangle with
      | [A, B, C] =>
        let f := modeFmt 0
        let es := [(edgeSign f B C, Sys2Proof.Machine.edge f B C), (edgeSign f C A, Sys2Proof.Machine.edge f C A), (edgeSign f A B, Sys2Proof.Machine.edge f A B)]
        let det := f.add (f.add (Sys2Proof.Machine.edge f B C) (Sys2Proof.Machine.edge f C A)) (Sys2Proof.Machine.edge f A B)
        let m := edgeSign f B C
        decide ((2 ≤ es.countP (fun e => e.1 = m) ∧ (∀ e ∈ es, e.1 ≠ 0 ∧ imgFinite 8 23 e.2) ∧ imgFinite 8 23 det ∧ imgUnits 8 23 det ≠ 0) ∧
          es.any (fun e => e.1 ≠ m && decide ((imgUnits 8 23 e.2).natAbs * 2 ^ 20 ≤ (imgUnits 8 23 det).natAbs)) = decide (y = 0xBFF0000020000000))
      | _ => false) = true := by decide +kernel

/-! ### Coverage, exports, and the order of pixels -/

/-- A primitive of three places, in F32, at depths 0.5, 0.5 and 0.5. -/
def primOf (l : List (Word × Word)) (cull : Nat) : Prim :=
  { (quadOf (drawRec 0 0 3 0)).prim with cull, verts := l.flatMap (fun e => [e.1, e.2, 0x3F000000, 0x3F800000]) }

/-- Whether a primitive covers the centre of pixel (3, 4), which lies on the line from (8, 0) to (0, 8). -/
def onLine (p : Prim) : Option (Bool × Bool) := p.setup.map (fun g => (g.front, g.covers 3 4 (8, 8)))

/-- The corners of a square: the two triangles of its diagonal. -/
def lower : List (Word × Word) := [(0, 0), (0x41000000, 0), (0, 0x41000000)]

def upper : List (Word × Word) := [(0x41000000, 0), (0x41000000, 0x41000000), (0, 0x41000000)]

set_option maxRecDepth 16384 in
/-- R336: halves snap to even; a sample on the diagonal belongs to one of the two triangles, whichever way each runs; culling goes by the area's sign. -/
theorem test_witness_coverage : [0x41000000, 0x3B000000, 0x3BC00000, 0x7FC00000, 0x46800000].map snap = [some 2048, some 0, some 2, none, none] ∧
    imgFinite 8 23 0x41000000 ∧ ¬ imgFinite 8 23 0x7FC00000 ∧ 0 < imgUnits 8 23 0x3F800000 ∧
    [lower, lower.reverse, upper, upper.reverse].map (fun l => onLine (primOf l 0)) =
      [some (true, false), some (false, false), some (true, true), some (false, true)] ∧
    (primOf lower 2).setup = none ∧ (primOf lower.reverse 1).setup = none ∧ (primOf [(0, 0), (0, 0), (0, 0)] 0).setup = none ∧
    ((primOf lower 0).setup.map (fun g => (g.depth (primOf lower 0) 0 0 (8, 8), g.bary (primOf lower 0) 1 0 0))) = some (0x3F000000, 0x3D800000) ∧
    (primOf lower 0).setup.map (fun g => decide ((0, 0, 1) ∈ g.quads (quadOf (drawRec 0 0 3 0)).prim.record 0)) = some true := by decide +kernel

set_option maxRecDepth 16384 in
/-- R339: PRIMID and the indices of a primitive in a pixel wave's registers. -/
theorem test_pixel_registers : let s := waiting (drawRec 0 0 3 0)
    let t := after (exec .pixelWaveLaunch s)
    [2, 5, 8, 9, 10].map (fun r => t.vReg (s.sweep.orders + 1) r 0) = [0, 77, 0, 1, 2] ∧ t.vReg (s.sweep.orders + 1) 2 1 = 1 ∧
    t.vReg (s.sweep.orders + 1) 2 2 = 0x10000 := by decide +kernel

/-- The colour of a late draw on its way: its depth test is LESS, against 0 in memory, or ALWAYS. -/
def lateExport (zf : Byte) : State := { after (exec (.pixexp 4 0 0 0) (pixels (drawRec zf 0 3 0))) with nums := [0, 0] }

/-- Where the sample at pixel (0, 0) of a draw is found: in its target, or in its depth plane. -/
def sampleAt (s : State) (zf : Byte) (depth : Bool) : Option Nat :=
  let q := quadOf (drawRec zf 0 3 0)
  let d := q.prim.record
  let t := d.target 0
  let sp := s.rasterSpace 0 q.prim
  match (if depth then s.touchSample sp d.zAccess 4 (d.sampleVa d.zbase 4 0 0 0)
    else s.touchSample sp t.access (targetBpp t.fmt) (d.sampleVa t.base (targetBpp t.fmt) 0 0 0)) with
  | .at pa => some pa
  | _ => none

set_option maxRecDepth 16384 in
/-- R342: a late export whose test fails leaves the target; one that passes writes depth and colour. -/
theorem test_witness_late_export : (∀ zf ∈ [1, 0x83], let s := lateExport zf
      let q := quadOf (drawRec zf 0 3 0)
      s.nums = [0, 0] ∧ (oldest s).path = 1 ∧ (oldest s).op = .pixexp 4 0 0 0 ∧ (Mask.lanes (oldest s).lanesLeft)[0]? = some 0 ∧
      (s.wave 0).laneQuad 0 = some q ∧ q.samples 0 = [0] ∧ q.prim.setup.isSome = true ∧ (s.raster 0).cov = [] ∧
      q.prim.record.earlyz = false ∧ q.prim.record.zfunc ≠ 0 ∧ sampleAt s zf false = some 0x40E00 ∧ sampleAt s zf true = some 0x40C00 ∧
      sampleAt (s.writeMem 0x40C00 (leBytes 4 0x3F000000)) zf false = some 0x40E00 ∧
      (∀ p ∈ [0x40E00, 0x40C00], s.rayWriteWaits 0 (oldest s) [(p, 1)] = false)) ∧
    [1, 0x83].map (fun zf => let t := after (exec .blendExport (lateExport zf))
      (t.readNat 0x40E00 4, t.readNat 0x40C00 4)) = [(0x10000, 0), (0x3F000000, 0x3F000000)] := by decide +kernel

set_option maxRecDepth 16384 in
theorem test_late_work : ∀ zf ∈ [1, 0x83], UnitWork (lateExport zf) 0 0 (oldest (lateExport zf)) := by
  intro zf h
  simp only [List.mem_cons, List.not_mem_nil, or_false] at h
  obtain rfl | rfl := h <;> exact unitWork_of (by decide +kernel) (fun _ => rfl)

set_option maxRecDepth 16384 in
/-- R150, R342: the export owns its line from issue, where nothing else holds it; PRIMEMIT finds its record readable. -/
theorem test_witness_export_lines : (oldest (exporting 3 0)).owns = true ∧ (oldest (exporting 3 0)).lines = [0x40E00 / 128] ∧
    (∀ b ∈ ((pixels (drawRec 0 0 3 0)).wave 0).flight, b.seq < ((pixels (drawRec 0 0 3 0)).wave 0).seq) ∧
    (pixels (drawRec 0 0 3 0)).ownedFor true (0x40E00 / 128) = false ∧ ((pixels (drawRec 0 0 3 0)).wave 0).earlierOn 0 (0x40E00 / 128) = false ∧
    draws.mayLoad 0 f0 0x40200 128 = true ∧ (exporting 3 0).rayWriteWaits 0 (oldest (exporting 3 0)) [(0x40E00, 1)] = false ∧
    (quadOf (drawRec 0 0 3 0)).prim.setup.isSome = true ∧ sampleAt (exporting 3 0) 0 false = some 0x40E00 := by decide +kernel

set_option maxRecDepth 16384 in
/-- R341: an earlier primitive on the pixel's sample holds the lock back until its lane has unlocked, or its wave has ended; PIXUNLOCK marks the lane. -/
theorem test_witness_unlock : let s := sentBy (.pixlock 0) (pixels (drawRec 0 2 3 0))
    let c : LaneCov := { task := 0, ord := 0, px := 0, py := 0, samples := 1, wave := none, unlocked := false, late := false }
    let go := fun (c : LaneCov) => after (exec .pixlockGrant (s.modRaster 0 (fun r => { r with cov := [c] })))
    ((go c).wave 0).locked = 0 ∧ ((go { c with unlocked := true }).wave 0).locked = 1 ∧ ((go { c with wave := some 9 }).wave 0).locked = 1 ∧
    ((go { c with samples := 2 }).wave 0).locked = 1 ∧ ((go { c with ord := 1 }).wave 0).locked = 1 ∧
    (let u := sentBy (.pixunlock 0) ((pixels (drawRec 0 2 3 0)).modWave 0 (fun x => { x with locked := 1 }))
     let t := after (exec .pixlockGrant (u.modRaster 0 (fun r => { r with cov := [{ c with ord := 1, wave := some 0 }] })))
     (hop u).act = 1 ∧ (t.raster 0).cov.map LaneCov.unlocked = [true] ∧ (t.wave 0).locked = 0) := by decide +kernel

/-- R342: 200 of 255 in format 1; 0.5 in F16; and 0.25 + 0.5 − NaN. -/
theorem test_sample_formats : loadChannel 1 [200, 0] 0 = 0x3F48C8C9 ∧ loadChannel 1 [0] 0 = 0 ∧ loadChannel 2 [0, 0x38] 0 = 0x3F000000 ∧
    loadChannel 4 (leBytes 4 0 ++ leBytes 4 0x3F800000) 1 = 0x3F800000 ∧ storeChannel 1 0x7FC00000 = [0] ∧ storeChannel 1 (infOf 8 23) = [255] ∧
    storeChannel 2 0x7F800000 = [0xFF, 0x7B] ∧ storeChannel 3 0x7F800000 = leBytes 4 0x7F800000 ∧ imgNan 8 23 0x7FC00000 ∧
    imgFinite 8 23 0x3F000000 := by decide +kernel

/-! ### Binning and streaming -/

/-- NLINS of particle 0 at its turn, its page in the TLB, with the words of its DISP entry and of its cell's count, and OVFUSED. -/
def binning (mode : BitVec 2) (disp : Nat) (count used : Byte) : State :=
  let s := putBytes (putBytes (putBytes (gridded 0x80000000) 0x43044 [used]) 0x44000 [count]) 0x4600C (leBytes 4 disp)
  nlTurned (.nlins 8 1 4 mode 0) (s.keepTlb 256 0 (s.wave 0).csr.ttbase 0x10000)

/-- The states of the five cases: present; absent under UPDATE; binned; in the overflow area; lost. -/
def binnings : List State := [binning 0 0 0 0, binning 1 0xFFFFFFFF 0 0, binning 0 0xFFFFFFFF 0 0, binning 0 0xFFFFFFFF 1 0, binning 0 0xFFFFFFFF 1 1]

/-- The places of the particle's elements: POS, DISP, its CELL word, its cell's count, the slot in it, the overflow entry. -/
def spots : List (Dword × Nat) := [(0x17000, 16), (0x16000, 12), (0x1600C, 4), (0x14000, 4), (0x14004, 4), (0x15000, 8)]

set_option maxRecDepth 16384 in
theorem spots_found (m : List Host.Cell) (b : List Nat) (n : List NlCmd) : ∀ e ∈ spots, ∀ acc ∈ [Access.read, .write],
    State.engPlaces { binning 0 0 0 0 with mem := m, badSectors := b, nl := n }
      { asid := 0, ttbase := 0x10000, secure := true, tlbs := [256, 320] } acc e.1 e.2 = .ok [(e.1.toNat + 0x30000, e.2)] := by
  intro e he acc ha
  simp only [spots, List.mem_cons, List.not_mem_nil, or_false] at he ha
  obtain rfl | rfl := ha <;> obtain rfl | rfl | rfl | rfl | rfl | rfl := he <;> rfl

set_option maxRecDepth 16384 in
theorem binnings_alike : ∀ s ∈ binnings, s = { binning 0 0 0 0 with mem := s.mem, badSectors := s.badSectors, nl := s.nl } ∧
    s.nlSpace (nlCmd s) = { asid := 0, ttbase := 0x10000, secure := true, tlbs := [256, 320] } := by decide +kernel

theorem alike_of {s s' t : State} (h : s = { s' with mem := s.mem, badSectors := s.badSectors, nl := s.nl })
    (ht : t = { s with mem := t.mem, badSectors := t.badSectors }) : t = { s' with mem := t.mem, badSectors := t.badSectors, nl := s.nl } :=
  ht.trans (congrArg (fun u : State => { u with mem := t.mem, badSectors := t.badSectors }) h)

/-- Whatever memory holds, they are found where the TLB has them. -/
theorem test_witness_spots : ∀ s ∈ binnings, ∀ t : State, t = { s with mem := t.mem, badSectors := t.badSectors } → ∀ e ∈ spots,
    ∀ acc ∈ [Access.read, .write], t.engPlaces (s.nlSpace (nlCmd s)) acc e.1 e.2 = .ok [(e.1.toNat + 0x30000, e.2)] := by
  intro s hs t ht e he acc ha
  obtain ⟨h, h'⟩ := binnings_alike s hs
  rw [h']
  exact (congrArg (fun u => State.engPlaces u { asid := 0, ttbase := 0x10000, secure := true, tlbs := [256, 320] } acc e.1 e.2)
    (alike_of h ht)).trans (spots_found t.mem t.badSectors s.nl e he acc ha)

set_option maxRecDepth 16384 in
/-- R364: the hypotheses of the five cases, and what each leaves: STATUS, OVFUSED, the CELL word and the cell's count. -/
theorem test_witness_binned : (∀ s ∈ binnings, OnlyNl s (nlCmd s)) ∧
    (∀ s ∈ binnings, s.view = none ∧ (nlCmd s).arrived = true ∧ (nlCmd s).turned = true ∧ (nlCmd s).vals.drop 2 = [0, 0x3E800000, 0x3F000000, 0x3F000000] ∧
      (let g := gridOf (nlCmd s).head
       g.built = true ∧ g.valid = true ∧ g.cutBad = false ∧ g.npart = 1 ∧ g.cap = 1 ∧ g.ovfCap = 1 ∧ g.posVa 0 = 0x17000 ∧ g.dispVa 0 = 0x16000 ∧
         g.cellVa 0 = 0x14000 ∧ g.ovfVa 0 = 0x15000 ∧ g.cellOf [g.wrap 0 0x3E800000, g.wrap 1 0x3F000000, g.wrap 2 0x3F000000] = 0)) ∧
    binnings.map (fun s => let t := after (exec .nlCommandEnd s)
      (t.readNat 0x43004 4 % 16, t.readNat 0x43044 4, t.readNat 0x4600C 4, t.readNat 0x44000 4)) =
      [(1, 0, 0, 0), (8, 0, 0xFFFFFFFF, 0), (0, 0, 0, 1), (4, 1, 0, 1), (2, 1, 0xFFFFFFFE, 1)] := by
  refine ⟨fun s hs => ?_, ?_, ?_⟩
  · simp only [binnings, List.mem_cons, List.not_mem_nil, or_false] at hs
    obtain rfl | rfl | rfl | rfl | rfl := hs <;> exact onlyNl_of _ (by decide +kernel)
  all_goals decide +kernel

/-! ### The geometry of a grid, its pair stream, and its refusals -/

/-- The grid of `gridded`: a box of 4 × 4 × 4, periodic on its three axes, and one that is not. -/
def boxed (per : Nat) : Grid := { gridOf ((gridded 0x80000000).readBytes 0x43000 128) with per }

set_option maxRecDepth 16384 in
/-- R356, R357: 5 wraps to 1, −1 to 3, 4 and the least negative number to 0 (it rounds to the box length); the cell of 3 is 1, and of
what lies outside, the nearest; the least image of 3.5 − 0.5 is −1, of 0.5 − 3.5 is 1, and 2 stays; H2 is (skin / 2)². -/
theorem test_witness_geometry : let g := boxed 7
    let u := boxed 0
    imgFinite 8 23 (g.len.getD 0 0) ∧ 0 < imgUnits 8 23 (g.len.getD 0 0) ∧ g.n = [2, 2, 2] ∧ g.periodic 0 = true ∧ u.periodic 0 = false ∧
    [0x40A00000, 0xBF800000, 0x40800000, 0x80000001].map (g.wrap 0) = [0x3F800000, 0x40400000, 0, 0] ∧
    (u.wrap 0 0x40A00000, u.cellAx 0 0x40A00000, u.cellAx 0 0xBF800000, g.cellAx 0 0x40400000) = (0x40A00000, 1, 0, 1) ∧
    (g.mi 0 0x40600000 0x3F000000, g.mi 0 0x3F000000 0x40600000, g.mi 0 0x40000000 0, u.mi 0 0x40600000 0x3F000000) =
      (0xBF800000, 0x3F800000, 0x40000000, 0x40400000) ∧
    (g.rc2, g.h2, { g with skin := 0 }.h2, g.cellOf [0, 0, 0x40400000]) = (0x3F800000, 0x3D800000, 0, 4) := by decide +kernel

theorem test_witness_places : let g := boxed 7
    (g.cellVa 3, g.ovfVa 2, g.dispVa 1, g.posVa 1, dist2 [0x3F800000, 0x40000000, 0]) = (0x140C0, 0x15010, 0x16010, 0x17010, 0x40A00000) := by decide +kernel

/-- Three particles, the middle one absent: at 0.25 and at 3.75, its lost flag `l`; both ways, and each pair once. -/
def strewn (l : Bool) : Nat → Option (List Nat × Bool) := fun p =>
  if p = 0 then some ([0x3E800000, 0, 0], false) else if p = 2 then some ([0x40700000, 0, 0], l) else none

/-- The stream of those particles. -/
def streamed (full l : Bool) : List (Except EngErr NlPair) := (boxed 7).stream full ((List.range 3).map (fun p => (p, .ok (strewn l p))))

set_option maxRecDepth 16384 in
theorem test_witness_stream : [true, false].map (fun full => (streamed full false).map (fun e => match e with
    | .ok q => (q.i, q.j, q.d, q.d2, q.lost)
    | .error _ => (9, 9, [], 0, false))) =
      [[(0, 2, [0xBF000000, 0, 0], 0x3E800000, false), (2, 0, [0x3F000000, 0, 0], 0x3E800000, false)],
        [(0, 2, [0xBF000000, 0, 0], 0x3E800000, false)]] := by decide +kernel

/-- An NLPAIRS of two particles half apart, at its turn: word 3 of the second's DISP entry, SKIP, and the slots' length. -/
def pairing (w3 : Nat) (skip : Word) (slotLog : Byte) : State :=
  let s := (gridded 0x80000000).modWave 0 (scalars [(9, skip)])
  let s := putBytes (putBytes (putBytes (putBytes s 0x43008 [2]) 0x47000 (leBytes 4 0x3E800000)) 0x47010 (leBytes 4 0x3F400000)) 0x4601C (leBytes 4 w3)
  nlTurned (.nlpairs 12 1 6 2 1 9 0 0 none) ((putBytes s 0x48008 [slotLog]).keepTlb 256 0 (s.wave 0).csr.ttbase 0x10000)

/-- The whole stream written; from SKIP on; up to the slot's end; and up to the first lost member. -/
def pairings : List State := [pairing 0 0 6, pairing 0 1 6, pairing 0 0 5, pairing 0xFFFFFFFE 0 6]

/-- What the stream of such a command gives, and the state with the record written. -/
def paired (s : State) : NlRun × Nat × Nat :=
  let g := gridOf (nlCmd s).head
  ({ s, status := g.status, ovfUsed := g.ovfUsed, lostMin := g.lostMin, err := none } : NlRun).pairs (s.nlOut (nlCmd s)) (s.nlSpace (nlCmd s)) g true

def recorded (s : State) : State :=
  let (t, m, code) := paired s
  ((((t.s.writeMem 0x43004 (leBytes 4 t.status)).writeMem 0x43044 (leBytes 4 t.ovfUsed)).writeMem 0x43048 (leBytes 4 t.lostMin)).writeMem
    0x4304C (leBytes 4 m)).writeMem 0x43060 (leBytes 1 code)

set_option maxRecDepth 16384 in
/-- R365, R366: the hypotheses, the pairs written, ENDCODE, and the slot's status word. -/
theorem test_witness_paired : (∀ s ∈ pairings, OnlyNl s (nlCmd s)) ∧
    (∀ s ∈ pairings, (nlCmd s).arrived = true ∧ (nlCmd s).turned = true ∧ (nlCmd s).pa = 0x43000 ∧ (nlCmd s).val 0 = 0x48000 ∧
      (paired s).1.err.isNone = true ∧ (recorded s).readBytes 0x48000 128 = s.readBytes 0x48000 128) ∧
    (∀ s ∈ pairings, touchSlot (recorded s) (s.nlSpace (nlCmd s)) .write 4 ((s.ringHead 0x48000).stat ((nlCmd s).val 1)) = .at 0x4A020) ∧
    pairings.map (fun s => let t := after (exec .nlCommandEnd s)
      ((paired s).2, t.readNat 0x4304C 4, t.readNat 0x43060 1, t.readNat 0x4A020 4)) =
      [((2, 0), 2, 0, 0x80000002), ((1, 0), 1, 0, 0x80000001), ((1, 1), 1, 1, 0x80000001), ((0, 2), 0, 2, 0xD6000000)] := by
  refine ⟨fun s hs => ?_, ?_, ?_, ?_⟩
  · simp only [pairings, List.mem_cons, List.not_mem_nil, or_false] at hs
    obtain rfl | rfl | rfl | rfl := hs <;> exact onlyNl_of _ (by decide +kernel)
  all_goals decide +kernel

set_option maxRecDepth 16384 in
/-- R365: the stream of such a command, and where the engine writes a pair. -/
theorem test_witness_put : ∀ s ∈ pairings, let g := gridOf (nlCmd s).head
    (g.stream true ((List.range g.npart).map (fun p => (p, s.particle (s.nlSpace (nlCmd s)) g p)))).map Except.toOption =
      [(0, 1), (1, 0)].map (fun e => some { i := e.1, j := e.2, d := [if e.1 = 0 then 0x3F000000 else 0xBF000000, 0, 0], d2 := 0x3E800000,
                                            lost := decide (s = pairing 0xFFFFFFFE 0 6) }) ∧
    s.badSectors = [] ∧ s.view = none ∧ State.engPlaces s (s.nlSpace (nlCmd s)) .write 0x19200 32 = .ok [(0x49200, 32)] := by
  intro s hs
  simp only [pairings, List.mem_cons, List.not_mem_nil, or_false] at hs
  obtain rfl | rfl | rfl | rfl := hs <;> exact ⟨by decide +kernel, rfl, rfl, rfl⟩

/-- A command that has arrived, where the page table's entry of its record's page is `pte`. -/
def unreadable (i : Instr) (pte : Nat) (k : Nat) : State :=
  { (nlArrived i (gridded 0x80000000)).writeMem 0x30008 (leBytes 8 pte) with merges := List.replicate k { sec := 0, asid := 1, page := 9 } }

/-- The page refused by firmware. -/
def turnedAway (i : Instr) : State :=
  let s := nlArrived i (gridded 0x80000000)
  { s with nl := [{ nlCmd s with refused := true }] }

set_option maxRecDepth 16384 in
/-- R368: the record's page is absent, may not be read, or has been refused. -/
theorem test_witness_unreadable : ∀ i ∈ [nlBuild, nlInsert, nlPairs, nlState], ∀ s ∈ [unreadable i 0 0, unreadable i 0 128, unreadable i 0x40001 0, turnedAway i],
    let c := nlCmd s
    let acc := if i = nlState then Access.read else .readWrite
    OnlyNl s c ∧ (c.arrived = true ∧ c.turned = false ∧ c.page = none ∧ c.op = i) ∧
    checkVa s (s.nlSpace c) acc 128 c.grid = (if s = unreadable i 0x40001 0 then .trap 7 else if s = turnedAway i then .ok 0x43000 else .miss false) ∧
    ((s.wave c.wave).life = .resident ∧ (s.wave c.wave).died = false ∧ (s.wave c.wave).nextPend = none ∧ (s.wave c.wave).ra = none ∧
      c.split < (s.wave c.wave).splits.length ∧ (i = nlInsert ∨ ((s.wave c.wave).split c.split).wait = .home)) ∧
    s.hasMerge (s.nlHome c) c.asid (pageOf c.grid) = false ∧
    s.mergeFull (s.nlHome c) = decide (s = unreadable i 0 128) := by
  intro i hi s hs
  simp only [List.mem_cons, List.not_mem_nil, or_false] at hi hs
  obtain rfl | rfl | rfl | rfl := hi <;> obtain rfl | rfl | rfl | rfl := hs <;>
    exact ⟨onlyNl_of _ (by decide +kernel), by decide +kernel⟩

/-- What sd receives, and the entry of the merge table. -/
theorem test_unreadable : let sd := fun (s : State) => (after (exec .nlCommandTurn s)).sReg 0 12
    [nlBuild, nlPairs].map (fun i => (sd (unreadable i 0x40001 0), sd (turnedAway i))) = [(5, 5), (5, 5)] ∧
    (sd (unreadable nlState 0x40001 0), sd (turnedAway nlState)) = (0x47000000, 0x46000000) ∧
    (after (exec .nlCommandTurn (unreadable nlBuild 0 0))).merges = [{ sec := 0, asid := 0, page := 1 }] := by decide +kernel

/-- R113: −0 equals +0 and is not less; a NaN is unequal to itself; the I32 image of −0 is less than 0. -/
theorem test_witness_signed_zero :
    let s := fun (m : Word) => oneBy (fun x => execs 3 (lanes 1 [0x80000000, 0x7FC00000] (lanes 2 [0, 0x7FC00000] { x with mode := m })))
    let bits := fun (m : Word) => [.vceqVV 1 1 2 0, .vcltVV 1 1 2 0, .vcleVV 1 1 2 0, .vcneVV 1 1 2 0].map (fun i => (after (exec i (s m))).pReg 0 1)
    (s 4).quiet f0 = true ∧ ((s 4).wave 0).fpen = 0 ∧ vOk ((s 4).wave 0) 2 1 = true ∧ bits 4 = [1, 0, 1, 2] ∧ bits 0 = [2, 1, 3, 1] := by decide

end Sys2Proof.Tests
end

/-! SUPPORT. The scalar branches BRAZ and BRANZ (R98): what a split that goes to an address changes, and the two branches'
proof from it. -/

namespace Sys2Proof.Machine

/-- Every wave after the PC of a split is set. -/
theorem setPc_wave (s : State) (f : Focus) (pc : Dword) (w : Nat) :
    (s.setPc f pc).wave w =
      if f.wave = w then (s.wave f.wave).modSplit f.split (fun q => { q with pc }) else s.wave w :=
  modSplit_wave s f.wave w f.split _

/-- A split of the wave after retirement: only the issuing one changes (R40). -/
theorem retire_split_eq (s : State) (f : Focus) (S : Stall) (p : Pre) (j : Nat) :
    ((s.retire f S p).wave f.wave).split j = ((s.wave f.wave).modSplit f.split (fun q =>
      { q with next := max q.next (s.nextIssue f.wave f.split S), wait := .none })).split j := by
  rw [retire_wave, if_pos rfl]; rfl

/-- Setting the PC and retiring is going to that address: nothing else changes in a context without register errors. -/
theorem goes_setPc_retire {s : State} {f : Focus} (hk : f.split < (s.wave f.wave).splits.length)
    (hb : (s.wave f.wave).badRegs = []) (S : Stall) (p : Pre) (pc : Dword) :
    Goes s ((s.setPc f pc).retire f S p) f pc := by
  have hx : (s.setPc f pc).wave f.wave = (s.wave f.wave).modSplit f.split (fun q => { q with pc }) := by
    rw [setPc_wave, if_pos rfl]
  have hl : f.split < ((s.setPc f pc).wave f.wave).splits.length := by rw [hx, Wave.modSplit_length]; exact hk
  refine ⟨⟨rfl, fun w hw => ?_, ?_, fun k hk' => ?_⟩, ?_, ?_⟩
  · rw [retire_wave, if_neg (Ne.symm hw), setPc_wave, if_neg (Ne.symm hw)]
  · have he : tokenErrors p.writes ((s.setPc f pc).wave f.wave).badRegs = (s.wave f.wave).badRegs := by
      rw [hx, Wave.modSplit_badRegs, hb]; rfl
    rw [retire_wave, if_pos rfl, he, hx]; rfl
  · have hne : k ≠ f.split := fun h => hk' (List.mem_singleton.mpr h)
    rw [retire_split_eq, Wave.modSplit_split_ne _ _ _ _ (Ne.symm hne), hx, Wave.modSplit_split_ne _ _ _ _ (Ne.symm hne)]
  · rw [retire_wave, if_pos rfl, hx]; rfl
  · rw [retire_split_eq, Wave.modSplit_split _ _ _ _ hl, if_pos rfl, hx, Wave.modSplit_split _ _ _ _ hk, if_pos rfl]

/-- An instruction issued in a calm context, whose answer is to go to an address or to be done with no effect, goes to that
address, or to the next instruction. -/
theorem issue_goes {S : Stall} {pre : Focus → State → Pre} {body : Focus → State → Res} {s : State} {f : Focus}
    {pc : Dword} (hq : s.calm f = true) (hp : (pre f s).Fits s f)
    (hr : body f s = goTo f s pc ∨ body f s = .done s ∧ pc = f.next) :
    ∃ t, issue S pre body s = .next t ∧ Goes s t f pc := by
  obtain ⟨-, hk, -, -, hb, -⟩ := (calm_iff s f).mp hq
  refine ⟨_, issue_calm hq hp, ?_⟩
  obtain hr | ⟨hr, rfl⟩ := hr
  · rw [hr]; exact goes_setPc_retire hk hb S _ pc
  · rw [hr]; exact goes_setPc_retire hk hb S _ f.next

/-- What BRAZ and BRANZ state about themselves is met where their operand code is legal (R30, R32). -/
theorem fits_scalarBranch {s : State} {f : Focus} {d : Code} (hd : srcOk false d = true) (rs ts : List Reg) :
    Pre.Fits { ok := srcOk false d, reads := rs, raStop := ts } s f where
  priv h := nomatch h
  guard h := nomatch h
  types _ h := nomatch h
  ok := hd

/-- BRAZ goes to its target where the scalar is 0, and to the next instruction otherwise. -/
theorem execBraz_goes {s : State} {f : Focus} {d : Code} (o : BitVec 14) (S : Stall) (lit : Option Word)
    (hq : s.calm f = true) (hd : srcOk false d = true) :
    ∃ t, execBraz d o S lit s = .next t ∧
      Goes s t f (if s.readSrc f.wave f.split lit d = 0 then target f o else f.next) := by
  have hfit := fits_scalarBranch (s := s) (f := f) hd (srcRegs f.split d) (srcRegs f.split d)
  by_cases hx : s.readSrc f.wave f.split lit d = 0
  · rw [if_pos hx]; exact issue_goes hq hfit (.inl (if_pos hx))
  · rw [if_neg hx]; exact issue_goes hq hfit (.inr ⟨if_neg hx, rfl⟩)

/-- BRANZ goes to the next instruction where the scalar is 0, and to its target otherwise. -/
theorem execBranz_goes {s : State} {f : Focus} {d : Code} (o : BitVec 14) (S : Stall) (lit : Option Word)
    (hq : s.calm f = true) (hd : srcOk false d = true) :
    ∃ t, execBranz d o S lit s = .next t ∧
      Goes s t f (if s.readSrc f.wave f.split lit d = 0 then f.next else target f o) := by
  have hfit := fits_scalarBranch (s := s) (f := f) hd (srcRegs f.split d) (srcRegs f.split d)
  by_cases hx : s.readSrc f.wave f.split lit d = 0
  · rw [if_pos hx]; exact issue_goes hq hfit (.inr ⟨if_pos hx, rfl⟩)
  · rw [if_neg hx]; exact issue_goes hq hfit (.inl (if_neg hx))

/-- Settles O22, from the two branches' own lemmas: each answers `goTo` its target or `done`, and either changes nothing
but the split's PC. -/
theorem scalarBranches : Obligations.ScalarBranches := by
  intro s f stl lit d o hq hd
  exact ⟨execBraz_goes o stl lit hq hd, execBranz_goes o stl lit hq hd⟩

end Sys2Proof.Machine

/-! SUPPORT. Vector instructions that write one register of each ACTIVE lane: what a lane's result and flags leave, the
32-bit integer operands of R32 and R59, and VMULH (R110) and VSHUF (R120) from them. -/

namespace Sys2Proof.Machine

/-! ### Lane results -/

/-- What the results of a mask hold for one of its lanes. -/
theorem mapGet_laneResults {m : Mask} {L : Nat} (g : Nat → LaneRes) (hL : L ∈ Mask.lanes m) :
    mapGet (0, 0) (laneResults m g) L = g L := by
  unfold laneResults
  generalize Mask.lanes m = ls at hL
  induction ls with
  | nil => exact absurd hL List.not_mem_nil
  | cons j ls ih =>
    by_cases h : j = L
    · exact (if_pos h).trans (congrArg g h)
    · exact (if_neg h).trans (ih ((List.mem_cons.mp hL).resolve_left (Ne.symm h)))

/-- Lanes that raise no flag make no FPEXC, whatever flags are enabled (R69). -/
theorem fpTrap_flagless (x : Wave) {fl : List (Nat × Nat)} (h : ∀ e ∈ fl, e.2 = 0) : fpTrap x fl = none := by
  have hf : fl.find? (fun e => e.2 &&& x.fpen ≠ 0) = none :=
    List.find?_eq_none.mpr (fun e he => by simp [h e he])
  simp only [fpTrap, hf]

theorem raiseFlags_wave (s : State) (w : Nat) (fl : List (Nat × Nat)) (v : Nat) :
    (s.raiseFlags w fl).wave v = if w = v then
      { s.wave w with csr := { (s.wave w).csr with
        fpstat := (s.wave w).csr.fpstat ||| BitVec.ofNat 32 (unionFlags fl) } }
    else s.wave v :=
  modWave_wave s w v _

/-- Raising flags changes FPSTAT of the wave alone. -/
theorem raiseFlags_wave_same (s : State) (w : Nat) (fl : List (Nat × Nat)) :
    (s.raiseFlags w fl).wave w = { s.wave w with csr := { (s.wave w).csr with
      fpstat := (s.wave w).csr.fpstat ||| BitVec.ofNat 32 (unionFlags fl) } } := by
  rw [raiseFlags_wave, if_pos rfl]

theorem written_raiseFlags (s : State) (w k : Nat) (fl : List (Nat × Nat)) : RegsWritten s (s.raiseFlags w fl) w k := by
  have h := raiseFlags_wave_same s w fl
  refine ⟨rfl, fun v hv => by rw [raiseFlags_wave, if_neg (Ne.symm hv)], by rw [h], fun e => by rw [h, e], ?_, ?_, ?_, ?_⟩
  · rw [h]
  · rw [h]
  · intro i _; rw [h]; rfl
  · rw [h]; rfl

theorem writeV_board (s : State) (w k lat n : Nat) (m : Mask) (g : Nat → Word) :
    ((s.writeV w k lat n m g).wave w).board = ((s.produce w k lat (.v n) m
      (if 1 < lat then (Mask.lanes m).map (fun L => (L, mapGet 0 (s.wave w).v (64 * n + L))) else []) 0).wave w).board := by
  unfold State.writeV
  rw [modWave_wave, if_pos rfl]

/-- A lane of a vector register reads its result from the clk of its latency on. -/
theorem reads_writeV (s t : State) (w k lat n : Nat) (m : Mask) (g : Nat → Word) {L : Nat} (hL : L < 64)
    (hm : m.getLsbD L = true) (hb : (t.wave w).board = ((s.writeV w k lat n m g).wave w).board)
    (hv : (t.wave w).v = ((s.writeV w k lat n m g).wave w).v) : t.readsV w n L (s.clk + lat) (g L) := by
  intro c hc
  have hr : mapGet 0 (t.wave w).v (64 * n + L) = g L := by
    rw [hv]
    exact (vReg_writeV s w k lat n m g n L hL).trans (if_pos ⟨rfl, hm⟩)
  have e : ({ t with clk := c } : State).wave w = t.wave w := rfl
  unfold State.readV
  rw [e, hr, hb, writeV_board, earlyVal_produced s t w k lat (.v n) L m _ _ _ _ hm c hc, lo_setWidth]

/-- One register of a vector destination receives the low word of each lane's value. -/
theorem writeVn_one (s : State) (w k lat : Nat) (c : Code) (m : Mask) (g : Nat → Nat) :
    s.writeVn w k lat 1 c m g = s.writeV w k lat c.toNat m (fun L => BitVec.ofNat 32 (g L)) := by
  simp [State.writeVn]

/-! ### The end of a vector instruction -/

/-- With no lane ACTIVE an instruction that goes on has written nothing, in the words of the claims. -/
theorem putVector_noLane {s : State} {f : Focus} (hq : s.calm f = true) (S : Stall) (p : Pre) (lat n : Nat) (d : Code)
    (g : Nat → Nat) : PutVector s ((s.setPc f f.next).retire f S p) f lat n d 0 g 0 := by
  obtain ⟨-, hk, -, -, hb, -, -⟩ := (calm_iff s f).mp hq
  exact {
    only := onlyRegs_retire (.refl s f.wave f.split) hk hb S p
    lanes := fun i L _ _ hm => by simp at hm
    sameV := fun r L _ _ => by unfold State.vReg; rw [done_v]
    sameS := fun r _ => by unfold State.sReg; rw [done_s]
    sameP := fun r _ => by unfold State.pReg; rw [done_p]
    exec := done_exec s f S p hk
    mode := done_mode s f S p
    flags := by rw [done_csr]; simp }

@[simp] theorem writeV_s (s : State) (w k lat n : Nat) (m : Mask) (g : Nat → Word) :
    ((s.writeV w k lat n m g).wave w).s = (s.wave w).s := by rw [writeV_wave, if_pos rfl]

@[simp] theorem writeV_p (s : State) (w k lat n : Nat) (m : Mask) (g : Nat → Word) :
    ((s.writeV w k lat n m g).wave w).p = (s.wave w).p := by rw [writeV_wave, if_pos rfl]

@[simp] theorem writeV_mode (s : State) (w k lat n : Nat) (m : Mask) (g : Nat → Word) :
    ((s.writeV w k lat n m g).wave w).mode = (s.wave w).mode := by rw [writeV_wave, if_pos rfl]

@[simp] theorem writeV_csr (s : State) (w k lat n : Nat) (m : Mask) (g : Nat → Word) :
    ((s.writeV w k lat n m g).wave w).csr = (s.wave w).csr := by rw [writeV_wave, if_pos rfl]

@[simp] theorem writeV_split (s : State) (w k lat n : Nat) (m : Mask) (g : Nat → Word) (j : Nat) :
    ((s.writeV w k lat n m g).wave w).split j = (s.wave w).split j := by rw [writeV_wave, if_pos rfl]; rfl

/-- One register written in some lanes, and flags raised (R41, R68, R105), in the words of the claims. -/
theorem putVector_written {s : State} {f : Focus} (hq : s.calm f = true) (S : Stall) (p : Pre) (lat : Nat) (d : Code)
    (m : Mask) (g : Nat → Nat) (fl : List (Nat × Nat)) :
    PutVector s ((((s.writeVn f.wave f.split lat 1 d m g).raiseFlags f.wave fl).setPc f f.next).retire f S p) f lat 1 d m g
      (unionFlags fl) := by
  obtain ⟨-, hk, -, -, hb, -, -⟩ := (calm_iff s f).mp hq
  rw [writeVn_one]
  have hw := (written_writeV s f.wave f.split f.split lat d.toNat m (fun L => BitVec.ofNat 32 (g L))).trans
    (written_raiseFlags _ f.wave f.split fl)
  exact {
    only := onlyRegs_retire hw hk hb S p
    lanes := fun i L hi hL hm => by
      obtain rfl : i = 0 := by omega
      simpa using reads_writeV s _ f.wave f.split lat d.toNat m (fun L => BitVec.ofNat 32 (g L)) hL hm
        (by rw [done_board, raiseFlags_wave_same]) (by rw [done_v, raiseFlags_wave_same])
    sameV := fun r L hL hr => by
      have hne : ¬ (r = d.toNat ∧ m.getLsbD L = true) := by
        rintro ⟨rfl, hm⟩
        obtain h | h | h := hr
        · omega
        · omega
        · exact absurd (hm.symm.trans h) (by simp)
      have h := (vReg_writeV s f.wave f.split lat d.toNat m (fun L => BitVec.ofNat 32 (g L)) r L hL).trans (if_neg hne)
      unfold State.vReg at h ⊢
      rw [done_v, raiseFlags_wave_same]; exact h
    sameS := fun r _ => by unfold State.sReg; rw [done_s, raiseFlags_wave_same]; simp
    sameP := fun r _ => by unfold State.pReg; rw [done_p, raiseFlags_wave_same]; simp
    exec := by
      unfold SameExec
      rw [done_exec _ _ _ _ (by rw [hw.length]; exact hk), raiseFlags_wave_same]
      exact congrArg Split.exec (writeV_split _ _ _ _ _ _ _ _)
    mode := by rw [done_mode, raiseFlags_wave_same]; simp
    flags := by rw [done_csr, raiseFlags_wave_same]; simp }

/-- What a vector destination receives in lanes that are not written does not matter. -/
theorem PutVector.congr {s t : State} {f : Focus} {lat n : Nat} {d : Code} {m : Mask} {g g' : Nat → Nat} {fl : Nat}
    (h : PutVector s t f lat n d m g fl) (e : ∀ L ∈ Mask.lanes m, g L = g' L) : PutVector s t f lat n d m g' fl :=
  { h with lanes := fun i L hi hL hm => e L ((mem_lanes m L).mpr ⟨hL, hm⟩) ▸ h.lanes i L hi hL hm }

/-- An instruction that fits, issued in a calm context, and ends with one register of lane results of which none raises an
enabled flag, completes with those results (R69, R105). -/
theorem vectorResult_issue {i : Instr} {S : Stall} {pre : Focus → State → Pre} {body : Focus → State → Res} {s : State}
    {f : Focus} {lat : Nat} {d : Code} {m : Mask} {g : Nat → LaneRes} (hq : s.calm f = true)
    (hi : exec i s = issue S pre body s) (hp : (pre f s).Fits s f)
    (hr : body f s = vectorDone f s lat 1 d m (laneResults m g))
    (hfl : fpTrap (s.wave f.wave) ((Mask.lanes m).map (fun L => (L, (g L).2))) = none) :
    VectorResult i s f lat 1 d m g := by
  refine ⟨_, hi.trans (issue_calm hq hp), ?_⟩
  by_cases hm : m = 0
  · subst hm
    rw [hr, vectorDone, if_pos rfl]
    exact putVector_noLane hq S _ lat 1 d _
  · have hfs : (laneResults m g).map (fun r => (r.1, r.2.2)) = (Mask.lanes m).map (fun L => (L, (g L).2)) := by
      simp [laneResults]
    rw [hr, vectorDone, if_neg hm, hfs, withFlags, hfl]
    exact (putVector_written hq S _ lat d m _ _).congr (fun L hL => congrArg Prod.fst (mapGet_laneResults g hL))

/-! ### Operands of the 32-bit integer types (R32, R59) -/

/-- The 32-bit integer types are I32 and N32 (R37). -/
theorem int32_cases {t : Nat} (h : t < 2) : t = 0 ∨ t = 1 := by omega

/-- The 32-bit integer types have one element of 32 bits in one register. -/
theorem tyWidth_int32 {t : Nat} (h : t < 2) : tyWidth t = 32 := by
  obtain rfl | rfl := int32_cases h <;> rfl

theorem tyFmt_int32 {t : Nat} (h : t < 2) : tyFmt t = none := by
  obtain rfl | rfl := int32_cases h <;> rfl

theorem tyRegs_int32 {t : Nat} (h : t < 2) : tyRegs t = 1 := by simp [tyRegs, tyWidth_int32 h]

theorem tyElems_int32 {t : Nat} (h : t < 2) : tyElems t = 1 := by simp [tyElems, tyWidth_int32 h]

theorem typedOk_int32 {t : Nat} (h : t < 2) (c : Code) : typedOk t c = srcOk false c := by
  obtain rfl | rfl := int32_cases h <;> rfl

/-- A lane of one register, as a number. -/
theorem readVn_one (s : State) (w : Nat) (c : Code) (L : Nat) : s.readVn w 1 c L = (s.readV w c.toNat L).toNat := by
  simp [State.readVn, packElems, Nat.mod_eq_of_lt (s.readV w c.toNat L).isLt]

/-- What an operation of elements makes of 32-bit integers: its own result, as one register. -/
theorem byElems_int32 {t : Nat} (h : t < 2) (g : Nat → Nat → Nat → LaneRes) (x y : Word) (z : Nat) :
    byElems t g x.toNat y.toNat z =
      ((g x.toNat y.toNat (z % 2 ^ 32)).1 % 2 ^ 32, (g x.toNat y.toNat (z % 2 ^ 32)).2) := by
  simp [byElems, packElems, tyWidth_int32 h, tyElems_int32 h, Nat.mod_eq_of_lt x.isLt, Nat.mod_eq_of_lt y.isLt]

/-- The integer of an element of I32 or N32. -/
theorem elemInt_int32 {t : Nat} (h : t < 2) (x : Word) : elemInt t x.toNat = if t = 0 then x.toInt else x.toNat := by
  have hx : x.toNat % 2 ^ 32 = x.toNat := Nat.mod_eq_of_lt x.isLt
  simp only [elemInt, intVal, tyWidth_int32 h, hx]
  obtain rfl | rfl := int32_cases h
  · rw [if_pos rfl, BitVec.toInt_eq_toNat_cond]
    simp only [tySigned, decide_true, Bool.true_or, Bool.true_and, decide_eq_true_eq]
    split <;> split <;> omega
  · rfl

/-- Taking the image of 32 bits again changes nothing. -/
theorem intImg_mod (x : Int) : intImg 32 x % 2 ^ 32 = intImg 32 x := by
  unfold intImg; omega

/-- An inline code gives an integer of 32 bits its value (R31, R32). -/
theorem readSrc_inline (s : State) (w k : Nat) (lit : Option Word) {c : Code} (hc : srcOk false c = true)
    (hi : isInline c = true) : (s.readSrc w k lit c).toNat = intImg 32 (inlineInt c) := by
  simp only [srcOk, isInline, Bool.or_eq_true, Bool.and_eq_true, decide_eq_true_eq, Bool.false_and, Bool.or_false] at hc hi
  unfold State.readSrc inlineInt intImg
  obtain h | h | h : (104 ≤ c.toNat ∧ c.toNat < 120) ∨ c.toNat = 120 ∨ c.toNat = 123 := by omega
  · simp (disch := omega) only [if_neg, if_pos, BitVec.toNat_ofNat]
    omega
  · simp [h]
  · simp [h]

/-- A scalar that stands where a 32-bit integer is read gives each lane its 32-bit value (R32, R85). -/
theorem readTyped_int32 (s : State) (w k : Nat) (lit : Option Word) {t : Nat} (h : t < 2) {c : Code}
    (hc : srcOk false c = true) : s.readTyped w k lit t c = (s.readSrc w k lit c).toNat := by
  have hw := tyWidth_int32 h
  unfold State.readTyped
  by_cases hi : isInline c = true
  · rw [if_pos hi, readSrc_inline s w k lit hc hi]
    simpa [tyElems_int32 h, hw, inlineElem, tyFmt_int32 h, packElems] using intImg_mod _
  · rw [if_neg hi, hw, if_neg (by decide)]

/-- Where one register of a 32-bit integer type is read, `v` may stand, and lane `L` reads `y L` of it. -/
structure VSrc.Gives (v : VSrc) (s : State) (f : Focus) (lit : Option Word) (t : Nat) (y : Nat → Word) : Prop where
  ok : v.ok (s.wave f.wave) t 1 = true
  once : litOnce v.code = true
  read : ∀ L, s.readVSrc f.wave f.split lit t v L = (y L).toNat

theorem gives_vec {s : State} {f : Focus} (lit : Option Word) {t : Nat} (ht : t < 2) {b : Code}
    (hb : vOk (s.wave f.wave) b 1 = true) : (VSrc.vec b).Gives s f lit t (fun L => s.readV f.wave b.toNat L) where
  ok := hb
  once := rfl
  read L := by rw [State.readVSrc, tyRegs_int32 ht, readVn_one]

theorem gives_scl {s : State} {f : Focus} (lit : Option Word) {t : Nat} (ht : t < 2) {b : Code}
    (hb : srcOk false b = true) (hl : litOnce [b] = true) :
    (VSrc.scl b).Gives s f lit t (fun _ => s.readSrc f.wave f.split lit b) where
  ok := (typedOk_int32 ht b).trans hb
  once := hl
  read _ := readTyped_int32 s f.wave f.split lit ht hb

/-- An instruction of A and B of 32-bit integers that does not read D fits where MODE and its operands are legal
(R27, R34, R38). -/
theorem fits_int32 {s : State} {f : Focus} {t : State → Focus → Nat} {types : Option (List Nat)} {d a : Code}
    {b : VSrc} {lit : Option Word} {y : Nat → Word} (slow : Bool) (hg : guardBad (s.readMode f.wave) = false)
    (hty : ∀ ts, types = some ts → ts.contains (modeType (s.readMode f.wave)) = true) (ht : t s f < 2)
    (hd : vOk (s.wave f.wave) d 1 = true) (ha : vOk (s.wave f.wave) a 1 = true) (hb : b.Gives s f lit (t s f) y) :
    (vectorPre t types slow false d [.vec a, b] f s).Fits s f where
  priv h := nomatch h
  guard _ := hg
  types := hty
  ok := by
    have hl : [VSrc.vec a, b].flatMap VSrc.code = b.code := by simp [VSrc.code]
    simp [vectorPre, tyRegs_int32 ht, hd, (gives_vec lit ht ha).ok, hb.ok, hl, hb.once]

/-! ### VMULH (R110) -/

/-- The high half of the product of two elements of I32 or N32. -/
theorem byElems_mulh {t : Nat} (ht : t < 2) (env : FEnv) (x y : Word) (z : Nat) :
    let val : Word → Int := fun x => if t = 0 then x.toInt else x.toNat
    byElems t (mulhElem env t) x.toNat y.toNat z = ((val x * val y / 2 ^ 32 % 2 ^ 32).toNat, 0) := by
  intro val
  have h : mulhElem env t x.toNat y.toNat (z % 2 ^ 32) = (intImg 32 (val x * val y / 2 ^ 32), 0) := by
    rw [mulhElem, elemInt_int32 ht, elemInt_int32 ht]
  rw [byElems_int32 ht, h, intImg_mod]
  rfl

/-- VMULH completes with the high halves of the exact products, whatever kind of operand B is. -/
theorem vectorResult_mulh {i : Instr} {s : State} {f : Focus} {d a : Code} {b : VSrc} {S : Stall} {lit : Option Word}
    {y : Nat → Word} (hq : s.quiet f = true) (ht : typeOf s f < 2)
    (hi : exec i s = vector3 typeOf (some [0, 1]) false false (fun _ => 3) (fun env t => byElems t (mulhElem env t))
      d (.vec a) b S lit s)
    (hd : vOk (s.wave f.wave) d 1 = true) (ha : vOk (s.wave f.wave) a 1 = true)
    (hb : b.Gives s f lit (typeOf s f) y) :
    let val : Word → Int := fun x => if typeOf s f = 0 then x.toInt else x.toNat
    VectorResult i s f 3 1 d (s.active f.wave f.split) (fun L =>
      ((val (s.readV f.wave a.toNat L) * val (y L) / 2 ^ 32 % 2 ^ 32).toNat, 0)) := by
  intro val
  obtain ⟨hc, hg⟩ := (quiet_iff s f).mp hq
  have hty : ∀ ts, some [0, 1] = some ts → ts.contains (typeOf s f) = true := by
    rintro _ ⟨⟩
    simp only [List.contains_iff_mem, List.mem_cons, List.not_mem_nil, or_false]
    omega
  have hlane : ∀ L, byElems (typeOf s f) (mulhElem (modeEnv (s.readMode f.wave)) (typeOf s f))
      (s.readVSrc f.wave f.split lit (typeOf s f) (.vec a) L) (s.readVSrc f.wave f.split lit (typeOf s f) b L) 0 =
      ((val (s.readV f.wave a.toNat L) * val (y L) / 2 ^ 32 % 2 ^ 32).toNat, 0) := fun L => by
    rw [(gives_vec lit ht ha).read L, hb.read L]
    exact byElems_mulh ht _ _ _ _
  refine vectorResult_issue hc hi (fits_int32 false hg hty ht hd ha hb) ?_ (fpTrap_flagless _ (by simp))
  have hn : tyRegs (typeOf s f) = 1 := tyRegs_int32 ht
  simp only [hn, if_neg Bool.false_ne_true, hlane]

/-- Settles O15: both forms of B are operands of 32-bit integers, and the model's high half is that of the exact product. -/
theorem highHalvesOfProducts : Obligations.HighHalvesOfProducts := by
  intro s f d a b stl lit i y hq t ht hd ha hi
  obtain ⟨rfl, hb, rfl⟩ | ⟨rfl, hb, hl, rfl⟩ := hi
  · exact vectorResult_mulh hq ht rfl hd ha (gives_vec none ht hb)
  · exact vectorResult_mulh hq ht rfl hd ha (gives_scl lit ht ((typedOk_int32 ht b).symm.trans hb) hl)

/-! ### VSHUF (R120) -/

/-- VSHUF completes with the register of the lanes that bits 5:0 of B name, whatever kind of operand B is. -/
theorem vectorResult_shuf {i : Instr} {s : State} {f : Focus} {d a : Code} {b : VSrc} {S : Stall} {lit : Option Word}
    {y : Nat → Word} (hq : s.quiet f = true) (hi : exec i s = vshuf d a b S lit s) (hd : vOk (s.wave f.wave) d 1 = true)
    (ha : vOk (s.wave f.wave) a 1 = true) (hb : b.Gives s f lit 0 y) :
    VectorResult i s f 5 1 d (s.active f.wave f.split) (fun L =>
      ((s.readV f.wave a.toNat ((y L).extractLsb' 0 6).toNat).toNat, 0)) := by
  obtain ⟨hc, hg⟩ := (quiet_iff s f).mp hq
  have hfit : (vectorPre noType none false false d [.vec a, b] f s).Fits s f :=
    fits_int32 false hg (by rintro _ ⟨⟩) (by simp [noType]) hd ha hb
  have hlane : ∀ L, s.readVSrc f.wave f.split lit 0 b L % 64 = ((y L).extractLsb' 0 6).toNat := fun L => by
    rw [hb.read L]; simp
  refine vectorResult_issue hc hi ⟨hfit.priv, hfit.guard, hfit.types, hfit.ok⟩ ?_ (fpTrap_flagless _ (by simp))
  simp only [hlane]

/-- Settles O17: both forms of B are operands of 32-bit integers, and their low six bits name the lane. -/
theorem shufflesTakeOtherLanes : Obligations.ShufflesTakeOtherLanes := by
  intro s f d a b stl lit hq hd ha
  exact ⟨fun hb => vectorResult_shuf hq rfl hd ha (gives_vec none (by decide) hb),
    fun hb hl => vectorResult_shuf hq rfl hd ha (gives_scl lit (by decide) hb hl)⟩

end Sys2Proof.Machine

/-! SUPPORT. 64-bit destinations (R33): what a register of a pair reads once the pair is written, and CNTRD (R293) from it. -/

namespace Sys2Proof.Machine

/-! ### Results that stay readable under later results -/

/-- The newest result of a scoreboard that covers the element is readable from clk `c` on (R41, R42). -/
def SettledAt (b : List Producer) (r : Reg) (lane c : Nat) : Prop :=
  ∀ p, b.find? (fun p => p.covers r lane) = some p → p.ready ≤ c

/-- A settled element reads as it stands. -/
theorem earlyVal_of_settledAt {s : State} {r : Reg} {lane : Nat} {b : List Producer} (h : SettledAt b r lane s.clk)
    (i : Nat) (old : Producer → Dword) (cur : Dword) : earlyVal s r lane i old b cur = cur := by
  induction b generalizing i with
  | nil => rfl
  | cons p b ih =>
    cases hc : p.covers r lane with
    | true => rw [earlyVal, if_pos hc, if_pos (h p (by simp [hc]))]
    | false =>
      have hn : ¬ p.covers r lane = true := by simp [hc]
      rw [earlyVal, if_neg hn]
      exact ih (fun q hq => h q (by simpa [hc] using hq)) (i + 1)

theorem SettledAt.mono {b : List Producer} {r : Reg} {lane c c' : Nat} (h : SettledAt b r lane c) (hc : c ≤ c') :
    SettledAt b r lane c' := fun p hp => Nat.le_trans (h p hp) hc

/-- A scalar register whose element is settled reads as it stands. -/
theorem readsS_of_settledAt {t : State} {w n c : Nat} {x : Word} (h : SettledAt (t.wave w).board (.s n) 0 c)
    (hs : mapGet 0 (t.wave w).s n = x) : t.readsS w n c x := fun k hk => by
  have e : ({ t with clk := k } : State).wave w = t.wave w := rfl
  unfold State.readS
  rw [e, hs, earlyVal_of_settledAt (h.mono hk), lo_setWidth]

/-- Only the oldest results leave the scoreboard. -/
theorem pruneBoard_prefix (clk : Nat) (b : List Producer) : pruneBoard clk b <+: b :=
  List.reverse_suffix.mp (by rw [pruneBoard, List.reverse_reverse]; exact List.dropWhile_suffix _)

/-- A result settles the element it covers, at the clk of its latency. -/
theorem settledAt_produce (s : State) (w k lat : Nat) (r : Reg) {m : Mask} (old : Map Word) (ov : Dword) {lane : Nat}
    (hm : m.getLsbD lane = true) :
    SettledAt ((s.produce w k lat r m old ov).wave w).board r lane (s.clk + lat) := by
  obtain ⟨p, b, hb, hr, hl, hp⟩ | ⟨-, hne⟩ := produce_board s w k lat r m old ov
  · have hc : p.covers r lane = true := by simp [Producer.covers, hr, hl, hm]
    intro q hq
    obtain rfl : p = q := by simpa [hb, hc] using hq
    exact Nat.le_of_eq hp
  · intro q hq
    have hc : q.reg = r := by
      have := List.find?_some hq
      simp only [Producer.covers, Bool.and_eq_true, decide_eq_true_eq] at this
      exact this.1
    exact absurd hc (hne q (List.mem_of_find?_eq_some hq))

/-- A result of another register leaves an element settled. -/
theorem SettledAt.produce {s : State} {w : Nat} {r r' : Reg} {lane c : Nat} (h : SettledAt (s.wave w).board r lane c)
    (hr : r' ≠ r) (k lat : Nat) (m : Mask) (old : Map Word) (ov : Dword) :
    SettledAt ((s.produce w k lat r' m old ov).wave w).board r lane c := by
  have hpr : SettledAt (pruneBoard s.clk (s.wave w).board) r lane c :=
    fun q hq => h q ((pruneBoard_prefix _ _).find?_eq_some hq)
  simp only [State.produce, modWave_wave, if_true]
  split
  · intro q hq
    exact hpr q (by simpa [Producer.covers, hr] using hq)
  · exact hpr

/-- The clk is as before after a write of a scalar register. -/
theorem writeS_clk (s : State) (w k lat n : Nat) (x : Word) : (s.writeS w k lat n x).clk = s.clk := rfl

/-- A write of a scalar register settles it at the clk of its latency. -/
theorem settledAt_writeS (s : State) (w k lat n : Nat) (x : Word) :
    SettledAt ((s.writeS w k lat n x).wave w).board (.s n) 0 (s.clk + lat) := by
  rw [writeS_board]; exact settledAt_produce _ _ _ _ _ _ _ (by simp)

/-- A write of another scalar register leaves a scalar register settled. -/
theorem SettledAt.writeS {s : State} {w n n' c : Nat} (h : SettledAt (s.wave w).board (.s n) 0 c) (hn : n' ≠ n)
    (k lat : Nat) (x : Word) : SettledAt ((s.writeS w k lat n' x).wave w).board (.s n) 0 c := by
  rw [writeS_board]; exact h.produce (by simpa using hn) _ _ _ _ _

/-! ### 64-bit destinations -/

/-- A code of a 64-bit destination names a pair of scalar registers, EXEC, or NULL (R33). -/
theorem pairDst_cases {d : Code} (hd : pairDstOk d = true) : d.toNat < 95 ∨ d = 96 ∨ d = 127 := by
  simp only [pairDstOk, Bool.or_eq_true, Bool.and_eq_true, decide_eq_true_eq] at hd
  obtain (⟨h, -⟩ | h) | h := hd
  · exact .inl h
  · exact .inr (.inl (BitVec.eq_of_toNat_eq h))
  · exact .inr (.inr (BitVec.eq_of_toNat_eq h))

/-- A pair of scalar registers written with latency 1, in the words of the claims. -/
theorem putPair_registers {s : State} {f : Focus} (hq : s.calm f = true) (S : Stall) (p : Pre) {d : Code} (x : Dword)
    (hd : d.toNat < 95) :
    PutPair s (((s.writePair f.wave f.split 1 d x).setPc f f.next).retire f S p) f d x := by
  obtain ⟨-, hk, -, -, hb, -, -⟩ := (calm_iff s f).mp hq
  have hx : d ≠ 96 := by rintro rfl; simp at hd
  have he : s.writePair f.wave f.split 1 d x =
      (s.writeS f.wave f.split 1 d.toNat (Dword.lo x)).writeS f.wave f.split 1 (d.toNat + 1) (Dword.hi x) := by
    simp only [State.writePair, hd, if_true]
  have hlow := settledAt_writeS s f.wave f.split 1 d.toNat (Dword.lo x)
  have hhigh := settledAt_writeS (s.writeS f.wave f.split 1 d.toNat (Dword.lo x)) f.wave f.split 1 (d.toNat + 1) (Dword.hi x)
  rw [writeS_clk] at hhigh
  have hw := (written_writeS s f.wave f.split f.split 1 d.toNat (Dword.lo x)).trans
    (written_writeS _ f.wave f.split f.split 1 (d.toNat + 1) (Dword.hi x))
  rw [he]
  exact {
    only := onlyRegs_retire hw hk hb S p
    sameV := fun n L => by unfold State.vReg; rw [done_v, writeS_v, writeS_v]
    sameS := fun n hn => by
      simp only [List.mem_cons, List.not_mem_nil, or_false, not_or] at hn
      unfold State.sReg
      rw [done_s, writeS_s, writeS_s, mapGet_mapSet, if_neg (Ne.symm hn.2), mapGet_mapSet, if_neg (Ne.symm hn.1)]
    sameP := fun n _ => by unfold State.pReg; rw [done_p, writeS_p, writeS_p]
    low := fun _ => readsS_of_settledAt (by rw [done_board]; exact hlow.writeS (by omega) _ _ _)
      (by rw [done_s, writeS_s, writeS_s, mapGet_mapSet, if_neg (by omega), mapGet_mapSet, if_pos rfl])
    high := fun _ => readsS_of_settledAt (by rw [done_board]; exact hhigh)
      (by rw [done_s, writeS_s, mapGet_mapSet, if_pos rfl])
    exec := by rw [done_exec _ _ _ _ (by rw [hw.length]; exact hk), writeS_split, writeS_split, if_neg hx]
    mode := ⟨by rw [done_mode, writeS_mode, writeS_mode], by rw [done_csr, writeS_csr, writeS_csr]⟩ }

/-- EXEC written as a 64-bit destination, in the words of the claims. -/
theorem putPair_exec {s : State} {f : Focus} (hq : s.calm f = true) (S : Stall) (p : Pre) (x : Dword) :
    PutPair s (((s.writePair f.wave f.split 1 96 x).setPc f f.next).retire f S p) f 96 x := by
  obtain ⟨-, hk, -, -, hb, -, -⟩ := (calm_iff s f).mp hq
  have he : s.writePair f.wave f.split 1 96 x = s.writeExec f.wave f.split 1 (BitVec.allOnes 64) x := rfl
  rw [he]
  have hw := written_writeExec s f.wave f.split 1 (BitVec.allOnes 64) x hk
  exact {
    only := onlyRegs_retire hw hk hb S p
    sameV := fun n L => by unfold State.vReg; rw [done_v]; simp
    sameS := fun n _ => by unfold State.sReg; rw [done_s]; simp
    sameP := fun n _ => by unfold State.pReg; rw [done_p]; simp
    low := fun h => absurd h (by decide)
    high := fun h => absurd h (by decide)
    exec := by rw [done_exec _ _ _ _ (by rw [hw.length]; exact hk), writeExec_exec _ _ _ _ _ _ hk, if_pos rfl]
    mode := ⟨by rw [done_mode]; simp, by rw [done_csr]; simp⟩ }

/-- NULL as a 64-bit destination receives nothing, in the words of the claims. -/
theorem putPair_null {s : State} {f : Focus} (hq : s.calm f = true) (S : Stall) (p : Pre) (x : Dword) :
    PutPair s (((s.writePair f.wave f.split 1 127 x).setPc f f.next).retire f S p) f 127 x := by
  obtain ⟨-, hk, -, -, hb, -, -⟩ := (calm_iff s f).mp hq
  have he : s.writePair f.wave f.split 1 127 x = s := rfl
  rw [he]
  exact {
    only := onlyRegs_retire (.refl s f.wave f.split) hk hb S p
    sameV := fun n L => by unfold State.vReg; rw [done_v]
    sameS := fun n _ => by unfold State.sReg; rw [done_s]
    sameP := fun n _ => by unfold State.pReg; rw [done_p]
    low := fun h => absurd h (by decide)
    high := fun h => absurd h (by decide)
    exec := by rw [done_exec _ _ _ _ hk, if_neg (by decide)]
    mode := ⟨done_mode _ _ _ _, by rw [done_csr]⟩ }

/-- A 64-bit destination written with latency 1 (R33, R83), in the words of the claims. -/
theorem putPair_done {s : State} {f : Focus} (hq : s.calm f = true) (S : Stall) (p : Pre) {d : Code} (x : Dword)
    (hd : pairDstOk d = true) :
    PutPair s (((s.writePair f.wave f.split 1 d x).setPc f f.next).retire f S p) f d x := by
  obtain h | rfl | rfl := pairDst_cases hd
  · exact putPair_registers hq S p x h
  · exact putPair_exec hq S p x
  · exact putPair_null hq S p x

/-! ### CNTRD (R293) -/

/-- A value of `n` elements is the pack of its elements (R59). -/
theorem packElems_unpackElems (w n : Nat) {x : Nat} (hx : x < 2 ^ (w * n)) : packElems w (unpackElems w n x) = x := by
  induction n generalizing x with
  | zero =>
    obtain rfl : x = 0 := Nat.lt_one_iff.mp hx
    rfl
  | succ n ih =>
    have hcons : unpackElems w (n + 1) x = x % 2 ^ w :: unpackElems w n (x / 2 ^ w) := by
      have hstep : ∀ i, x / 2 ^ (w * (i + 1)) % 2 ^ w = x / 2 ^ w / 2 ^ (w * i) % 2 ^ w := fun i => by
        rw [Nat.div_div_eq_div_mul, ← Nat.pow_add, Nat.mul_succ, Nat.add_comm]
      simp only [unpackElems, List.range_succ_eq_map, List.map_cons, List.map_map, Nat.mul_zero, Nat.pow_zero, Nat.div_one]
      exact congrArg _ (List.map_congr_left fun i _ => hstep i)
    have hlt : x / 2 ^ w < 2 ^ (w * n) := by
      rw [Nat.div_lt_iff_lt_mul (Nat.two_pow_pos w), ← Nat.pow_add]; exact hx
    calc packElems w (unpackElems w (n + 1) x)
        = x % 2 ^ w % 2 ^ w + 2 ^ w * packElems w (unpackElems w n (x / 2 ^ w)) := by rw [hcons]; rfl
      _ = x := by rw [ih hlt, Nat.mod_mod, Nat.mod_add_div]

/-- The value whose eight six-bit fields are a wave's path counters is the one that CNTRD packs. -/
theorem packed_counters {x : Wave} {v : Dword} (hv : v.toNat < 2 ^ 48)
    (hc : ∀ i, i < 8 → v.toNat / 2 ^ (6 * i) % 64 = x.counter i) :
    BitVec.ofNat 64 (packElems 6 ((List.range 8).map x.counter)) = v := by
  have hmap : (List.range 8).map x.counter = unpackElems 6 8 v.toNat :=
    List.map_congr_left fun i hi => (hc i (List.mem_range.mp hi)).symm
  rw [hmap, packElems_unpackElems 6 8 hv, BitVec.ofNat_toNat, BitVec.setWidth_eq]

/-- What an unprivileged SYS instruction states is met where its operand codes are legal. -/
theorem fits_sysPre {s : State} {f : Focus} {ok : Bool} (h : ok = true) (reads writes : List Reg) :
    (sysPre false ok reads writes).Fits s f where
  priv h := nomatch h
  guard h := nomatch h
  types _ h := nomatch h
  ok := h

/-- CNTRD writes the packed path counters to its pair. -/
theorem execCntrd_puts {s : State} {f : Focus} {d : Code} (S : Stall) (hq : s.calm f = true) (hd : pairDstOk d = true) :
    ∃ t, execCntrd d S s = .next t ∧
      PutPair s t f d (BitVec.ofNat 64 (packElems 6 ((List.range 8).map (s.wave f.wave).counter))) :=
  ⟨_, issue_calm hq (fits_sysPre hd _ _), putPair_done hq S _ _ hd⟩

/-- Settles O31: CNTRD writes the pack of the counters, and packing undoes reading off six-bit fields. -/
theorem countersAreRead : Obligations.CountersAreRead := by
  intro s f d stl hq hd _ v hv hc
  rw [← packed_counters hv hc]
  exact execCntrd_puts stl hq hd

end Sys2Proof.Machine
